-- ==== Sys2Proof/Word.lean ====
section
/-! DEFINITION. The word types of the X4: bytes, 16, 32 and 64-bit fields, the 64 B fabric word (R13), command packets
(R207), and tables keyed by a number. -/
namespace Sys2Proof

/-- One byte. -/
abbrev Byte := BitVec 8
/-- A two-byte field. -/
abbrev W16 := BitVec 16
/-- A 32-bit register word or field. -/
abbrev W32 := BitVec 32
/-- A 64-bit field. -/
abbrev W64 := BitVec 64
/-- The 64 B payload of a fabric word (R13). -/
abbrev Line := BitVec 512
/-- A command packet: 64 B of header and then its parameter units (R207, R211). -/
abbrev Pkt := List (BitVec 8)
/-- A table keyed by numbers; an unlisted key has the default its reader names. -/
abbrev Tbl (α : Type) := List (Nat × α)

end Sys2Proof
end

