-- ==== Sys2Proof/Config/Types.lean ====
section
/-! DEFINITION. The closed sets of names of the X4: device and job states, status codes, event classes, ports, phases,
slot, request and link states, memory kinds. Their codes stand in Machine/Codes.lean. -/
namespace Sys2Proof

/-- The device states of R215. -/
inductive DevState where
  | off | boot | ready | active | drain | den | fault | service
  deriving DecidableEq, Repr

/-- The job states of R216. -/
inductive JobState where
  | opened | active | saved | lost | closed
  deriving DecidableEq, Repr

/-- The statuses of R214. -/
inductive Status where
  | ok | okDegraded | notReady | alreadyConsumed | resultGone | deferred | refusedBudget | refusedBusy
  | stateConflict | badOpcode | badParam | shapeOver | accShort | noPartition | badAddr | badCodec | objectGone
  | cancelled | peerLost | shardBad | deadlineMiss | stepTimeout | jobLost | uncorrectable | authFail | tenantBlocked
  deriving DecidableEq, Repr

/-- The event classes of R236. -/
inductive EvClass where
  | trace | notice | error | alarm
  deriving DecidableEq, Repr

/-- The five ports of a tile router (R12). -/
inductive Port where
  | n | e | s | w | l
  deriving DecidableEq, Repr

/-- The three phases of a tile (R11). -/
inductive Phase where
  | load | compute | drain
  deriving DecidableEq, Repr

/-- Model slot states of R170. -/
inductive SlotState where
  | empty | staging | staged | live | retiring
  deriving DecidableEq, Repr

/-- Request states of R262. -/
inductive ReqState where
  | deferred | prefill | decode | idle | finished | ended
  deriving DecidableEq, Repr

/-- Xanver port states of R361. -/
inductive LinkState where
  | down | training | up | retraining
  deriving DecidableEq, Repr

/-- The memories that carry a symbol code, in the numbering of UE byte 16 (R328). -/
inductive MemKind where
  | bank | regFile | accum | configStore | hbm | ddr | firmwareArea
  deriving DecidableEq, Repr

/-- The kinds of work a tier engine does (R181). -/
inductive TierKind where
  | shard | cold | move | pageWait | restream | kvReturn
  deriving DecidableEq, Repr

/-- The strap balls: TRAY_ID, BOARD_POS, CHIPID_SRC (R390). -/
structure Straps where
  tray : BitVec 5
  boardPos : Bool
  chipSrc : Bool
  deriving DecidableEq, Repr

/-- The floating and integer formats of R56, by code. -/
inductive Fmt where
  | fp32 | bf16 | fp16 | e4m3 | e5m2 | mxe4m3 | mxe5m2 | mxe3m2 | mxe2m3 | mxe2m1 | mxint8 | int8 | int4 | refine
  deriving DecidableEq, Repr

end Sys2Proof
end

