-- ==== Sys2Proof/Syntax.lean ====
section
/-! DEFINITION. The commands of the X4: one constructor for each row of spec/opcode_table.json, in its order, with the row's
operands. Command packets arrive as the queue they are read from (0-63 a submission queue, 64 the admin queue), their bytes
in the layout of R211 and R220-R233, and `pick`, a number from which the part's own choices are taken where the spec leaves
one to it (a job id, a handle, a page). Events at the part's edge carry what the outside supplies (a reading, a flit). -/
namespace Sys2Proof

inductive Instr where
  /-- R220. -/
  | nop (q : Nat) (p : Pkt) (pick : Nat)
  /-- R222. -/
  | identify (q : Nat) (p : Pkt) (pick : Nat)
  /-- R221. -/
  | setFeature (q : Nat) (p : Pkt) (pick : Nat)
  /-- R220, R221. -/
  | getFeature (q : Nat) (p : Pkt) (pick : Nat)
  /-- R223. -/
  | jobOpen (q : Nat) (p : Pkt) (pick : Nat)
  /-- R223. -/
  | jobClose (q : Nat) (p : Pkt) (pick : Nat)
  /-- R241. -/
  | partitionAlloc (q : Nat) (p : Pkt) (pick : Nat)
  /-- R243. -/
  | partitionFree (q : Nat) (p : Pkt) (pick : Nat)
  /-- R83, R224. -/
  | imageLoad (q : Nat) (p : Pkt) (pick : Nat)
  /-- R104, R224. -/
  | imageBind (q : Nat) (p : Pkt) (pick : Nat)
  /-- R171, R224: MODEL_STAGE without RESUPPLY. -/
  | modelStage (q : Nat) (p : Pkt) (pick : Nat)
  /-- R203: MODEL_STAGE with RESUPPLY. -/
  | modelStageResupply (q : Nat) (p : Pkt) (pick : Nat)
  /-- R172. -/
  | modelCommit (q : Nat) (p : Pkt) (pick : Nat)
  /-- R171. -/
  | modelEvict (q : Nat) (p : Pkt) (pick : Nat)
  /-- R161, R225. -/
  | objPlace (q : Nat) (p : Pkt) (pick : Nat)
  /-- R163, R225. -/
  | objMove (q : Nat) (p : Pkt) (pick : Nat)
  /-- R165, R225: OBJ_MOVE with TIER 0xFF. -/
  | objRelease (q : Nat) (p : Pkt) (pick : Nat)
  /-- R164, R225. -/
  | objPin (q : Nat) (p : Pkt) (pick : Nat)
  /-- R226. -/
  | run (q : Nat) (p : Pkt) (pick : Nat)
  /-- R116, R227. -/
  | runChain (q : Nat) (p : Pkt) (pick : Nat)
  /-- R116: the next stage of the chain that runs on the partition whose first group is `part`. -/
  | chainStageStart (part : Nat)
  /-- R140, R227. -/
  | stepContinue (q : Nat) (p : Pkt) (pick : Nat)
  /-- R190, R228. -/
  | cancel (q : Nat) (p : Pkt) (pick : Nat)
  /-- R228. -/
  | xfer (q : Nat) (p : Pkt) (pick : Nat)
  /-- R232. -/
  | resultFetch (q : Nat) (p : Pkt) (pick : Nat)
  /-- R267. -/
  | reqOpen (q : Nat) (p : Pkt) (pick : Nat)
  /-- R265. -/
  | reqFeed (q : Nat) (p : Pkt) (pick : Nat)
  /-- R263. -/
  | reqClose (q : Nat) (p : Pkt) (pick : Nat)
  /-- R262. -/
  | reqQuery (q : Nat) (p : Pkt) (pick : Nat)
  /-- R268. -/
  | budgetSet (q : Nat) (p : Pkt) (pick : Nat)
  /-- R229. -/
  | budgetQuery (q : Nat) (p : Pkt) (pick : Nat)
  /-- R313. -/
  | powerHint (q : Nat) (p : Pkt) (pick : Nat)
  /-- R247. -/
  | ctxSave (q : Nat) (p : Pkt) (pick : Nat)
  /-- R252. -/
  | ctxRestore (q : Nat) (p : Pkt) (pick : Nat)
  /-- R233. -/
  | traceCtl (q : Nat) (p : Pkt) (pick : Nat)
  /-- R234. -/
  | counterSnapshot (q : Nat) (p : Pkt) (pick : Nat)
  /-- R235. -/
  | exchangePlan (q : Nat) (p : Pkt) (pick : Nat)
  /-- R380: FW_UPDATE ACTION 0. -/
  | fwUpdate (q : Nat) (p : Pkt) (pick : Nat)
  /-- R381: FW_UPDATE ACTION 1. -/
  | fwActivate (q : Nat) (p : Pkt) (pick : Nat)
  /-- R384. -/
  | attest (q : Nat) (p : Pkt) (pick : Nat)
  /-- R340. -/
  | dumpRead (q : Nat) (p : Pkt) (pick : Nat)
  /-- R319. -/
  | sleep (q : Nat) (p : Pkt) (pick : Nat)
  /-- R257. -/
  | resetCompute (q : Nat) (p : Pkt) (pick : Nat)
  /-- R207, R212. -/
  | packetAccept (pick : Nat)
  /-- R244, R310. -/
  | partitionCommandStart (part pick : Nat)
  /-- R209: the decided command with this queue and SEQ. -/
  | commandComplete (q seq : Nat)
  /-- R208: the oldest waiting interim entry of this queue. -/
  | interimEntryPost (q : Nat)
  /-- R88, on tile T(c, r). -/
  | loadw (c r : Nat)
  /-- R89. -/
  | stream (c r : Nat)
  /-- R44, R65. -/
  | streamComplete (c r : Nat)
  /-- R90. -/
  | accrd (c r : Nat)
  /-- R90. -/
  | accwr (c r : Nat)
  /-- R91. -/
  | vop (c r : Nat)
  /-- R92. -/
  | scan (c r : Nat)
  /-- R93. -/
  | send (c r : Nat)
  /-- R93. -/
  | recv (c r : Nat)
  /-- R94. -/
  | steer (c r : Nat)
  /-- R94, R130. -/
  | gate (c r : Nat)
  /-- R139: the gate id of the partition. -/
  | routeReport (part gateId : Nat)
  /-- R95. -/
  | waitph (c r : Nat)
  /-- R95. -/
  | waitphRelease (c r : Nat)
  /-- R95. -/
  | waitphStall (c r : Nat)
  /-- R96. -/
  | phase (c r : Nat)
  /-- R96. -/
  | drainComplete (c r : Nat)
  /-- R97, LOOP = 1. -/
  | endLoop (c r : Nat)
  /-- R97, LOOP = 0. -/
  | endFinal (c r : Nat)
  /-- R19, R24: the head word of connection `cid` at input `inp`. -/
  | routerForward (c r : Nat) (inp : Port) (cid : Nat)
  /-- R21: a returned credit reaches the counter of `cid` at output `out`. -/
  | creditReturn (c r : Nat) (out : Port) (cid : Nat)
  /-- R28. -/
  | fabricStall (part : Nat)
  /-- R31, steering unit 0 or 1. -/
  | steerPair (c r unit : Nat)
  /-- R101. -/
  | inningStart (part : Nat)
  /-- R99. -/
  | inningEnd (part : Nat)
  /-- R148. -/
  | huddleOpen (part : Nat)
  /-- R150: the oldest segment received from part `src` for the huddle of partition `part`. -/
  | segmentReceived (part src : Nat)
  /-- R151. -/
  | huddleClose (part : Nat)
  /-- R152. -/
  | huddlePeerTimeout (part peer : Nat)
  /-- R99, R226. -/
  | runComplete (part : Nat)
  /-- R141. -/
  | stepTimeout (part : Nat)
  /-- R185: the next waiting descriptor of queue `q`. -/
  | descriptorIssue (q : Nat)
  /-- R180: Fox engine FX`k` serves one block. -/
  | foxBlockTransfer (k : Nat)
  /-- R188: descriptor number `d`. -/
  | descriptorResume (d : Nat)
  /-- R184: the oldest burst in flight of FX`k`. -/
  | burstLanded (k : Nat)
  /-- R176. -/
  | deadlineReached (d : Nat)
  /-- R198. -/
  | altdescIssue (d : Nat)
  /-- R200. -/
  | deadlineMiss (d : Nat)
  /-- R143: tier engine TE`j` starts the cold fetch of object `h` into cold pool entry `pick`. -/
  | coldFetchStart (j h pick : Nat)
  /-- R144. -/
  | coldFetchLanded (j : Nat)
  /-- R202. -/
  | shardCopied (j : Nat)
  /-- R203: the MODEL_STAGE with this queue and SEQ. -/
  | stageTimeout (q seq : Nat)
  /-- R163. -/
  | pageSwitch (j pick : Nat)
  /-- R247. -/
  | ctxSavePoint (part : Nat)
  /-- R251. -/
  | ctxSaveComplete (part : Nat)
  /-- R261: a step of a model, with the output row and STOP bit the image gave for each token of the step that completes, in
  order, and the status it ended with. -/
  | servingStep (job model : Nat) (rows : List (List Byte × Bool)) (st : Status)
  /-- R269. -/
  | stepBoundaryAdmission (job model : Nat)
  /-- R273. -/
  | kvBlockReturn (j : Nat)
  /-- R270. -/
  | deferredExpiry (req : Nat)
  /-- R263. -/
  | requestRetentionExpiry (req : Nat)
  /-- R279: the row a draft step gives, or the output row and STOP bit of each token of the main model's step; and the status that step
  ended with. -/
  | draftStep (req : Nat) (draft : List Byte) (out : List (List Byte × Bool) × Status)
  /-- R207. -/
  | qdbSqTail (n : Nat) (v : W32)
  /-- R207. -/
  | qdbAqTail (v : W32)
  /-- R208. -/
  | qdbCqHead (n : Nat) (v : W32)
  /-- R208. -/
  | qdbAcqHead (v : W32)
  /-- R236. -/
  | evqHead (v : W32)
  /-- R350. -/
  | qdbAqEnable (v : W32)
  /-- R352. -/
  | evqEnable (v : W32)
  /-- R335. -/
  | evqOverflow
  /-- R239. -/
  | msixFire (vec : Nat)
  /-- R370. -/
  | msixUnmask (vec : Nat)
  /-- R357. -/
  | nrgSnap (v : W32)
  /-- R317, R318: the energy measured since the last update, in µJ: at VIN64, of the fill, of each column group, and of the units that
  commands share: HBM, Fox and tier engines first, exchange engines and links second. -/
  | energyUpdate (total fill : Nat) (cgs units : List Nat)
  /-- R358. -/
  | fabWdogCtl (v : W32)
  /-- R354. -/
  | pwrVrOverride (v : W32)
  /-- R355. -/
  | thmTrip (v : W32)
  /-- R360. -/
  | eccInjectArm (v : W32)
  /-- R360. -/
  | eccCheckDisable (v : W32)
  /-- R360. -/
  | eccWritebackDisable (v : W32)
  /-- R362, die CD`n`. -/
  | rasSpareMap (n : Nat) (v : W32)
  /-- R363. -/
  | dbgCtl (v : W32)
  /-- R369. -/
  | hdmbase (v : W64)
  /-- R369. -/
  | bar2tgt (v : W64)
  /-- R347: a write to the _LO word at this offset. -/
  | loWordStage (off : Nat) (v : W32)
  /-- R343: a write of a word with these byte enables. -/
  | registerWrite (off : Nat) (v : W32) (be : BitVec 4)
  /-- R365. -/
  | mgPartid (v : Byte)
  /-- R295, R364: the value and the bytes of it that the transfer writes. -/
  | mgRacktime (v : W64) (be : BitVec 8)
  /-- R307, R364: one transfer over CAP, CAP_DEADLINE and CAP_AT, with what it writes of them; of CAP_AT the value and the
  bytes of it that are written. -/
  | mgCap (cap : Option W16) (deadline : Option W32) (capAt : W64 × BitVec 8)
  /-- R307. -/
  | mgCapSlew (v : W16)
  /-- R307. -/
  | mgRamp (v : W16)
  /-- R286, R364. -/
  | mgPeermask (v : W64) (be : BitVec 8)
  /-- R286. -/
  | mgTenant (v : Byte)
  /-- R215. -/
  | mgDrain (v : Byte)
  /-- R372: a host store of these bytes, or a load of `n` bytes, at device physical address `d`. -/
  | cxlMemAccess (d n : Nat) (store : Option (List Byte))
  /-- R373: the same through BAR2, at offset `x`. -/
  | bar2Access (x n : Nat) (store : Option (List Byte))
  /-- R255. -/
  | jobFault
  /-- R255. -/
  | allJobsLost
  /-- R337. -/
  | fatalDumpReady
  /-- R323. -/
  | tileParityError (c r : Nat)
  /-- R325: the scrub reads the word at `addr` of a memory (`tile` names the tile of a bank). -/
  | patrolScrub (k : MemKind) (addr : Nat)
  /-- R326: the block at chip address `addr`, with the spare that is taken for it. -/
  | blockRetire (k : MemKind) (addr spare : Nat)
  /-- R327. -/
  | ceSummary
  /-- R324: the bridge link into tile T(c, r) at its input `inp`. -/
  | bridgeCrcRetry (c r : Nat) (inp : Port)
  /-- R330: spare code 1 a Badger core, 2 a Fox engine, 3 a tier engine, and its number. -/
  | unitFailure (code n : Nat)
  /-- R329, phase number. -/
  | powerPhaseFailure (n : Nat)
  /-- R329, hub 0 or 1. -/
  | pllLockLoss (hub : Nat)
  /-- R329: the two readings of a sensor code, in 0.125 °C, and which of them is failed. -/
  | sensorDisagree (code : Nat) (a b : W16)
  /-- R301: VIN64 in units of 10 mV. -/
  | vin64UndervoltReset (vin : Nat)
  /-- R301: VIN64 in units of 10 mV, with the input power before, in W. -/
  | vin64OutOfRange (vin power : Nat)
  /-- R314: the level of PWR_ALERT_N, how long it has been so in ns, and the input power before, in W. -/
  | pwrAlertN (low : Bool) (ns power : Nat)
  /-- R314. -/
  | floorExit
  /-- R308: the present power, in W. -/
  | capEffective (power : Nat)
  /-- R309: the 100 µs average power, in W. -/
  | capLag (power : Nat)
  /-- R310. -/
  | fillReachesDemand (part pick : Nat)
  /-- R313. -/
  | hintFillTimeout (part : Nat)
  /-- R312: input power at the episode's end, in W, and the fill energy of the episode, in µJ. -/
  | rampFill (power energy : Nat)
  /-- R315: a sensor code and its reading in 0.125 °C. -/
  | thermThrottle (code : Nat) (temp : W16)
  /-- R315. -/
  | throttleStep
  /-- R315. -/
  | throttleRelease (code : Nat) (temp : W16)
  /-- R315; the input power before, in W. -/
  | thermalFloor (code : Nat) (temp : W16) (power : Nat)
  /-- R316. -/
  | thermtripN (code : Nat) (temp : W16)
  /-- R305. -/
  | droopDetect
  /-- R305. -/
  | droopRecover
  /-- R319. -/
  | denEntered
  /-- R320. -/
  | woke
  /-- R394: VIN64 in units of 10 mV. -/
  | powerUp (vin : Nat)
  /-- R394: the straps sampled (TRAY_ID, BOARD_POS, CHIPID_SRC). -/
  | pwrGood (tray : BitVec 5) (boardPos chipSrc : Bool)
  /-- R395: a low pulse of this many ns, and the straps as a full boot finds them (R390). -/
  | resetN (ns : Nat) (straps : Straps)
  /-- R395: the same on PERST_N. -/
  | perstN (ns : Nat) (straps : Straps)
  /-- R377. -/
  | bootImageCheck
  /-- R378: what training and the tile tests of this boot found: stacks trained, DDR5 channels trained, GiB of each DIMM,
  and the faulty physical tiles of each die, as (die, column, row). -/
  | ready (hbm : Byte) (ddr : BitVec 12) (dimmGib : List Nat) (faults : List (Nat × Nat × Nat))
  /-- R375. -/
  | hotReset
  /-- R391. -/
  | cxlRefclkLoss
  /-- R295. -/
  | rackclkLoss
  /-- R381. -/
  | fwActivated
  /-- R290: port 0-7 a rack port, 8 the board port, and the 256 bytes of the flit. -/
  | flitReceive (port : Nat) (flit : List Byte)
  /-- R292. -/
  | replayTimeout (port : Nat)
  /-- R293, R294: the cause and the good lanes. -/
  | linkDown (port cause good : Nat)
  /-- R294: the failed lane, the spare lane and the cause. -/
  | laneSpared (port lane spare cause : Nat)
  /-- R294. -/
  | portTrainRetry (port : Nat)
  /-- R291. -/
  | rdreqServe
  /-- R299. -/
  | keepalive (peer : Nat)
  /-- R299. -/
  | peerDownTimeout (peer : Nat)
  /-- R296: the port in use, the four rally counts of an exchange (own send, master receive, master send, own receive)
  and the residence times of request and reply. -/
  | rallyExchange (port : Nat) (t1 t2 t3 t4 : W64) (res1 res2 : Nat)
  /-- R296. -/
  | rallyUnsync (port : Nat)
  /-- R232. -/
  | outputRetentionExpiry (req idx : Nat)
  /-- R294: good lanes and lanes in use after training. -/
  | portUp (port good : Nat)
  /-- R394. -/
  | rackclkStart
  /-- R313. -/
  | hintLeadTime (part : Nat)
  /-- R313. -/
  | hintLightRecovery (part : Nat)
  /-- R308: the 100 µs average power in W, and the step FCLK goes to. -/
  | capMet (power fclk : Nat)
  deriving DecidableEq, Repr

end Sys2Proof
end

