-- ==== Sys2Proof/Decode.lean ====
section
/-! DEFINITION. The commands that words spell by the table's bits. No row of the table gives bits, so no word spells one. -/
namespace Sys2Proof

/-- The command a word of `nbits` bits spells: none, as spec/opcode_table.json gives no row any field (log 23). -/
def decodeTableWord (_nbits _w : Nat) : Option Instr := none

end Sys2Proof
end

