-- ==== Sys2Proof/Config.lean ====
section
/-! DEFINITION. What an X4 fixes and the spec does not say: free values and functions with no body. Nothing in the model can
see what they are, so a statement holds whatever they are. Each is named in the assumption log. -/
namespace Sys2Proof.Config

/-- A byte the spec leaves undefined, by the model's counter State.fresh and an index (log 6). -/
opaque freeByte : Nat → Nat → Byte

/-- Where within its 2 ulp bound exp2 (0) or log2 (1) of an FP32 pattern lies (R70, log 7). -/
opaque ulpStep : Nat → W32 → Nat

/-- exp2 of an FP32 pattern whose result is below the normal range, where R70 states no bound (log 7). -/
opaque exp2Low : W32 → W32

/-- The NaN of a vector ALU operation (by VFN) none of whose inputs is a NaN: sign and payload (R69, log 8). -/
opaque vectorNan : Nat → W32 → W32 → W32 → W32

/-- The INT32 shift (by VFN) of a lane by more than 31 (R70, log 8). -/
opaque vectorShift : Nat → W32 → W32 → W32

/-- Does this part take a pulse of 1 to 10 µs on RESET_N (false) or PERST_N (true) for a reset (R395, log 2)? -/
opaque shortResetActs : Bool → Bool

/-- Nymzo's vendor ID (R368, log 2). -/
opaque vendorId : Nat

/-- Do all 8 lanes of the host link train, by State.fresh, or 4, and the rate it reaches, as PCIe numbers it (R367, log 2)? -/
opaque hostLanes : Nat → Bool
opaque hostRate : Nat → Fin 6

/-- Is there a copy, in DDR5 or on chip, of the structure in the firmware area that a chip address belongs to (R322, log 16)? -/
opaque fwAreaCopy : Nat → Bool

/-- What a tile sends a neighbour in a halo step, or receives from it (R120): its boundary rows or its halo rows, as vectors of 128 B at
a bank address in 64 B units, on a connection. -/
structure HaloMove where
  recv : Bool
  cid : Nat
  unit : Nat
  vecs : Nat
  deriving DecidableEq, Repr

/-- A tile's part in a halo step (R120): its place in the tile order, the micro-op that begins its COMPUTE phase, the first register-file
unit of a buffer, the advance entry of its addresses, its exchanges, and the halo rows beyond the partition's outer edge. -/
structure HaloTile where
  pos : Nat
  start : Nat
  buffer : Nat
  adv : Nat
  moves : List HaloMove
  edges : List (Nat × Nat)
  deriving DecidableEq, Repr

/-- What the X3 image asks of a halo step (R120): the configuration, its h boundary rows, the CIDs the X3 image leaves free at every
router the halo crosses, the two of them the translation assigns, the words of a chunk, and the tiles. -/
structure HaloStep where
  cfg : Nat
  rows : Nat
  free : List Nat
  cids : List Nat
  chunk : Nat
  tiles : List HaloTile
  deriving DecidableEq, Repr

/-- What an X3 container translates to (R105): the sections of a native image, before the halo steps, and those steps. -/
structure Translation where
  image : List Byte
  halos : List HaloStep
  deriving DecidableEq, Repr

/-- The translation of an X3 container, or none when it needs a feature without an X4 equivalent (R105, log 10). -/
opaque x3Translate : List Byte → Option Translation

end Sys2Proof.Config
end

