-- ==== Sys2Proof/Machine/Parts/Base.lean ====
section
/-! DEFINITION. State of the clocks, pins, registers, rings, events and interrupts of the X4 (R206-R239, R295, R341-R366). -/
namespace Sys2Proof.Machine

/-- Byte-addressed storage: the cells that hold something else than 0x00, addresses rising. -/
abbrev Mem := List Host.Cell

/-- Clocks, rack time and the rally counter (R295, R296, R305, R356, R391, R392). -/
structure Clk where
  /-- Rack time, 2.5 ns units (R295). -/
  rackTime : W64
  /-- The rally counter, 1.25 ns ticks (R296). -/
  rally : W64
  /-- FCLK periods since boot: the model's time base for FCLK counts (R28). -/
  ticks : Nat
  /-- Fraction of a rack-time unit left by FCLK periods, in units of 1/FCLK (R392). -/
  rackPhase : Nat
  /-- Fraction of a rally tick left by FCLK periods (R392). -/
  rallyPhase : Nat
  /-- FCLK in MHz, 100-700 in steps of 25 (R305); PWR_FCLK.FCLK. -/
  fclk : Nat
  /-- FCLK periods are being stretched by droop (R305). -/
  stretched : Bool
  /-- FCLK periods since the rail recovered, while stretched (R305). -/
  recovered : Nat
  /-- PWR_STRETCH.COUNT (R353). -/
  stretchCount : W64
  /-- RACKCLK is running (R295). -/
  rackclk : Bool
  /-- CLK_STATUS.RACKCLK_LOST (R356). -/
  rackclkLost : Bool
  /-- CLK_STATUS.RTLOADED: rack time was loaded this boot (R295). -/
  rtLoaded : Bool
  /-- CLK_STATUS.RALLYSYNC (R296). -/
  rallySync : Bool
  /-- Consecutive exchanges with an offset within 20 ns (R296). -/
  rallyGood : Nat
  /-- An exchange has set the counter since boot or since the last loss (R296). -/
  rallyLocked : Bool
  /-- CLK_STATUS.OFFSET: last measured offset, signed ticks (R296). -/
  rallyOffset : Int
  /-- Rack time of the last RALLY reply (R296). -/
  rallyReplyAt : W64
  /-- CLK_STATUS.MASTER (R356); 0xFF when none. -/
  rallyMaster : Byte
  /-- Good PLLs: bits 0-1 HB0, bits 2-3 HB1 (R356). -/
  pllGood : BitVec 4
  /-- CXL_REFCLK is present (R391). -/
  cxlRef : Bool
  deriving DecidableEq, Repr

/-- The slow domain as registers of type ST show it (R6, R345). -/
structure Slow where
  /-- Part of an SCLK period that has passed, in units of 1/FCLK. -/
  phase : Nat
  /-- The copies that reads return, by 65,536 × block + word, as the last SCLK edge left them; before the first edge there is none. -/
  copies : Tbl W32
  /-- Writes posted since the last edge, oldest first: word of PWR and value. -/
  posted : List (Nat × W32)
  deriving DecidableEq, Repr

/-- The sideband pins and the sampled straps (R387, R390). -/
structure Pins where
  /-- VIN64 in units of 10 mV (R301). -/
  vin : Nat
  /-- PWR_GOOD is released (R387). -/
  pwrGood : Bool
  /-- THERMTRIP_N is driven low (R316). -/
  thermtrip : Bool
  /-- CLKREQ_N is driven low, from PWR_GOOD onward (R387). -/
  clkreq : Bool
  /-- PWR_ALERT_N is low (R314). -/
  alert : Bool
  /-- TRAY_ID as sampled (R390). -/
  trayId : BitVec 5
  /-- BOARD_POS as sampled (R390). -/
  boardPos : Bool
  /-- CHIPID_SRC as sampled (R390). -/
  chipSrc : Bool
  deriving DecidableEq, Repr

/-- GLB: identity and global control (R348), with the device state of R215. -/
structure Glb where
  /-- The device state (R215). -/
  state : DevState
  /-- GLB_PARTID.PARTID (R348). -/
  partId : BitVec 6
  /-- MG_PARTID has been written this boot (R365). -/
  partSet : Bool
  /-- GLB_FWVER (R348). -/
  fwVer : W32
  /-- GLB_ERR.PARTIAL (R348). -/
  errPartial : Bool
  /-- GLB_ERR.LOCKED (R348). -/
  errLocked : Bool
  /-- GLB_ERR.CFGERR (R348). -/
  errCfg : Bool
  /-- GLB_SCRATCH (R348). -/
  scratch : W32
  /-- An accepted SLEEP whose Den entry has not ended: its SEQ on the AQ (R215, R319). -/
  sleep : Option Nat
  /-- Input power at SLEEP's acceptance, W (R319). -/
  sleepPower : Nat
  /-- Rack time at which the entry into Den began (R319). -/
  sleepAt : W64
  /-- MG_DRAIN.DRAIN: the rack manager requests DRAIN (R215). -/
  drainReq : Bool
  /-- Den is being entered: domains off, fill falling (R319). -/
  denEntry : Bool
  /-- A doorbell was written while the part was in or entering Den (R319, R320). -/
  wake : Bool
  /-- Rack time of the waking doorbell (R320). -/
  wakeAt : W64
  deriving DecidableEq, Repr

/-- QDB: admin ring registers and doorbell errors (R349), and the staged _LO words (R347). -/
structure Qdb where
  /-- QDB_AQ_BASE. -/
  aqBase : W64
  /-- QDB_AQ_SIZE.LOG2. -/
  aqSize : BitVec 5
  /-- QDB_AQ_ENABLE.EN. -/
  aqEn : Bool
  /-- QDB_AQ_ENABLE.ACTIVE. -/
  aqActive : Bool
  /-- QDB_ACQ_BASE. -/
  acqBase : W64
  /-- QDB_ACQ_SIZE.LOG2. -/
  acqSize : BitVec 5
  /-- QDB_DB_ERR_SQ. -/
  errSq : W64
  /-- QDB_DB_ERR_CQ. -/
  errCq : W64
  /-- QDB_DB_ERR.AQ. -/
  errAq : Bool
  /-- QDB_DB_ERR.ACQ. -/
  errAcq : Bool
  /-- QDB_DB_ERR.EVQ. -/
  errEvq : Bool
  /-- Doorbell fields as they read back: QDB_SQ_TAIL[n] at n, QDB_CQ_HEAD[n] at 64 + n, QDB_AQ_TAIL at 128, QDB_ACQ_HEAD
  at 129 (R349); unlisted fields read 0. -/
  doorbells : Tbl W16
  /-- Staged _LO words, by BAR0 offset of the _LO word (R347). -/
  loStage : Tbl W32
  /-- The queue whose packet was read last, for the round robin (R207). -/
  lastRead : Nat
  deriving DecidableEq, Repr

/-- A submission ring and its completion ring, as the X4 keeps them (R206-R209). Queue 64 is the admin pair. -/
structure Queue where
  /-- Host address of the submission ring. -/
  base : Nat
  /-- Its size in 64 B units. -/
  size : Nat
  /-- The tail doorbell in force. -/
  tail : Nat
  /-- The X4's head. -/
  head : Nat
  /-- Host address of the completion ring. -/
  cqBase : Nat
  /-- Its size in entries. -/
  cqSize : Nat
  /-- The index of the next entry the X4 writes. -/
  cqTail : Nat
  /-- The phase of the next entry. -/
  cqPhase : Bool
  /-- The head doorbell in force. -/
  cqHead : Nat
  /-- Entries reserved for the final completions of accepted commands (R208). -/
  reserved : Nat
  /-- MSI-X vector of the completion ring (R223). -/
  vector : Nat
  /-- Fox depth (R185). -/
  depth : Nat
  /-- The job that owns the queue; 0 for the admin queue. -/
  job : Nat
  deriving DecidableEq, Repr

/-- An interim entry that waits for a free completion entry (R208). -/
structure Interim where
  /-- The queue. -/
  queue : Nat
  /-- SEQ of the command it belongs to. -/
  seq : Nat
  /-- 1 ROUTE_REPORT, 2 DEFERRED. -/
  type : Nat
  /-- RESULT bytes 16-31. -/
  result : List Byte
  /-- Its request, for TYPE 2. -/
  req : Nat
  deriving DecidableEq, Repr

/-- An event record (R236), without its phase bit. -/
structure EvRec where
  /-- Event code (R238). -/
  code : Nat
  /-- Class. -/
  cls : EvClass
  /-- Source unit (R237). -/
  source : Nat
  /-- Rack time. -/
  time : W64
  /-- Job id, 0 for the device. -/
  job : Nat
  /-- Sequence number. -/
  seq : W16
  /-- Detail bytes 16-31. -/
  detail : List Byte
  deriving DecidableEq, Repr

/-- An entry of the event reserve (R334): the first record, the repeats coalesced into it and the last rack time. -/
structure Held where
  /-- The first record. -/
  first : EvRec
  /-- Repeats coalesced. -/
  repeats : Nat
  /-- Rack time of the last occurrence. -/
  last : W64
  deriving DecidableEq, Repr

/-- The event queue (R206, R236, R333-R335, R352). -/
structure Evq where
  /-- EVQ_BASE. -/
  base : W64
  /-- EVQ_SIZE.LOG2. -/
  size : BitVec 5
  /-- EVQ_ENABLE.EN. -/
  en : Bool
  /-- It has been enabled since boot or the last firmware restart (R378). -/
  everEn : Bool
  /-- EVQ_HEAD. -/
  head : Nat
  /-- EVQ_TAIL.TAIL. -/
  tail : Nat
  /-- EVQ_TAIL.P. -/
  phase : Bool
  /-- EVQ_SEQ.NEXT. -/
  seq : W16
  /-- The reserve (R334). -/
  reserve : List Held
  /-- Records held from boot until the first enable (R378). -/
  bootHeld : List EvRec
  /-- The reserve was used and EVQ_OVERFLOW is due (R335). -/
  overflow : Bool
  /-- ALARM repeats and ALARMs not held since the last EVQ_OVERFLOW (R335). -/
  nAlarm : Nat
  /-- ERRORs dropped since then. -/
  nError : Nat
  /-- NOTICEs dropped since then. -/
  nNotice : Nat
  /-- TRACE records dropped since then. -/
  nTrace : Nat
  /-- The alarm mirror: count since boot and last record, by mirror index (R336, R366). -/
  mirror : Tbl (Nat × EvRec)
  /-- In-band interrupts raised on the management interface, oldest first: the mirror index of each (R364). -/
  ibi : List Nat
  deriving DecidableEq, Repr

/-- One MSI-X vector (R239, R370). -/
structure Vec where
  /-- The vector is masked. -/
  masked : Bool
  /-- Its pending bit. -/
  pend : Bool
  /-- Entries posted since it last fired that the host has not consumed, oldest first: the queue (0-63, 64 the ACQ, 65 the
  event queue) and the rack time of posting. -/
  ents : List (Nat × W64)
  /-- One of them fires the vector at once. -/
  urgent : Bool
  deriving DecidableEq, Repr

/-- Interrupts: the vectors and the messages sent, oldest first (R239, R370). -/
structure Msix where
  /-- The 128 vectors; an unlisted one is masked with nothing pending. -/
  vecs : Tbl Vec
  /-- Messages sent, oldest first. -/
  sent : List Nat
  deriving DecidableEq, Repr

/-- Feature values (R221). -/
structure Features where
  /-- STAGE_TIMEOUT in s. -/
  stageTimeout : Nat
  /-- IMAGE_SIG_REQUIRED. -/
  sigRequired : Bool
  /-- IMAGE_KEYS, slots 0-3: the 1,312-byte keys that are set. -/
  keys : Tbl (List Byte)
  /-- IRQ_MODERATION COUNT. -/
  irqCount : Nat
  /-- IRQ_MODERATION TIME in µs. -/
  irqTime : Nat
  /-- DEFER_MAX_WAIT in ms. -/
  deferMaxWait : Nat
  deriving DecidableEq, Repr

/-- The trace ring set by TRACE_CTL (R233). -/
structure Trace where
  /-- Host address of the ring. -/
  base : Nat
  /-- Entries. -/
  entries : Nat
  /-- Sampling: 1 in 2^n. -/
  sampling : Nat
  /-- Source enable mask. -/
  mask : Nat
  deriving DecidableEq, Repr

end Sys2Proof.Machine
end

