-- ==== Sys2Proof/Machine/Parts/Serving.lean ====
section
/-! DEFINITION. State of the serving firmware: accounts, requests, KV blocks and the warren (R259-R281). -/
namespace Sys2Proof.Machine

/-- A token bucket (R268). -/
structure Account where
  /-- Refill rate, tokens per s. -/
  rate : Nat
  /-- Burst, tokens. -/
  burst : Nat
  cls : Nat
  /-- Level in units of 10^-8 quarter token, at this rack time. -/
  level : Nat
  since : W64
  /-- Refusals since its last BUDGET_EXHAUSTED, and the rack time of that event. -/
  refusals : Nat
  lastEvent : Option W64
  deriving DecidableEq, Repr

/-- A KV block (R272). -/
structure KvBlock where
  /-- Chip address of its bytes. -/
  addr : Nat
  /-- Held in DDR5 as E4M3 (R273). -/
  spilled : Bool
  /-- The warren node that owns it; none when private. -/
  node : Option Nat
  lastUse : W64
  /-- A tier engine is bringing it back. -/
  returning : Bool
  deriving DecidableEq, Repr

/-- An output (R266). -/
structure Output where
  status : Status
  ended : Nat
  rows : List (List Byte)
  rowSize : Nat
  time : W64
  /-- Quarter tokens. -/
  cost : Nat
  warren : Nat
  fetched : Bool
  /-- Removed after its retention (R232). -/
  gone : Bool
  deriving DecidableEq, Repr

/-- A turn's command and input (R265-R270). -/
structure Turn where
  queue : Nat
  seq : Nat
  /-- Input rows not yet prefilled. -/
  input : List (List Byte)
  /-- LAST of the feed. -/
  last : Bool
  /-- Estimate charged, quarter tokens. -/
  charge : Nat
  /-- Input tokens not from the warren, and from it. -/
  unmatched : Nat
  matched : Nat
  /-- Rack time of acceptance, and of admission. -/
  accepted : W64
  admitted : Option W64
  /-- Maximum wait in ms. -/
  maxWait : Nat
  /-- Acceptance order. -/
  order : Nat
  /-- Nodes its lookup matched, referenced while it waits for admission (R276). -/
  nodes : List Nat
  /-- Blocks its input and maximum new tokens need, those of the path among them, reserved at admission (R272). -/
  reserve : Nat
  deriving DecidableEq, Repr

/-- A request (R262-R266). -/
structure Req where
  job : Nat
  model : Nat
  /-- Slot (false A, true B) and epoch. -/
  slotB : Bool
  epoch : Nat
  account : Nat
  prio : Nat
  draft : Bool
  maxNew : Nat
  /-- MAXWAIT of its REQ_OPEN, ms; 0 for DEFER_MAX_WAIT (R267). -/
  maxWait : Nat
  state : ReqState
  turn : Option Turn
  /-- A held feed. -/
  held : Option Turn
  /-- Accepted rows whose KV exists, as fed to the model. -/
  seqRows : List (List Byte)
  /-- Row the next decode step feeds. -/
  next : Option (List Byte)
  blocks : List KvBlock
  /-- Warren nodes on its path, root first. -/
  path : List Nat
  rows : List (List Byte)
  degraded : Bool
  outputs : List Output
  /-- Draft length, zero-run count and steps of suspension left (R280). -/
  draftL : Nat
  zeroRun : Nat
  suspended : Nat
  /-- The job that drafts for its turn; 0 none (R278). -/
  draftFrom : Nat
  /-- Draft rows made and not yet verified (R279). -/
  drafts : List (List Byte)
  /-- KV length of the draft model, and the addresses of its blocks. -/
  draftLen : Nat
  draftBlocks : List Nat
  /-- Rack time its last output was produced, or it ended. -/
  doneAt : W64
  lastUse : W64
  deriving DecidableEq, Repr

/-- A warren node (R274). -/
structure Node where
  key : List Byte
  parent : Option Nat
  kvAddr : Nat
  refs : Nat
  job : Nat
  model : Nat
  epoch : Nat
  spilled : Bool
  stale : Bool
  lastUse : W64
  children : Nat
  deriving DecidableEq, Repr

/-- A sequence in a serving step: its request, the command of its turn, and its tokens in the step (R260, R261). -/
structure StepSeq where
  req : Nat
  queue : Nat
  seq : Nat
  tokens : Nat
  deriving DecidableEq, Repr

/-- A serving step in a partition's queue or running (R261), named there by queue 65 and its number. -/
structure ServStep where
  job : Nat
  model : Nat
  /-- A draft step (R278): the job is the draft's. -/
  draft : Bool
  seqs : List StepSeq
  /-- Its STEPTOK and NSEQ values. -/
  dims : Tbl Nat
  deriving DecidableEq, Repr

/-- Serving firmware. -/
structure Srv where
  accounts : Tbl Account
  reqs : Tbl Req
  nextReq : Nat
  nextOrder : Nat
  nodes : Tbl Node
  nextNode : Nat
  /-- Insertions skipped since the last WARREN_FULL, and its rack time. -/
  skipped : Nat
  warrenFull : Option W64
  /-- Durations in rack-time units of the last 64 completed turns of a model: key 1,024 × job + model. -/
  turns : Tbl (List Nat)
  /-- Serving image of a model: key 1,024 × job + model. -/
  images : Tbl Nat
  /-- KV objects the serving firmware placed: handle, and the bytes of the blocks it holds (R272). -/
  kv : Tbl Nat
  /-- Serving steps by number, and the next number (R261). -/
  steps : Tbl ServStep
  nextStep : Nat
  /-- SRV_SEQ of the last step of a model (R260): key 1,024 × job + model. -/
  seqTabs : Tbl (List Byte)
  deriving DecidableEq, Repr

end Sys2Proof.Machine
end

