-- ==== Sys2Proof/Machine/Parts/Tile.lean ====
section
/-! DEFINITION. State of one logical tile (R12): router, steering units, array, accumulator memory, register file, config
store, sequencer, load counter and the micro-ops in progress. -/
namespace Sys2Proof.Machine

/-- A word on a connection: its CID, its payload and its END sideband bit (R13). -/
structure FWord where
  cid : Nat
  data : Line
  last : Bool
  deriving DecidableEq, Repr

/-- A steering unit (R30-R34): FIFOs, armed state. Its output table is in the configuration block. -/
structure SteerU where
  /-- Control FIFO, head first: tokens (R30), at most 8. -/
  ctl : List W32
  /-- Data FIFO, head first: payload and END, at most 8. -/
  data : List (Line × Bool)
  /-- The CIDs by which the entries of the control FIFO and of the data FIFO came, head first; 16 from a GATE of the tile (R27). -/
  ctlCid : List Nat
  dataCid : List Nat
  /-- Groups still to be closed before the unit disarms; 0 when not armed (R94). -/
  armed : Nat
  /-- The unit stopped at a mismatch (R34). -/
  stopped : Bool
  deriving DecidableEq, Repr

/-- A weight block as loaded (R40, R41). -/
structure WBlock where
  /-- Weight format. -/
  fmt : Fmt
  /-- 2:4 sparse. -/
  sparse : Bool
  /-- Element bytes, row by row. -/
  elems : List Byte
  /-- Index bytes of a sparse block (R50). -/
  index : List Byte
  /-- Scale bytes, 64 to each scale block along K. -/
  scales : List Byte
  deriving DecidableEq, Repr

/-- The conv-hold shift register (R48, R49): elements, newest last, with the parameters of the STREAM that left it. -/
structure Conv where
  /-- Elements held, oldest first, as bits of the A format. -/
  elems : List Nat
  /-- KLEN, STRIDE, DIL, CHAN of the previous STREAM when it was a conv-hold STREAM. -/
  params : Option (Nat × Nat × Nat × Nat)
  deriving DecidableEq, Repr

/-- One row of results of a STREAM that has not committed: its row number and its 64 pass sums (R64). -/
structure ResRow where
  i : Nat
  sums : List W32
  deriving DecidableEq, Repr

/-- A STREAM in flight (R44, R55): its input still to come and its rows, which commit when it completes. -/
structure StreamJob where
  /-- 0 ACC, 1 ACCINIT, 2 FWD, 3 ACCFWD (R89). -/
  dst : Nat
  /-- The rows go to the spill area (R103). -/
  vacc : Bool
  /-- First accumulator row. -/
  accRow : Nat
  /-- Rows named, for the accumulator interlock (R54). -/
  rows : Nat
  /-- Results so far, in row order. -/
  res : List ResRow
  /-- Rows still to come, in order, and whether each is enabled; masked ones only in conv-hold (R109). -/
  todo : List (Nat × Bool)
  /-- Words still to come from the fabric; 0 when all input has been read. -/
  words : Nat
  /-- Words of a row of two words that has begun to arrive (2:4, R46). -/
  part : List Line
  /-- The profile of R86 the STREAM used: its 16 bytes as a number. -/
  prof : Nat
  /-- Masked output columns in force (R110). -/
  colMask : W64
  /-- A row has entered the array (R41). -/
  entered : Bool
  /-- Its first row promotes the pending block. -/
  promotes : Bool
  /-- The weight block it runs over. -/
  block : WBlock
  /-- Masked K rows in force (R111). -/
  kMask : Nat
  /-- The last word it has to send, whose END bit waits for what follows (R46). -/
  lastWord : Option FWord
  /-- Words it still has to inject at the Local input before it can complete (R46). -/
  left : Nat
  /-- Its read and write spans (R114). -/
  rd : List (Nat × Nat)
  wr : List (Nat × Nat)
  deriving DecidableEq, Repr

/-- The kinds of micro-op that stay in progress after they issue. -/
inductive InProgKind where
  | send | recv | gate | accwr
  deriving DecidableEq, Repr

/-- A RECV, SEND, GATE or endpoint ACCWR in progress, with its spans in 64 B units (R114): register file units are
numbered from 0, bank units from 1,024. -/
structure InProg where
  kind : InProgKind
  /-- CID of a SEND or RECV; steering unit of a GATE. -/
  cid : Nat
  /-- Words still to send or receive. -/
  left : Nat
  /-- Next register-file unit of a RECV; next accumulator row of an ACCWR. -/
  addr : Nat
  /-- Words of the row an endpoint ACCWR is receiving. -/
  part : List Line
  /-- Format code of an endpoint ACCWR. -/
  fmt : Nat
  /-- VACC of an endpoint ACCWR. -/
  vacc : Bool
  /-- Accumulator tiles an ACCRD reads or an ACCWR writes, spill tiles from 16 on (R54). -/
  tiles : List Nat
  /-- Read span: first and last unit. -/
  rd : List (Nat × Nat)
  /-- Write span. -/
  wr : List (Nat × Nat)
  deriving DecidableEq, Repr

/-- A GATE in progress (R130, R138): what it has still to put into its unit's FIFOs. -/
structure GateRun where
  unit : Nat
  /-- Tokens not yet in the control FIFO. -/
  toks : List W32
  /-- DFEED words not yet in the data FIFO. -/
  words : List (Line × Bool)
  deriving DecidableEq, Repr

/-- A GATE held in Stepped mode after its count pass (R138). -/
structure GateHold where
  /-- The GATE's micro-op word. -/
  word : W64
  gateId : Nat
  lane : Nat
  nlane : Nat
  experts : Nat
  /-- REPORT flag of its parameter block. -/
  report : Bool
  tokens : Nat
  /-- COUNT of each expert after the count pass. -/
  counts : List Nat
  deriving DecidableEq, Repr

/-- What holds the sequencer. -/
inductive Wait where
  /-- Nothing. -/
  | none
  /-- WAITPH with COND, BID, GMASK and VALUE since this FCLK tick (R95). -/
  | waitph (cond bid gmask value : Nat) (since : Nat)
  /-- PHASE to this phase, draining (R96). -/
  | drain (dest : Phase)
  /-- The final END, draining (R97). -/
  | final
  deriving DecidableEq, Repr

/-- One config slot (R101): its tag and the bytes of its block. -/
structure Slot where
  /-- Image handle and configuration index. -/
  tag : Option (Nat × Nat)
  /-- The 32 KiB store. -/
  mem : Mem
  deriving DecidableEq, Repr

/-- One logical tile. -/
structure Tile where
  phase : Phase
  /-- Program counter of the sequencer. -/
  pc : Nat
  /-- Counters of loop levels 0 and 1 (R97). -/
  i0 : Nat
  i1 : Nat
  wait : Wait
  /-- The tile's part of the inning has ended (R97). -/
  ended : Bool
  /-- The tile has been in LOAD during this inning: the prefetch of R101 was done. -/
  prefetched : Bool
  /-- Load counter (R95, R184). -/
  loads : Nat
  /-- FCLK count of the inning (R95, COND 2). -/
  cycles : Nat
  /-- Config store: slots 0-3 (R101). -/
  slots : List Slot
  /-- The slot in use. -/
  slot : Nat
  /-- Register file, 64 KiB. -/
  rf : Mem
  /-- Accumulator memory, 256 KiB: row a, column n at 256 a + 4 n (R53). -/
  acc : Mem
  active : WBlock
  pending : Option WBlock
  /-- The STREAM that would promote the pending block finds a skipped refinement load (R199). -/
  refineSkipped : Bool
  conv : Conv
  /-- Stochastic rounding lanes of the array path and of the vector ALU (R68). -/
  srArray : List W32
  srVector : List W32
  /-- Input balance queues N, E, S, W, Local, head first (R12). -/
  queues : List (List FWord)
  /-- Credit counters of the outputs N, E, S, W: by the key 16 × output + CID (R21). -/
  credits : Tbl Nat
  /-- Credits on their way back to these counters, by the same key (R21). -/
  creditsDue : Tbl Nat
  /-- Words of the tile's own micro-ops waiting to enter the Local input, head first: 1 of a SEND or ACCRD, 2 of a STREAM. -/
  outbox : List (Nat × FWord)
  /-- Endpoint buffers by CID: words delivered on OUT_L and not yet taken (R23). -/
  endpoint : Tbl (List FWord)
  steer : List SteerU
  streams : List StreamJob
  inprog : List InProg
  gateRun : List GateRun
  /-- GATEs that wait after their count pass (R138). -/
  gateHold : List GateHold
  /-- Emission passes run in this inning, by 64 × gate id + lane: the plan each next one takes (R140). -/
  gated : Tbl Nat
  /-- Words converted by ACCRD waiting for a VOP with AQ = 1 (R90). -/
  vqueue : List (List Byte)
  /-- 4 KiB units of the bank marked void (R198), by unit number. -/
  voids : List Nat
  deriving DecidableEq, Repr

end Sys2Proof.Machine
end

