-- ==== Sys2Proof/Machine/Parts/Jobs.lean ====
section
/-! DEFINITION. State of jobs, commands, partitions, images, objects, model slots, streams and tier work (R75-R258). -/
namespace Sys2Proof.Machine

/-- One buffer entry of a RUN (R226), bound to an object. -/
structure BufArg where
  sym : Nat
  handle : Nat
  off : Nat
  deriving DecidableEq, Repr

/-- A Stepped hold (R139-R141). -/
structure Hold where
  holdId : Nat
  gateId : Nat
  /-- The ROUTE_REPORT entry is posted since this rack time; none while it waits for a free entry (R208). -/
  postedAt : Option W64
  deriving DecidableEq, Repr

/-- A huddle of a partition (R148-R152). -/
structure Huddle where
  hseq : Nat
  gateId : Nat
  /-- 1 combine, 0 dispatch. -/
  combine : Bool
  opened : Bool
  openedAt : W64
  /-- The partition entered it after its rally count (R148). -/
  late : Bool
  /-- Peers whose header has been received. -/
  headers : List Nat
  /-- Peers whose segment has been received complete. -/
  complete : List Nat
  /-- Message ids of this part's segments the link layer has not acknowledged whole. -/
  unacked : List Nat
  deriving DecidableEq, Repr

/-- A huddle that peers going down have failed, with the peers of its plan that still reach this part (R299). -/
structure LostHuddle where
  job : Nat
  hseq : Nat
  gateId : Nat
  peers : List Nat
  deriving DecidableEq, Repr

/-- What the exchange engines know of a gate of a RUN (R126, R129, R140, R150). -/
structure GateInfo where
  /-- C of R129. -/
  c : Nat
  /-- Expert map entries. -/
  map : List Nat
  /-- By lane: COUNT and BASE of each expert; BASE none in Scheduled mode. -/
  lanes : Tbl (List (Nat × Option Nat))
  /-- By source part: rows received for each expert homed here, in ascending id. -/
  recv : Tbl (List Nat)
  deriving DecidableEq, Repr

/-- What a RUN executes: its image, its values and its progress (R99, R122, R226). -/
structure RunInfo where
  image : Nat
  /-- Bound model and slot (false A, true B) (R172). -/
  slot : Option (Nat × Bool)
  /-- Dimension values in force, and as the RUN supplied them (R140). -/
  dims : Tbl Nat
  baseDims : Tbl Nat
  bufs : List BufArg
  stepped : Bool
  /-- Host address of the route report buffer. -/
  report : Nat
  /-- Innings entry in execution or next. -/
  entry : Nat
  /-- The inning of this entry has started. -/
  inInning : Bool
  /-- The next inning repeats the same entry, without a config switch (R99). -/
  restart : Bool
  /-- The huddle of this inning has closed (R99). -/
  huddleDone : Bool
  /-- Times the entry of the loop in execution has run (R99). -/
  loops : Nat
  /-- The innings table has no further entry. -/
  finished : Bool
  /-- Innings entries executed. -/
  executed : Nat
  /-- Huddles of this RUN entered so far: its index in the plan's huddle table (R235). -/
  huddleIdx : Nat
  /-- HSEQ of its huddle 0 (R147). -/
  hseqBase : Nat
  nextHold : Nat
  hold : Option Hold
  /-- WAITPH CYCLE releases at once since a hold (R140). -/
  freeCycle : Bool
  /-- Drops of REPORT gates: by gate id, the drops of each expert (R135). -/
  drops : Tbl (Tbl Nat)
  /-- Replacements: by gate id, (replacements, window rows, lowest expert) (R146). -/
  substs : Tbl (Nat × Nat × Nat)
  /-- By innings entry, withdrawn class 1 descriptors and segments counted void (R201). -/
  degraded : Tbl (Nat × Nat)
  /-- Some descriptor took a cheaper path. -/
  cheaper : Bool
  /-- Demand counted by the REPORT gates of this part in the step, by gate id: rows by expert; at 4,096 + lane, a lane that has
  gated all its tokens, 1 where a REPORT gate counted it and 2 where none has; at 8,192 NLANE; at 8,193 one more than the
  configuration that counts it (R143). -/
  demand : Tbl (Tbl Nat)
  /-- Lane plans of the inning's STEP_CONTINUEs by gate id, oldest first: for each lane, BASE and CAP of each expert (R140). -/
  plans : Tbl (List (List (List (Nat × Nat))))
  /-- Gates by gate id, for the exchange engines (R150). -/
  gates : Tbl GateInfo
  deriving DecidableEq, Repr

/-- A stage of a RUN_CHAIN (R116, R227): its packet image as checked at acceptance. -/
structure Stage where
  pkt : Pkt
  /-- The RUN it is, or none for an XFER. -/
  run : Option RunInfo
  deriving DecidableEq, Repr

/-- One member of a MODEL_STAGE (R202, R224). -/
structure Member where
  sym : Nat
  /-- The object built in HBM. -/
  handle : Nat
  /-- 0 a DDR5 object, 1 host memory. -/
  source : Nat
  srcAddr : Nat
  len : Nat
  plain : Nat
  digests : Nat
  /-- Shards: 0 not started, 1 in a tier engine, 2 passed, 3 awaited. -/
  shards : List Nat
  /-- Rack time of the first SHARD_BAD of an awaited shard. -/
  badAt : Tbl W64
  deriving DecidableEq, Repr

/-- The work of a MODEL_STAGE (R171, R202, R203). -/
structure StageJob where
  model : Nat
  slotB : Bool
  members : List Member
  deriving DecidableEq, Repr

/-- An accepted command that has not completed (R208-R210). -/
structure Cmd where
  /-- Its queue and SEQ, which name it. -/
  queue : Nat
  seq : Nat
  job : Nat
  op : Nat
  pkt : Pkt
  /-- The partition queue it stands in. -/
  part : Option Nat
  started : Bool
  /-- The status it completes with, once decided (R190). -/
  done : Option Status
  /-- RESULT bytes 16-31. -/
  result : List Byte
  /-- ERRLOC for BAD_PARAM (R209). -/
  errLoc : Nat
  trunc : Bool
  /-- SLOT of the final entry when SLOTV = 1. -/
  slotV : Option Bool
  run : Option RunInfo
  stages : List Stage
  stageAt : Nat
  /-- The stage at `stageAt` has completed and the next has not started. -/
  between : Bool
  staging : Option StageJob
  /-- Commands a CANCEL waits for (R190): queue and SEQ of each. -/
  waits : List (Nat × Nat)
  /-- Serving request of a REQ_OPEN or REQ_FEED in progress. -/
  req : Option Nat
  /-- Energy charged, in µJ (R318). -/
  energy : Nat
  /-- Bit 0 heavy, bit 1 light (R211). -/
  hints : Nat
  deriving DecidableEq, Repr

/-- A load fill, or the power of a paced command (R310-R313): it stood at `start` W at `since`, and moves in a straight line to `target`
W within `dur` units of rack time. -/
structure Fill where
  start : Nat
  target : Nat
  since : W64
  dur : Nat
  /-- It rose for a hint and no command has claimed it (R313). -/
  hinted : Bool
  deriving DecidableEq, Repr

/-- Load fill whose partition is gone, on the column groups it left (R311). That of the entry into Den has no groups: `count` 0 (R319). -/
structure LooseFill where
  first : Nat
  count : Nat
  fill : Fill
  deriving DecidableEq, Repr

/-- A POWER_HINT that waits for its lead time (R313). -/
structure Hint where
  heavy : Bool
  /-- Rack time at which the fill starts rising, or issue starts falling. -/
  at_ : W64
  /-- Rack time T by which it is to be there. -/
  due : W64
  power : Nat
  /-- The light reduction has started. -/
  active : Bool
  deriving DecidableEq, Repr

/-- The counters of a snapshot record, since boot (R234). -/
structure PartCounters where
  rowsStreamed : W64
  rowsSkipped : W64
  spillRows : W64
  haloWords : W64
  gateTokens : W64
  gateDrops : W64
  refineSkipped : W64
  huddleLate : W64
  huddleBad : W64
  fabResidue : W64
  deriving DecidableEq, Repr

/-- A context save in progress (R247-R249). -/
structure Saving where
  queue : Nat
  seq : Nat
  job : Nat
  /-- The tier chosen at the save point: 1 HBM, 2 DDR5; 0 before it. -/
  tier : Nat
  bytes : Nat
  pages : List Nat
  deriving DecidableEq, Repr

/-- A partition (R75, R241-R245), keyed by its first column group. -/
structure Part where
  first : Nat
  count : Nat
  shared : Bool
  members : List Nat
  /-- Commands in queue order, by queue and SEQ (R244). -/
  queue : List (Nat × Nat)
  /-- The command executing. -/
  running : Option (Nat × Nat)
  /-- A RUN suspended by CTX_SAVE (R247), with its job. -/
  suspended : List (Nat × Nat)
  saving : Option Saving
  /-- Slot index and frame length (R15). -/
  slotIdx : Nat
  frame : Nat
  /-- A held partition (R28). -/
  held : Bool
  /-- No-progress counts of live connections in FCLK, by origin tile × 16 + CID (R28). -/
  stalls : Tbl Nat
  huddle : Option Huddle
  /-- The huddle that failed last for a peer that is down, until the next command starts. -/
  lost : Option LostHuddle
  /-- Job of the last command (R100). -/
  lastJob : Nat
  /-- Rack time at which the last command with demand ended (R310). -/
  lastDemandEnd : Option W64
  fill : Fill
  hints : List Hint
  counters : PartCounters
  /-- Array issue is paced for a light hint: the power it is held to (R313). -/
  pace : Option Fill
  /-- The command that inherits the demand of one that has ended, and has not started (R310). -/
  handed : Option (Nat × Nat)
  deriving DecidableEq, Repr

/-- A loaded image (R83): its object and identity. -/
structure Image where
  job : Nat
  /-- Object that holds its bytes. -/
  len : Nat
  x3 : Bool
  measurement : List Byte
  deriving DecidableEq, Repr

/-- A bound image of a job (R77, R104). -/
structure Binding where
  image : Nat
  /-- Model id, 0xFFFF for none. -/
  model : Nat
  /-- First group the image was compiled for and the partition's first group (R76). -/
  part : Nat
  /-- Region start in 64 B units of each bank; none while the job is SAVED (R251). -/
  base : Option Nat
  /-- Data area in 64 B units (R77). -/
  dataUnits : Nat
  /-- Region size in 64 KiB units. -/
  units : Nat
  cfgHome : Nat
  spill : Bool
  deriving DecidableEq, Repr

/-- An object (R159-R166), keyed by its handle. -/
structure Obj where
  job : Nat
  type : Nat
  compressed : Bool
  cold : Bool
  pinned : Bool
  plane : Nat
  elem : Nat
  codetab : Nat
  /-- Stored length; per tile for a bank object. -/
  len : Nat
  /-- Stack mask of an HBM object (R161). -/
  stackMask : Nat
  /-- Chip address of each 2 MiB page, in page order; empty for a bank object. -/
  pages : List Nat
  /-- For a bank object: first 64 KiB unit of its region in every tile (R162). -/
  bankUnit : Option Nat
  /-- The model and slot that own it (R165). -/
  owner : Option (Nat × Bool)
  /-- The DDR5 object it was staged from, its lower copy (R178). -/
  lower : Option Nat
  /-- Pages being moved by an OBJ_MOVE or a PAGE_WAIT resolution. -/
  moving : List Nat
  /-- Released, but still referenced by accepted commands (R165). -/
  gone : Bool
  /-- It has served as its job's cold pool (R144). -/
  pool : Bool
  deriving DecidableEq, Repr

/-- An entry of a cold pool (R144): the pool object, the expert object, where it lies, last use, landed or in fetch, void, and the
descriptor it was fetched for. -/
structure ColdEntry where
  pool : Nat
  expert : Nat
  desc : Nat
  /-- Page numbers of the pool object that hold it. -/
  pages : List Nat
  lastUse : W64
  landed : Bool
  void : Bool
  deriving DecidableEq, Repr

/-- One slot of a model (R170). -/
structure MSlot where
  state : SlotState
  /-- Symbol and object of each member. -/
  members : List (Nat × Nat)
  /-- RUNs and open requests bound to it (R173, R264). -/
  bound : Nat
  deriving DecidableEq, Repr

/-- A model of a job (R170). -/
structure Model where
  a : MSlot
  b : MSlot
  /-- Slot epoch (R274). -/
  epoch : Nat
  deriving DecidableEq, Repr

/-- A gate of an exchange plan (R235). -/
structure PlanGate where
  gateId : Nat
  rwords : Nat
  experts : Nat
  homeBase : Nat
  stageBase : Nat
  wmul : Nat
  nlane : Nat
  /-- Home part of each expert. -/
  homes : List Nat
  deriving DecidableEq, Repr

/-- An exchange plan (R235). -/
structure Plan where
  rally0 : Nat
  period : Nat
  /-- GATEID and DIR of each huddle of a RUN. -/
  huddles : List (Nat × Nat)
  gates : List PlanGate
  /-- Part id, NLANE_s and BMUL_s of each peer. -/
  peers : List (Nat × Nat × Nat)
  deriving DecidableEq, Repr

/-- What a save set holds (R248): tile states by position, with the die and the physical column and row of each at the save, bank
units by position and unit, the job's bindings, its bank objects (handle, first unit, units) and the regions of those released since,
and its suspended RUN. -/
structure SaveSet where
  tier : Nat
  pages : List Nat
  tiles : List Tile
  phys : List (Nat × Nat × Nat)
  banks : List (Nat × Nat × Mem)
  units : List Nat
  bindings : List Binding
  bankObjs : List (Nat × Nat × Nat)
  freed : List (Nat × Nat)
  suspended : List (Nat × Nat)
  deriving DecidableEq, Repr

/-- A job (R240). -/
structure Job where
  state : JobState
  /-- CTX_SAVE was accepted and the job is reported SAVED (R247, R249). -/
  saveAsked : Bool
  account : Nat
  prio : Nat
  /-- First group of its partition. -/
  part : Option Nat
  bindings : List Binding
  models : Tbl Model
  plan : Option Plan
  hseq : Nat
  saveSet : Option SaveSet
  /-- A JOB_CLOSE was accepted: its queue and SEQ. -/
  closing : Option (Nat × Nat)
  deriving DecidableEq, Repr

/-- A stream descriptor in work (R182-R185), keyed by its number. -/
structure Desc where
  /-- The command it belongs to, and the queue whose depth it counts against. -/
  queue : Nat
  seq : Nat
  job : Nat
  part : Option Nat
  /-- Index in STREAMS, 0xFFFF_FFFF for XFER or firmware. -/
  index : Nat
  entry : Nat
  /-- The 64 bytes of R182. -/
  bytes : List Byte
  /-- The object it reads or writes, after OBJREF was resolved, and the offset added by the buffer entry. -/
  handle : Nat
  objOff : Nat
  /-- Bank base of the region, in 64 B units. -/
  base : Nat
  issued : Bool
  /-- When its chain and its gate stage no longer held it: what follows counts towards its deadline (R175, R185). -/
  readyAt : Option W64
  /-- Its shifted group mask runs past CG31 (R117, R182). -/
  beyond : Bool
  /-- Pages named by a raw address that moved since: page number then, page number now (R163). -/
  redirect : Tbl Nat
  /-- Its predecessor in a chain, which must complete first (R185). -/
  after : Option Nat
  /-- Waits for the gate stage of its gate id (R182, GATED without EARLY). -/
  gated : Bool
  /-- Plain bytes it moves in all. -/
  len : Nat
  /-- Host address of an XFER of KIND 0 or 1 (R228). -/
  host : Option Nat
  /-- Blocks of plain 4 KiB not yet transferred, by number. -/
  todo : List Nat
  /-- Stored bytes consumed, of a stream served block after block (RESUMES). -/
  stored : Nat
  /-- Requests sent to a remote owner for the block in work: message id and length (R285, R291). -/
  remote : List (Nat × Nat)
  /-- Halted at this page of its object: PAGE_WAIT or re-streaming (R188, R205). -/
  halted : Option Nat
  /-- The halt is a re-stream. -/
  restream : Bool
  /-- Pages it has already halted for (R188). -/
  haltedPages : List Nat
  /-- Plain bytes landed of each segment of each target: tile × 65,536 + segment (R184). -/
  landed : Tbl Nat
  /-- It reached its deadline at this rack time (R175). -/
  deadline : Option W64
  withdrawn : Bool
  /-- ALTDESC of a withdrawn class 2 descriptor has issued (R198). -/
  altDone : Bool
  /-- Its bursts land void (R177, R190). -/
  void : Bool
  /-- Segments of it counted by its target's load counter, by tile. -/
  counted : Tbl Nat
  done : Bool
  deriving DecidableEq, Repr

/-- A burst in flight in a Fox engine (R179): what it writes, and where. -/
structure Burst where
  desc : Nat
  /-- Tile, chip address and bytes of each write into a bank. -/
  writes : List (Nat × Nat × List Byte)
  /-- Chip addresses and bytes of an outbound burst. -/
  out : List (Nat × List Byte)
  /-- (tile, segment, bytes) it counts for. -/
  counts : List (Nat × Nat × Nat)
  deriving DecidableEq, Repr

/-- A Fox engine (R179, R359). -/
structure FoxEng where
  bursts : List Burst
  failed : Bool
  /-- Queue served last (R180). -/
  last : Nat
  deriving DecidableEq, Repr

/-- A piece of tier-engine work (R181). -/
structure TierJob where
  kind : TierKind
  /-- Command it serves. -/
  queue : Nat
  seq : Nat
  /-- Object, page or shard or stored offset, shard's member or descriptor served, and destination (tier of R225 and stack mask for
  a move; pool for a cold fetch; length for a re-stream). -/
  handle : Nat
  idx : Nat
  member : Nat
  dst : Nat
  mask : Nat
  /-- Its result is void (R143, R190). -/
  void : Bool
  /-- RESUPPLY: host address and length of the supplied shard. -/
  supply : Option (Nat × Nat)
  deriving DecidableEq, Repr

/-- A tier engine (R181, R359): the work it does, then what is queued for it. -/
structure TierEng where
  work : List TierJob
  failed : Bool
  deriving DecidableEq, Repr

end Sys2Proof.Machine
end

