-- ==== Sys2Proof/Machine/Parts/Units.lean ====
section
/-! DEFINITION. State of the power controller, sensors, energy counters, memory controllers, spares, fault handling, links,
host port and boot (R282-R340, R353-R384). -/
namespace Sys2Proof.Machine

/-- A cap-follow in progress (R308, R309). -/
structure Follow where
  cap : Nat
  /-- Rack time and power (W) of the effective moment t0. -/
  t0 : W64
  p0 : Nat
  deadline : Nat
  /-- The time projected at t0 to meet the cap, µs. -/
  proj : Nat
  /-- CAP_LAG was posted for it with cause 0, and with cause 1. -/
  lag0 : Bool
  lag1 : Bool
  deriving DecidableEq, Repr

/-- A committed cap that has not taken effect (R307). -/
structure CapWait where
  cap : Nat
  deadline : Nat
  capAt : W64
  deriving DecidableEq, Repr

/-- A load fill episode (R312). -/
structure Episode where
  /-- Its start in rack time. -/
  since : W64
  /-- Input power at its start, W. -/
  power : Nat
  /-- Load fill at its start, W. -/
  fill : Nat
  deriving DecidableEq, Repr

/-- The power controller (R301-R316, R353, R354). -/
structure Pwr where
  /-- Input power that is neither demand nor load fill, W: PWR_INPUT.POWER is the sum (R305). -/
  other : Nat
  /-- Load fill whose partition is gone, and that of the entry into Den (R311, R319). -/
  loose : List LooseFill
  /-- MG_CAP, MG_CAP_DEADLINE, MG_CAP_AT as they read back. -/
  capReg : Nat
  deadlineReg : Nat
  atReg : W64
  /-- PWR_LIMITS.CAP: the cap in force. -/
  cap : Nat
  waiting : Option CapWait
  follow : Option Follow
  /-- MG_STATUS.CAP_LAG. -/
  capLag : Bool
  /-- PWR_RATES.SLEW and RAMP. -/
  slew : Nat
  ramp : Nat
  /-- Own ceiling (R330), W. -/
  ceiling : Nat
  /-- Working power-stage phases. -/
  phases : BitVec 24
  floor : Bool
  /-- Causes of the floor state that hold: bit 0 PWR_ALERT_N, 1 VIN64 below 56 V, 2 VIN64 above 68 V, 3 temperature. -/
  causes : BitVec 4
  /-- The last cause cleared. -/
  lastCause : Nat
  /-- VIN64 has called for this floor state from below, and from above: it must stay within 57-67 V to clear (R301). -/
  vinLow : Bool
  vinHigh : Bool
  floorSince : W64
  /-- Every cause has been clear since this rack time. -/
  clearSince : Option W64
  /-- A throttle holds FCLK down (R315); since when, and its last step. -/
  throttle : Bool
  throttleSince : W64
  throttleStep : W64
  /-- The throttle has been released and FCLK rises again. -/
  throttleRise : Bool
  /-- Rack time of the last change of FCLK by a step (R308, R314, R315). -/
  riseAt : W64
  /-- PWR_VR_OVERRIDE: OFFSET and DOMAIN. -/
  vrOffset : BitVec 6
  vrDomain : Byte
  /-- Domains of R304 switched off, in its numbering. -/
  domainsOff : List Nat
  episode : Option Episode
  /-- Rack times of the RAMP_FILL records of the last second. -/
  rampFills : List W64
  deriving DecidableEq, Repr

/-- One sensor position: its two sensors (R315, R329, R353). -/
structure Sensor where
  /-- Its reading as it stands, signed, 0.125 °C. -/
  temp : W16
  failA : Bool
  failB : Bool
  deriving DecidableEq, Repr

/-- Temperature sensors and thresholds (R315, R355). -/
structure Thm where
  throttle : Nat
  floor : Nat
  trip : Nat
  /-- The 45 positions by code. -/
  sensors : List Sensor
  deriving DecidableEq, Repr

/-- Energy counters in µJ (R317, R357), by word offset in NRG: the live counters, and the snapshot copies. -/
structure Nrg where
  live : Tbl W64
  copies : Tbl W64
  snap : Bool
  /-- Bytes moved since the last update for each command, by its queue and SEQ: through HBM, Fox and tier engines, and over links
  (R318). -/
  moved : List ((Nat × Nat) × Nat × Nat)
  deriving DecidableEq, Repr

/-- A word with symbols in error (R321). -/
structure ErrWord where
  kind : MemKind
  /-- Chip address of the 64 B word (32 B in a bank); for a tile memory, tile × 2^20 + offset. -/
  addr : Nat
  /-- Symbols in error. -/
  syms : Nat
  /-- Put there by MEM_ECC_CTL (R360). -/
  injected : Bool
  /-- UE is posted for it (R328). -/
  reported : Bool
  /-- A reader has met it, with R322's outcome. -/
  met : Bool
  /-- Its location is retired, and its place there holds zeros; its next reader still meets the error (R325, R326). -/
  retired : Bool
  deriving DecidableEq, Repr

/-- Memory controllers (R326, R360). -/
structure Mctl where
  /-- MEM_ECC_CTL, INJARM included. -/
  ctl : W32
  hbmTrained : Byte
  ddrTrained : BitVec 12
  /-- GiB of each DIMM. -/
  dimmGib : List Nat
  errs : List ErrWord
  /-- Rack times of the correctable reports of a 64 B word within 24 h (R326). -/
  hits : List (MemKind × Nat × List W64)
  /-- Blocks and rows due for retirement: memory, address, reason of R331. -/
  due : List (MemKind × Nat × Nat)
  /-- Remap entries: memory, block address, spare index in its reserve (R326). -/
  remap : List (MemKind × Nat × Nat)
  /-- Bank rows retired: chip address of the row, reason of R331, and whether a binding has applied it (R326). -/
  rows : List (Nat × Nat × Bool)
  deriving DecidableEq, Repr

/-- RAS_SPARE_MAP of a die and what its tile test found (R35-R38, R362). -/
structure SpareMap where
  applied : Bool
  withdrawn : Bool
  /-- The map a tile test or a binding put in force last. -/
  col : Nat
  row : Nat
  /-- As written or chosen. -/
  colReg : Nat
  rowReg : Nat
  /-- Faulty physical tiles found (column, row). -/
  faults : List (Nat × Nat)
  deriving DecidableEq, Repr

/-- Spares, unit health and correctable counts (R327, R329-R332, R362). -/
structure Ras where
  maps : List SpareMap
  /-- The retired column and row in force in each column group: those of its die's map at the last tile test, or at the last
  binding of a partition that covers the group (R37). -/
  force : List (Nat × Nat)
  /-- Faulty physical tiles that the next tile test finds: (die, column, row) (R35, R257). -/
  latent : List (Nat × Nat × Nat)
  /-- Good Badger cores, and the active ones. -/
  bcGood : BitVec 10
  bcActive : BitVec 10
  /-- Spares left: Fox halves, tier engine. -/
  foxSpare : List Nat
  teSpare : Nat
  /-- Low and exhausted conditions reported: (code, instance, tile row of a bank). -/
  low : List (Nat × Nat × Nat)
  exhausted : List (Nat × Nat × Nat)
  /-- RAS_CE: banks, tile memories, HBM4, DDR5 since boot. -/
  ce : List W64
  /-- The same in this 60 s interval, and its start. -/
  ceNow : List Nat
  ceSince : W64
  deriving DecidableEq, Repr

/-- What a job fault leaves to be done (R255-R257). -/
structure FaultInfo where
  origin : EvRec
  cause : Nat
  /-- Partition's first group, tile and command, where there are. -/
  part : Option Nat
  tile : Option (Nat × Nat)
  /-- JOB_FAULT was posted, and its record. -/
  record : Option EvRec
  /-- ALL_JOBS_LOST was posted. -/
  lost : Bool
  /-- The dump is complete. -/
  ready : Bool
  at_ : W64
  /-- The FCLK in which it was raised, and the partitions whose FABRIC_STALL was posted in it (R29). -/
  tick : Nat
  stalled : List Nat
  deriving DecidableEq, Repr

/-- An error record kept for the dump (R339). -/
structure ErrRec where
  rec_ : EvRec
  addr : Nat
  mem : Byte
  notPosted : Bool
  inFault : Bool
  deriving DecidableEq, Repr

/-- The fatal dump (R337-R340). -/
structure Dump where
  fault : Option FaultInfo
  /-- Error records, oldest first. -/
  errs : List ErrRec
  /-- Bytes of the dump area. -/
  bytes : Mem
  /-- Tiles as they halted, by tile number. -/
  halted : Bool
  deriving DecidableEq, Repr

/-- A flit kept for replay (R292). -/
structure SentFlit where
  lseq : Nat
  bytes : List Byte
  resends : Nat
  deriving DecidableEq, Repr

/-- A Xanver port (R289-R294, R361). -/
structure LinkPort where
  state : LinkState
  good : Nat
  lanes : Nat
  spares : Nat
  crcErr : W64
  replays : W64
  tenantDrop : W64
  protoDrop : W64
  retrain : W32
  /-- Next LSEQ to send, and next expected. -/
  txSeq : BitVec 12
  rxSeq : BitVec 12
  /-- A NAK is due, and an ACK. -/
  nak : Bool
  ack : BitVec 12
  /-- Flits sent and not acknowledged. -/
  buf : List SentFlit
  /-- Rack time since which the oldest of them is unacknowledged. -/
  waiting : W64
  /-- Flits waiting for link credit, by virtual channel. -/
  queue : List (Nat × List Byte)
  credit0 : Nat
  credit1 : Nat
  /-- Credits to return. -/
  owe0 : Nat
  owe1 : Nat
  /-- Peers this port reaches. -/
  reach : List Nat
  /-- Flits put on the link, oldest first. -/
  wire : List (List Byte)
  /-- Rack time of the last training attempt. -/
  tried : W64
  /-- Bursts whose SOB has been received, by 64 × VC + SRC: TYPE and payload so far. -/
  rx : Tbl (Nat × List Byte)
  deriving DecidableEq, Repr

/-- Liveness of a peer (R299). -/
structure Peer where
  up : Bool
  lastRx : W64
  lastTx : W64
  deriving DecidableEq, Repr

/-- A message being assembled, or complete (R291). -/
structure Msg where
  src : Nat
  id : Nat
  /-- KIND. -/
  kind : Nat
  /-- Bytes received, by offset. -/
  bytes : Mem
  /-- Offsets and lengths received. -/
  have_ : List (Nat × Nat)
  /-- Length, once the LASTB burst has arrived. -/
  len : Option Nat
  /-- Rack time of its last burst. -/
  at_ : W64
  deriving DecidableEq, Repr

/-- A read request of a peer waiting to be served (R291). -/
structure RdReq where
  src : Nat
  /-- The port it came by. -/
  port : Nat
  id : Nat
  handle : Nat
  off : Nat
  len : Nat
  account : Nat
  deriving DecidableEq, Repr

/-- A header of a huddle of a zero, cancelled or failed RUN, sent at a rally count (R124, R152). -/
structure Later where
  at_ : W64
  peer : Nat
  header : List Byte
  part : Nat
  job : Nat
  hseq : Nat
  gateId : Nat
  /-- Of a zero RUN: the peer's own header is awaited after it was sent. -/
  zero : Bool
  sentAt : Option W64
  deriving DecidableEq, Repr

/-- Links (R282-R299, R361). -/
structure Lnk where
  mask : W64
  tenant : Byte
  ports : List LinkPort
  peers : Tbl Peer
  /-- LNK_BRIDGE. -/
  bridge : Tbl W32
  /-- Consecutive CRC failures of the word at a bridge input: 16 × tile + port. -/
  bridgeFails : Tbl Nat
  msgs : List Msg
  rdreqs : List RdReq
  nextMsg : Nat
  /-- Messages taken whole, by source, KIND and MSGID, newest first: bursts of them that come again are discarded (R291). -/
  taken : List (Nat × Nat × Nat)
  later : List Later
  deriving DecidableEq, Repr

/-- How a host load completes beside its data (R374): without error, with the poison of CXL.mem or of a BAR2 completion (EP), or as an
Unsupported Request. -/
inductive RespErr where
  | none | poison | unsupported
  deriving DecidableEq, Repr

/-- The host port (R367-R374). -/
structure Att where
  /-- HDMBASE and BAR2TGT, in GiB. -/
  hdmBase : BitVec 34
  bar2tgt : BitVec 34
  bar2busy : Bool
  /-- The HDM decoder is committed. -/
  committed : Bool
  memActive : Bool
  /-- CXL.cache is enabled. -/
  cacheOn : Bool
  /-- AER correctable errors raised. -/
  aer : Nat
  /-- Lines the host holds, oldest first (R372). -/
  snoop : List Nat
  /-- The host link is up. -/
  linkUp : Bool
  /-- Its lanes, 8 or 4, and its rate as PCIe numbers it, 6 for 64 GT/s (R367). -/
  lanes : Nat
  rate : Nat
  /-- Configuration space answers. -/
  cfgUp : Bool
  /-- Response to the last load: its bytes, and the error bit (R374). -/
  resp : List Byte
  respErr : RespErr
  /-- Host address spans (start, length) the CXL switch or the host rejects (R371). -/
  reject : List (Nat × Nat)
  /-- UART_TX carries the device firmware log (R363). -/
  uartLog : Bool
  deriving DecidableEq, Repr

/-- The check of R377 that an image fails, in its order: MAGIC and the other fields, the key's digest or its revocation, DIGEST, the
signature, SVN. -/
inductive RomFail where
  | header | key | digest | signature | svn
  deriving DecidableEq, Repr

/-- Boot and identity (R376-R384). -/
structure Boot where
  /-- SPI NOR flash. -/
  flash : Mem
  /-- Fused signer key digests, their revocation bits. -/
  keys : List (List Byte)
  revoked : List Bool
  /-- Blown anti-rollback fuses. -/
  counter : Nat
  /-- The fused 256-bit seed. -/
  seed : List Byte
  /-- DBG_LOCK.JTAGLOCK, a fuse. -/
  jtagLock : Bool
  /-- Image running (false A, true B). -/
  image : Bool
  /-- An image has been accepted this boot; no image passes. -/
  accepted : Bool
  failed : Bool
  measurement : List Byte
  svn : Nat
  /-- The preferred image failed and the other runs. -/
  prefFailed : Bool
  /-- ACTIVATE was accepted; the restart in progress and the version before it. -/
  activating : Bool
  restart : Bool
  prevVersion : W32
  /-- What the boot ROM reports on UART_TX when neither image passes: each image and the check it fails (R379). -/
  romReport : List (Bool × RomFail)
  /-- The public key of the identity, derived from the seed at boot (R383); none before. -/
  identity : List Byte
  deriving DecidableEq, Repr

end Sys2Proof.Machine
end

