-- ==== Sys2Proof/Machine/Parts/Reset.lean ====
section
/-! DEFINITION. The reset value of each part of State: the state right after a full boot has started (GLB_STATE = BOOT). -/
namespace Sys2Proof.Machine

/-- R348, R295, R296, R305, R356: counters at 0, FCLK 700 MHz, PLLGOOD 0xF, MASTER 0xFF. -/
def Clk.reset : Clk :=
  { rackTime := 0, rally := 0, ticks := 0, rackPhase := 0, rallyPhase := 0, fclk := 700, stretched := false, recovered := 0,
    stretchCount := 0, rackclk := true, rackclkLost := false, rtLoaded := false, rallySync := false, rallyGood := 0,
    rallyLocked := false, rallyOffset := 0, rallyReplyAt := 0, rallyMaster := 0xFF, pllGood := 0xF, cxlRef := true }

/-- R345: no edge of SCLK yet. -/
def Slow.reset : Slow := { phase := 0, copies := [], posted := [] }

/-- R387, R390: VIN64 at its nominal 64 V, and every strap left open, so that it reads 1: DESIGN CHOICE (log 2). -/
def Pins.reset : Pins :=
  { vin := 6400, pwrGood := true, thermtrip := false, clkreq := true, alert := false, trayId := 0x1F, boardPos := true,
    chipSrc := true }

/-- R348. -/
def Glb.reset : Glb :=
  { state := .boot, partId := 0x3F, partSet := false, fwVer := 0, errPartial := false, errLocked := false, errCfg := false, scratch := 0,
    sleep := none, sleepPower := 0, sleepAt := 0, drainReq := false, denEntry := false, wake := false, wakeAt := 0 }

/-- R349. -/
def Qdb.reset : Qdb :=
  { aqBase := 0, aqSize := 6, aqEn := false, aqActive := false, acqBase := 0, acqSize := 6, errSq := 0, errCq := 0,
    errAq := false, errAcq := false, errEvq := false, doorbells := [], loStage := [], lastRead := 64 }

/-- R352. -/
def Evq.reset : Evq :=
  { base := 0, size := 12, en := false, everEn := false, head := 0, tail := 0, phase := true, seq := 0, reserve := [], bootHeld := [],
    overflow := false, nAlarm := 0, nError := 0, nNotice := 0, nTrace := 0, mirror := [], ibi := [] }

/-- R370. -/
def Msix.reset : Msix := { vecs := [], sent := [] }

/-- R221: the defaults. -/
def Features.reset : Features :=
  { stageTimeout := 30, sigRequired := false, keys := [], irqCount := 16, irqTime := 20, deferMaxWait := 200 }

/-- R233: no trace ring. -/
def Trace.reset : Trace := { base := 0, entries := 0, sampling := 0, mask := 0 }

/-- R353, R354, R365. -/
def Pwr.reset : Pwr :=
  { other := 320, loose := [], capReg := 1950, deadlineReg := 0, atReg := 0, cap := 1950, waiting := none, follow := none,
    capLag := false, slew := 1000, ramp := 200, ceiling := 1950, phases := 0xFFFFFF, floor := false, causes := 0,
    lastCause := 0, vinLow := false, vinHigh := false, floorSince := 0, clearSince := none, throttle := false, throttleSince := 0, throttleStep := 0,
    throttleRise := false, riseAt := 0, vrOffset := 0, vrDomain := 0, domainsOff := [], episode := none, rampFills := [] }

/-- R355; every sensor at 25 °C: DESIGN CHOICE (log 18). -/
def Thm.reset : Thm :=
  { throttle := 100, floor := 110, trip := 120,
    sensors := List.replicate 45 { temp := 200, failA := false, failB := false } }

/-- R357. -/
def Nrg.reset : Nrg := { live := [], copies := [], snap := false, moved := [] }

/-- R360; nothing trained yet. -/
def Mctl.reset : Mctl :=
  { ctl := 0, hbmTrained := 0, ddrTrained := 0, dimmGib := List.replicate 12 0, errs := [], hits := [], due := [], remap := [], rows := [] }

/-- R362: map in force; the retired column and row of a fault-free die (R35). -/
def SpareMap.reset : SpareMap :=
  { applied := true, withdrawn := false, col := 16, row := 12, colReg := 16, rowReg := 12, faults := [] }

/-- R329: every unit good. -/
def Ras.reset : Ras :=
  { maps := List.replicate 8 SpareMap.reset, force := List.replicate 32 (16, 12), latent := [], bcGood := 0x3FF, bcActive := 0xFF, foxSpare := [1, 1], teSpare := 1, low := [],
    exhausted := [], ce := [0, 0, 0, 0], ceNow := [0, 0, 0, 0], ceSince := 0 }

def Dump.reset : Dump := { fault := none, errs := [], bytes := [], halted := false }

/-- R361: down, no lane in use; SPARES 1 on a rack port, 2 on the board port (R329). -/
def LinkPort.reset (spares : Nat) : LinkPort :=
  { state := .down, good := 0, lanes := 0, spares, crcErr := 0, replays := 0, tenantDrop := 0, protoDrop := 0, retrain := 0,
    txSeq := 0, rxSeq := 0, nak := false, ack := 0xFFF, buf := [], waiting := 0, queue := [], credit0 := 64, credit1 := 64,
    owe0 := 0, owe1 := 0, reach := [], wire := [], tried := 0, rx := [] }

/-- R286, R361. -/
def Lnk.reset : Lnk :=
  { mask := 0, tenant := 0, ports := List.replicate 8 (LinkPort.reset 1) ++ [LinkPort.reset 2], peers := [], bridge := [],
    bridgeFails := [], msgs := [], rdreqs := [], nextMsg := 0, taken := [], later := [] }

/-- R368, R369. -/
def Att.reset : Att :=
  { hdmBase := 0, bar2tgt := 0x400, bar2busy := false, committed := false, memActive := false, cacheOn := true, aer := 0,
    snoop := [], linkUp := true, lanes := 8, rate := 6, cfgUp := true, resp := [], respErr := .none, reject := [], uartLog := false }

/-- Fuses and flash of a part whose fuses are blank: DESIGN CHOICE (log 18). -/
def Boot.reset : Boot :=
  { flash := [], keys := [[], []], revoked := [false, false], counter := 0, seed := List.replicate 32 0, jtagLock := false,
    image := false, accepted := false, failed := false, measurement := List.replicate 32 0, svn := 0, prefFailed := false,
    activating := false, restart := false, prevVersion := 0, romReport := [], identity := [] }

def Srv.reset : Srv :=
  { accounts := [], reqs := [], nextReq := 1, nextOrder := 0, nodes := [], nextNode := 0, skipped := 0, warrenFull := none,
    turns := [], images := [], kv := [], steps := [], nextStep := 0, seqTabs := [] }

/-- R234: nothing counted since boot. -/
def PartCounters.reset : PartCounters :=
  { rowsStreamed := 0, rowsSkipped := 0, spillRows := 0, haloWords := 0, gateTokens := 0, gateDrops := 0, refineSkipped := 0,
    huddleLate := 0, huddleBad := 0, fabResidue := 0 }

def FoxEng.reset : FoxEng := { bursts := [], failed := false, last := 0 }

def TierEng.reset : TierEng := { work := [], failed := false }

/-- The weight block as a command start leaves it: 8-bit dense E4M3, all +0 (R55). -/
def WBlock.zero : WBlock := { fmt := .e4m3, sparse := false, elems := [], index := [], scales := [] }

def SteerU.reset : SteerU := { ctl := [], data := [], ctlCid := [], dataCid := [], armed := 0, stopped := false }

/-- A tile in LOAD with everything cleared (R55, R100, R101). -/
def Tile.reset : Tile :=
  { phase := .load, pc := 0, i0 := 0, i1 := 0, wait := .none, ended := true, prefetched := false, loads := 0, cycles := 0,
    slots := List.replicate 4 { tag := none, mem := [] }, slot := 0, rf := [], acc := [], active := WBlock.zero,
    pending := none, refineSkipped := false, conv := { elems := [], params := none },
    srArray := List.replicate 64 0, srVector := List.replicate 64 0, queues := List.replicate 5 [], credits := [],
    creditsDue := [], outbox := [], endpoint := [], steer := List.replicate 2 SteerU.reset, streams := [], inprog := [],
    gateRun := [], gateHold := [], gated := [], vqueue := [], voids := [] }

end Sys2Proof.Machine
end

