-- ==== Sys2Proof/Machine/State.lean ====
section
/-! DEFINITION. The state of the X4: everything the spec gives the part, as plain data, its reset value, and the reasons a
step can stop. -/
namespace Sys2Proof.Machine

/-- A stop with a reason. -/
inductive Fault where
  /-- Raised by POWER_UP, VIN64_OUT_OF_RANGE and VIN64_UNDERVOLT_RESET when VIN64 lies outside the absolute maximum ratings
  of R398, beyond which the spec says only that the part can be damaged. Safe: the model stops. -/
  | absoluteMaximum
  deriving DecidableEq, Repr

/-- A refusal to model. -/
inductive Refusal where
  /-- Raised by an arm of exec whose command has no meaning yet. Safe: the model stops. -/
  | notModelled (mnemonic : String)
  deriving DecidableEq, Repr

/-- The X4. -/
structure State where
  /-- Commands that wait, oldest first: the model's own input. -/
  pending : List Instr
  clk : Clk
  slow : Slow
  pins : Pins
  glb : Glb
  qdb : Qdb
  /-- Rings by number: 0-63 a submission queue, 64 the admin queue. -/
  queues : Tbl Queue
  evq : Evq
  msix : Msix
  /-- Interim entries that wait for space (R208), oldest first. -/
  interims : List Interim
  features : Features
  trace : Trace
  /-- Open jobs by id (R240). -/
  jobs : Tbl Job
  /-- Accepted commands that have not completed, oldest first (R208). -/
  cmds : List Cmd
  /-- Partitions by first column group (R241). -/
  parts : Tbl Part
  /-- Counters of freed partitions, by their first column group: a partition allocated there counts on (R234: log 29). -/
  counts : Tbl PartCounters
  /-- Tiles by number 64 r + c; an unlisted one is as Tile.reset. -/
  tiles : Tbl Tile
  /-- Loaded images by handle (R83). -/
  images : Tbl Image
  /-- Objects by handle (R159). -/
  objs : Tbl Obj
  /-- The cold pools' landed entries (R144). -/
  cold : List ColdEntry
  /-- Descriptors by number (R182), and the next number. -/
  descs : Tbl Desc
  nextDesc : Nat
  /-- FX0-FX15 (R179). -/
  fox : List FoxEng
  /-- FOX_SPLIT: read, write and remote percentages (R187). -/
  split : Nat × Nat × Nat
  /-- TE0-TE3 (R181). -/
  tiers : List TierEng
  /-- Tier work not yet taken by an engine, oldest first (R181). -/
  tierQueue : List TierJob
  srv : Srv
  lnk : Lnk
  pwr : Pwr
  thm : Thm
  nrg : Nrg
  /-- FAB_WDOG_CTL.LIMIT (R358). -/
  wdog : BitVec 5
  mctl : Mctl
  ras : Ras
  dump : Dump
  att : Att
  boot : Boot
  /-- 2 MiB pages of the firmware area in each stack's space (R153). -/
  fwPages : Nat
  /-- Banks, HBM4 and DDR5 by chip address (R155); an unlisted byte reads 0x00. -/
  mem : Mem
  /-- Host memory by host address; an unlisted byte reads 0x00. -/
  host : Mem
  /-- The model's own counter of free values. -/
  fresh : Nat
  deriving DecidableEq, Repr

/-- The X4 right after reset: in BOOT (GLB_STATE.STATE resets to 1), every register at its reset value. -/
def State.reset : State :=
  { pending := [], clk := Clk.reset, slow := Slow.reset, pins := Pins.reset, glb := Glb.reset, qdb := Qdb.reset, queues := [], evq := Evq.reset,
    msix := Msix.reset, interims := [], features := Features.reset, trace := Trace.reset, jobs := [], cmds := [], parts := [], counts := [],
    tiles := [], images := [], objs := [], cold := [], descs := [], nextDesc := 0, fox := List.replicate 16 FoxEng.reset,
    split := (60, 25, 15), tiers := List.replicate 4 TierEng.reset, tierQueue := [], srv := Srv.reset, lnk := Lnk.reset,
    pwr := Pwr.reset, thm := Thm.reset, nrg := Nrg.reset, wdog := 20, mctl := Mctl.reset, ras := Ras.reset,
    dump := Dump.reset, att := Att.reset, boot := Boot.reset, fwPages := 96, mem := [], host := [], fresh := 0 }

end Sys2Proof.Machine
end

