-- ==== Sys2Proof/Machine/Bits.lean ====
section
/-! DEFINITION. Bits, bytes and tables: little-endian fields (R4), bit ranges, keyed tables. -/
namespace Sys2Proof.Machine

/-- The number a little-endian byte list spells (R4). -/
def leNat : List Byte → Nat
  | [] => 0
  | b :: bs => b.toNat + 256 * leNat bs

/-- The `n` little-endian bytes of `v` (R4). -/
def leBytes : Nat → Nat → List Byte
  | 0, _ => []
  | n + 1, v => BitVec.ofNat 8 v :: leBytes n (v / 256)

/-- `n` bytes of `l` from offset `off`; bytes past its end read 0. -/
def sliceB (l : List Byte) (off n : Nat) : List Byte :=
  let t := (l.drop off).take n
  t ++ List.replicate (n - t.length) 0

/-- The little-endian field of `n` bytes at `off`. -/
def fieldAt (l : List Byte) (off n : Nat) : Nat := leNat ((l.drop off).take n)

/-- Byte `off` as a number. -/
def byteAt (l : List Byte) (off : Nat) : Nat := (l.getD off 0).toNat

/-- `l` with the bytes `v` put at `off`, inside its length. -/
def putB (l : List Byte) (off : Nat) (v : List Byte) : List Byte :=
  l.take off ++ v.take (l.length - off) ++ l.drop (off + v.length)

/-- Bits `lo` to `lo + n - 1` of `v`. -/
def bitsOf (v lo n : Nat) : Nat := v / 2 ^ lo % 2 ^ n

/-- Bit `i` of `v`. -/
def bitAt (v i : Nat) : Bool := bitsOf v i 1 == 1

/-- A Bool as a bit. -/
def ofBool (b : Bool) : Nat := if b then 1 else 0

/-- ⌈a / b⌉; 0 for b = 0. -/
def ceilDiv (a b : Nat) : Nat := if b = 0 then 0 else (a + b - 1) / b

/-- The signed value of the low `n` bits of `v`. -/
def toSigned (n v : Nat) : Int :=
  let w := v % 2 ^ n
  if w < 2 ^ (n - 1) then (w : Int) else (w : Int) - 2 ^ n

/-- The `n`-bit two's complement of an integer. -/
def ofSigned (n : Nat) (v : Int) : Nat := (v % (2 ^ n : Int)).toNat

/-- Are all bytes of `l` zero? -/
def allZero (l : List Byte) : Bool := l.all (· == 0)

/-- A power of two from 2^lo to 2^hi? -/
def powIn (v lo hi : Nat) : Bool := (List.range (hi + 1)).any fun k => lo ≤ k && v == 2 ^ k

/-- `l` cut into pieces of `n`; `fuel` bounds the pieces. -/
def chunksAux (n : Nat) : Nat → List Byte → List (List Byte)
  | 0, _ => []
  | _, [] => []
  | f + 1, l => l.take n :: chunksAux n f (l.drop n)

def chunks (n : Nat) (l : List Byte) : List (List Byte) := chunksAux n (l.length / n + 1) l

/-- The value at a key. -/
def Tbl.get? {α : Type} : Tbl α → Nat → Option α
  | [], _ => none
  | (k, v) :: t, i => if k = i then some v else Tbl.get? t i

def Tbl.getD {α : Type} (t : Tbl α) (i : Nat) (d : α) : α := (Tbl.get? t i).getD d

/-- Keys rise; an entry is put in its place, replacing one of the same key. -/
def Tbl.set {α : Type} : Tbl α → Nat → α → Tbl α
  | [], i, v => [(i, v)]
  | (k, w) :: t, i, v =>
    if i < k then (i, v) :: (k, w) :: t else if i = k then (i, v) :: t else (k, w) :: Tbl.set t i v

def Tbl.erase {α : Type} (t : Tbl α) (i : Nat) : Tbl α := t.filter fun e => e.1 != i

def Tbl.has {α : Type} (t : Tbl α) (i : Nat) : Bool := (Tbl.get? t i).isSome

/-- The entry at `i` changed, where there is one. -/
def Tbl.upd {α : Type} (t : Tbl α) (i : Nat) (f : α → α) : Tbl α :=
  match Tbl.get? t i with
  | some v => Tbl.set t i (f v)
  | none => t

def Tbl.keys {α : Type} (t : Tbl α) : List Nat := t.map (·.1)
def Tbl.vals {α : Type} (t : Tbl α) : List α := t.map (·.2)
def Tbl.mapVals {α β : Type} (t : Tbl α) (f : α → β) : Tbl β := t.map fun e => (e.1, f e.2)
/-- Add to a counting table. -/
def Tbl.bump (t : Tbl Nat) (i n : Nat) : Tbl Nat := Tbl.set t i (Tbl.getD t i 0 + n)

/-- The lowest number from `lo` up, below `lo + n`, that is not in `used`; `pick` when it is free and in range. -/
def pickFree (pick lo n : Nat) (used : List Nat) : Option Nat :=
  if lo ≤ pick && pick < lo + n && !used.contains pick then some pick
  else ((List.range (used.length + 1)).map (lo + ·)).find? fun i => i < lo + n && !used.contains i

/-- Element `i` of a list changed. -/
def modAt {α : Type} (l : List α) (i : Nat) (f : α → α) : List α := l.modify i f

/-- Numbers `a` to `b`, both included. -/
def span (a b : Nat) : List Nat := (List.range (b + 1 - a)).map (a + ·)

/-- The last element removed that satisfies `p`. -/
def eraseLast {α : Type} (l : List α) (p : α → Bool) : List α := (l.reverse.eraseP p).reverse

end Sys2Proof.Machine
end

