-- ==== Sys2Proof/Machine/Codes.lean ====
section
/-! DEFINITION. The codes of the spec's enumerations: device and job states, statuses, event classes, ports, formats. -/
namespace Sys2Proof.Machine

/-- R215. -/
def devCode : DevState → Nat
  | .off => 0 | .boot => 1 | .ready => 2 | .active => 3 | .drain => 4 | .den => 5 | .fault => 6 | .service => 7

/-- R216. -/
def jobCode : JobState → Nat
  | .opened => 0 | .active => 1 | .saved => 2 | .lost => 3 | .closed => 4

/-- R214. -/
def statusCode : Status → Nat
  | .ok => 0x0000 | .okDegraded => 0x0001 | .notReady => 0x0010 | .alreadyConsumed => 0x0011 | .resultGone => 0x0012
  | .deferred => 0x0020 | .refusedBudget => 0x0021 | .refusedBusy => 0x0022 | .stateConflict => 0x0030
  | .badOpcode => 0x0031 | .badParam => 0x0032 | .shapeOver => 0x0033 | .accShort => 0x0034 | .noPartition => 0x0035
  | .badAddr => 0x0036 | .badCodec => 0x0037 | .objectGone => 0x0038 | .cancelled => 0x0040 | .peerLost => 0x0041
  | .shardBad => 0x0042 | .deadlineMiss => 0x0043 | .stepTimeout => 0x0044 | .jobLost => 0x0050
  | .uncorrectable => 0x0051 | .authFail => 0x0060 | .tenantBlocked => 0x0061

/-- The OK class of R214 (R230). -/
def isOk : Status → Bool
  | .ok => true | .okDegraded => true | .alreadyConsumed => true | _ => false

/-- The failure class of R214; BAD_PARAM is named "refusal or failure" (R239). -/
def isFailure : Status → Bool
  | .resultGone => true | .badParam => true | .badAddr => true | .badCodec => true | .objectGone => true
  | .cancelled => true | .peerLost => true | .shardBad => true | .deadlineMiss => true | .stepTimeout => true
  | .jobLost => true | .uncorrectable => true | _ => false

/-- R236. -/
def classCode : EvClass → Nat
  | .trace => 0 | .notice => 1 | .error => 2 | .alarm => 3

/-- R170. -/
def slotCode : SlotState → Nat
  | .empty => 0 | .staging => 1 | .staged => 2 | .live => 3 | .retiring => 4

/-- R262. -/
def reqCode : ReqState → Nat
  | .deferred => 0 | .prefill => 1 | .decode => 2 | .idle => 3 | .finished => 4 | .ended => 5

/-- R361. -/
def linkCode : LinkState → Nat
  | .down => 0 | .training => 1 | .up => 2 | .retraining => 3

/-- R328 byte 16. -/
def memCode : MemKind → Nat
  | .bank => 0 | .regFile => 1 | .accum => 2 | .configStore => 3 | .hbm => 4 | .ddr => 5 | .firmwareArea => 6

/-- Index of a tile input: N, E, S, W, Local. -/
def portIdx : Port → Nat
  | .n => 0 | .e => 1 | .s => 2 | .w => 3 | .l => 4

/-- The class of each event code (R238). -/
def eventClass (code : Nat) : EvClass :=
  if [0x0101, 0x0102, 0x0103, 0x0205, 0x0303, 0x0304, 0x0F01, 0x0F02].contains code then .alarm
  else if [0x0202, 0x0301, 0x0302, 0x0402, 0x0403, 0x0501, 0x0502, 0x0504, 0x0602].contains code then .error
  else .notice

/-- The alarm mirror's index of an ALARM code (R366). -/
def mirrorIdx (code : Nat) : Option Nat :=
  [0x0101, 0x0102, 0x0103, 0x0205, 0x0303, 0x0304, 0x0F01, 0x0F02].findIdx? (· == code)

/-- Tile number 64 r + c. -/
def tileNo (c r : Nat) : Nat := 64 * r + c

/-- The column group of a tile (R8). -/
def groupOf (c r : Nat) : Nat := if r < 12 then c / 4 else 31 - c / 4

/-- The die of a tile (R7). -/
def dieOf (c r : Nat) : Nat := c / 16 + (if r < 12 then 0 else 4)

/-- The tiles of a column group, west to east within a row, rows north to south. -/
def groupTiles (k : Nat) : List (Nat × Nat) :=
  let c0 := if k < 16 then 4 * k else 4 * (31 - k)
  let r0 := if k < 16 then 0 else 12
  (List.range 12).flatMap fun r => (List.range 4).map fun c => (c0 + c, r0 + r)

/-- Is the tile one of T(0, 0) to T(63, 23)? -/
def isTile (c r : Nat) : Bool := c < 64 && r < 24

end Sys2Proof.Machine
end

