-- ==== Sys2Proof/Machine/Mem.lean ====
section
/-! DEFINITION. Byte storage: the cells that hold something else than 0x00, addresses strictly rising. -/
namespace Sys2Proof.Machine

/-- The byte at an address; an unlisted one reads 0x00 (DESIGN CHOICE, log 4). -/
def Mem.get : Mem → Nat → Byte
  | [], _ => 0
  | (k, v) :: t, a => if k = a then v else Mem.get t a

/-- The canonical form: addresses strictly rising from `lo`, and no listed 0x00. -/
def Mem.wfFrom : Nat → Mem → Bool
  | _, [] => true
  | lo, (k, v) :: t => decide (lo ≤ k) && v != 0 && Mem.wfFrom (k + 1) t

def Mem.wf (m : Mem) : Bool := Mem.wfFrom 0 m

/-- One byte stored; 0x00 removes the entry. -/
def Mem.put : Mem → Nat → Byte → Mem
  | [], a, b => if b = 0 then [] else [(a, b)]
  | (k, v) :: t, a, b =>
    if a < k then (if b = 0 then (k, v) :: t else (a, b) :: (k, v) :: t)
    else if a = k then (if b = 0 then t else (a, b) :: t)
    else (k, v) :: Mem.put t a b

/-- The canonical form of any cells; the first entry of an address counts. -/
def Mem.canon (m : Mem) : Mem := m.foldr (fun c acc => Mem.put acc c.1 c.2) []

/-- Bytes stored from an address up. -/
def Mem.write : Mem → Nat → List Byte → Mem
  | m, _, [] => m
  | m, a, b :: bs => Mem.write (Mem.put m a b) (a + 1) bs

/-- `n` bytes from an address. -/
def Mem.read (m : Mem) (a n : Nat) : List Byte := (List.range n).map fun i => Mem.get m (a + i)

/-- The cells of a span, numbered from its start. -/
def Mem.slice (m : Mem) (a n : Nat) : Mem :=
  (m.filter fun c => a ≤ c.1 && c.1 < a + n).map fun c => (c.1 - a, c.2)

/-- A span set to 0x00. -/
def Mem.clear (m : Mem) (a n : Nat) : Mem := m.filter fun c => c.1 < a || a + n ≤ c.1

/-- A span replaced by cells numbered from its start. -/
def Mem.paste (m : Mem) (a n : Nat) (cells : Mem) : Mem :=
  ((cells.filter fun c => c.1 < n).foldl (fun acc c => Mem.put acc (a + c.1) c.2) (Mem.clear m a n))

/-- A little-endian field. -/
def Mem.field (m : Mem) (a n : Nat) : Nat := leNat (Mem.read m a n)

/-- Is a span all 0x00? -/
def Mem.zeroIn (m : Mem) (a n : Nat) : Bool := !(m.any fun c => a ≤ c.1 && c.1 < a + n && c.2 != 0)

end Sys2Proof.Machine
end

