-- ==== Sys2Proof/Machine/Ops.lean ====
section
/-! DEFINITION. The named operations on the state: how a step's result is made, tiles, device and host memory, events (R236,
R333-R336), interrupts (R239), completion entries (R208-R210) and the raising of a job fault (R255). -/
namespace Sys2Proof.Machine

/-- What a step answers. -/
abbrev Out := Host.Outcome State Fault Refusal

/-- The one place where a step's next state is made: memories in canonical form. -/
def commit (s : State) : Out := .next { s with mem := Mem.canon s.mem, host := Mem.canon s.host }

/-! ### Tiles and tables -/

/-- Tile number `i`; one that nothing has changed is as after reset. -/
def tileAt (s : State) (i : Nat) : Tile := Tbl.getD s.tiles i Tile.reset

def setTile (i : Nat) (t : Tile) (s : State) : State := { s with tiles := Tbl.set s.tiles i t }

def onTile (i : Nat) (f : Tile → Tile) (s : State) : State := setTile i (f (tileAt s i)) s

def onTiles (l : List Nat) (f : Tile → Tile) (s : State) : State := l.foldl (fun a i => onTile i f a) s

def onPart (f : Nat) (g : Part → Part) (s : State) : State := { s with parts := Tbl.upd s.parts f g }

def onJob (j : Nat) (g : Job → Job) (s : State) : State := { s with jobs := Tbl.upd s.jobs j g }

def onObj (h : Nat) (g : Obj → Obj) (s : State) : State := { s with objs := Tbl.upd s.objs h g }

def onDesc (d : Nat) (g : Desc → Desc) (s : State) : State := { s with descs := Tbl.upd s.descs d g }

def onQueue (q : Nat) (g : Queue → Queue) (s : State) : State := { s with queues := Tbl.upd s.queues q g }

/-- The accepted command with this queue and SEQ. -/
def cmdAt (s : State) (k : Nat × Nat) : Option Cmd := s.cmds.find? fun c => c.queue == k.1 && c.seq == k.2

def onCmd (k : Nat × Nat) (g : Cmd → Cmd) (s : State) : State :=
  { s with cmds := s.cmds.map fun c => if c.queue == k.1 && c.seq == k.2 then g c else c }

def Cmd.key (c : Cmd) : Nat × Nat := (c.queue, c.seq)

/-- Queue number that names serving steps in a partition queue: no submission queue has it (R261). -/
def fwQueue : Nat := 65

/-- A serving step as a command of its job, like a RUN (R261). -/
def stepCmd (n : Nat) (x : ServStep) : Cmd :=
  { queue := fwQueue, seq := n, job := x.job, op := 0x30, pkt := [], part := none, started := false, done := none, result := [],
    errLoc := 0, trunc := false, slotV := none, run := none, stages := [], stageAt := 0, between := false, staging := none,
    waits := [], req := none, energy := 0, hints := 0 }

/-- What stands in a partition queue under a key: an accepted command, or a serving step. -/
def queueCmd (s : State) (k : Nat × Nat) : Option Cmd :=
  if k.1 = fwQueue then (Tbl.get? s.srv.steps k.2).map (stepCmd k.2) else cmdAt s k

/-- Who pays for work done for a command: it, or, for what it left in the air when it was cancelled, the CANCEL (R190, R318). -/
def payer (s : State) (k : Nat × Nat) (void : Bool) : Nat × Nat :=
  if void then ((s.cmds.find? fun c => c.waits.contains k).map Cmd.key).getD k else k

/-- Bytes moved for a command are noted, for the energy they are charged: through memory and engines, and over links (R318). -/
def noteMoved (k : Nat × Nat) (mem link : Nat) (s : State) : State :=
  { s with nrg := { s.nrg with moved := s.nrg.moved ++ [(k, mem, link)] } }

/-- A free value's number, and the state with the counter advanced. -/
def takeFresh (s : State) : Nat × State := (s.fresh, { s with fresh := s.fresh + 1 })

/-- `n` undefined bytes (log 6). -/
def freeBytes (k n : Nat) : List Byte := (List.range n).map (Config.freeByte k ·)

/-! ### Memory -/

/-- First addresses of HBM4 and DDR5, and the size of a stack's span (R155, R157). -/
def hbmBase : Nat := 0x010000000000
def stackSize : Nat := 0x1400000000
def ddrBase : Nat := 0x100000000000

/-- The memory a chip address lies in (R155): the banks of 1,536 tiles, 8 stacks of 80 GiB, DDR5. -/
def memKindOf (a : Nat) : Option MemKind :=
  if a < 0x600000000 then some .bank
  else if hbmBase ≤ a && a < hbmBase + 8 * stackSize then some .hbm
  else if ddrBase ≤ a && a < 0x140000000000 then some .ddr
  else none

/-- Bytes of a protected word (R321). -/
def eccWord (k : MemKind) : Nat := if k = .hbm || k = .ddr then 64 else 32

/-- INJSEL's target (R360). -/
def injTarget (n : Nat) : Option MemKind :=
  match n with | 1 => some .bank | 2 => some .hbm | 3 => some .ddr | _ => none

def readMem (s : State) (a n : Nat) : List Byte := Mem.read s.mem a n

/-- What a write of `n` bytes at `a` does to the words in error: every word written whole or in part is no longer in error;
with INJARM set, the first word of the next write to the target gets corrupted check bits (R360). -/
def eccOnWrite (a n : Nat) (s : State) : State :=
  match memKindOf a with
  | none => s
  | some k =>
    if n = 0 then s
    else
      let w := eccWord k
      let m := s.mctl
      let errs := m.errs.filter fun e => !(e.kind == k && a / w ≤ e.addr / w && e.addr / w ≤ (a + n - 1) / w)
      let c := m.ctl.toNat
      let arm := bitAt c 17 && injTarget (bitsOf c 20 4) == some k
      let syms := bitsOf c 18 2
      { s with mctl := { m with
          errs := if arm && syms < 2 then errs ++ [{ kind := k, addr := a / w * w, syms := syms + 1, injected := true,
                                                     reported := false, met := false, retired := false }] else errs,
          ctl := if arm then m.ctl &&& ~~~0x20000 else m.ctl } }

/-- The words of a tile memory that `n` bytes at an offset are written over: none of them is in error any longer (R321). -/
def eccRewrite (k : MemKind) (t off n : Nat) (s : State) : State :=
  if s.mctl.errs = [] then s
  else
    let hit := fun (e : ErrWord) => e.kind == k && e.addr / 2 ^ 20 == t && n != 0 && decide (off / 32 ≤ e.addr % 2 ^ 20 / 32)
      && decide (e.addr % 2 ^ 20 / 32 ≤ (off + n - 1) / 32)
    { s with mctl := { s.mctl with errs := s.mctl.errs.filter fun e => !hit e } }

/-- BISnpInv of the lines of `n` bytes at `a` before a write (R372): the host holds them no longer. -/
def invalidateLines (a n : Nat) (s : State) : State :=
  { s with att := { s.att with snoop := s.att.snoop.filter fun l => !(decide (l < a + n) && decide (a < l + 64)) } }

/-- Bytes stored in a bank, HBM4 or DDR5 by a host store. -/
def storeMem (a : Nat) (b : List Byte) (s : State) : State :=
  eccOnWrite a b.length { s with mem := Mem.write s.mem a b }

/-- Bytes stored in a bank, HBM4 or DDR5 by an engine of the X4. -/
def writeMem (a : Nat) (b : List Byte) (s : State) : State := storeMem a b (invalidateLines a b.length s)

/-- A span zeroed. -/
def clearMem (a n : Nat) (s : State) : State :=
  eccOnWrite a n { invalidateLines a n s with mem := Mem.clear s.mem a n }

/-- A span copied from another, as cells. -/
def pasteMem (a n : Nat) (cells : Mem) (s : State) : State :=
  eccOnWrite a n { invalidateLines a n s with mem := Mem.paste s.mem a n cells }
def readHost (s : State) (a n : Nat) : List Byte := Mem.read s.host a n
def writeHost (a : Nat) (b : List Byte) (s : State) : State := { s with host := Mem.write s.host a b }

/-- May the span be reached on the host (R371)? -/
def hostOk (s : State) (a n : Nat) : Bool := !(s.att.reject.any fun r => n != 0 && r.1 < a + n && a < r.1 + r.2)

/-- Chip address of a tile's bank (R156). -/
def bankBase (t : Nat) : Nat := t * 0x1000000

/-- Microseconds and milliseconds of rack time, in its 2.5 ns units (R295). -/
def usUnits (n : Nat) : Nat := n * 400
def msUnits (n : Nat) : Nat := n * 400000

/-- Rack-time units from `a` to `b`. -/
def elapsed (a b : W64) : Nat := (b - a).toNat

/-- Has this much rack time passed since `a`? -/
def passed (s : State) (a : W64) (units : Nat) : Bool := elapsed a s.clk.rackTime ≥ units

/-! ### Device, job and executing commands -/

/-- Does the command execute on a partition or an engine (R215)? A RUN or RUN_CHAIN does while its partition runs it, so not while
CTX_SAVE has suspended it (R247). -/
def executes (s : State) (c : Cmd) : Bool :=
  c.done.isNone && (if c.op = 0x30 || c.op = 0x31 then (Tbl.vals s.parts).any fun p => p.running == some c.key
    else c.started || [0x20, 0x29, 0x38].contains c.op)

def anyExecuting (s : State) : Bool := s.cmds.any (executes s)

/-- Is a turn of a request admitted (R281)? -/
def anyTurn (s : State) : Bool :=
  s.srv.reqs.any fun r => r.2.state == .prefill || r.2.state == .decode

/-- May load fill run now: orders 1 to 4 of R306 stop it. -/
def fillAllowed (s : State) : Bool := !s.pwr.floor && s.pwr.follow.isNone && !s.pwr.throttle

/-- Domains that R304 marks off in Den: those of the tiles go last (R319). -/
def tileDomains : List Nat := List.range 64
def denDomains : List Nat :=
  List.range' 96 8 ++ List.range' 120 8 ++ List.range' 129 9 ++ [139] ++ List.range' 153 15 ++ [171, 173]

/-- Rack-time units the entry into Den takes: max(0.2 ms, (P − 70 W) / RAMP) (R319). -/
def denUnits (s : State) : Nat := max 80000 ((s.glb.sleepPower - 70) * 400000 / max 1 s.pwr.ramp)

/-- A port as it stands when it is down: numbering starts at 0, and until a flit is accepted the ACK returned is the number before
(R292; DESIGN CHOICE: log 21). -/
def portOff (st : LinkState) (good : Nat) (now : W64) (p : LinkPort) : LinkPort :=
  { p with state := st, good, lanes := 0, txSeq := 0, rxSeq := 0, nak := false, ack := 0xFFF, buf := [], queue := [], credit0 := 64,
           credit1 := 64, owe0 := 0, owe1 := 0, reach := [], tried := now, rx := [] }

/-- The time of a fill that has not begun to fall: the next FCLK period takes it up with all others. -/
def fillHeld : Nat := 2 ^ 64

/-- The entry into Den begins (R319): the Den-off domains but the tiles' go off, the ports with them, and tile fill takes the 250 W that
they drew (R305, R320). -/
def startDen (s : State) : State :=
  let fill : LooseFill :=
    { first := 0, count := 0, fill := { start := 250, target := 0, since := s.clk.rackTime, dur := fillHeld, hinted := false } }
  { s with
    glb := { s.glb with denEntry := true, sleepAt := s.clk.rackTime }
    lnk := { s.lnk with ports := s.lnk.ports.map (portOff .down 0 s.clk.rackTime) }
    pwr := { s.pwr with domainsOff := s.pwr.domainsOff.filter (!denDomains.contains ·) ++ denDomains,
                        loose := if fillAllowed s then s.pwr.loose ++ [fill] else s.pwr.loose } }

/-- READY, ACTIVE and DRAIN follow what executes, the drain request and a pending SLEEP; Den entry begins when nothing
executes (R215, R281, R319). -/
def settle (s : State) : State :=
  let busy := anyExecuting s || anyTurn s
  match s.glb.state with
  | .ready =>
    if s.glb.sleep.isSome && !busy && !s.glb.denEntry then startDen s
    else if busy then { s with glb := { s.glb with state := if s.glb.drainReq || s.glb.sleep.isSome then .drain else .active } }
    else s
  | .active =>
    if s.glb.drainReq || s.glb.sleep.isSome then
      let d := { s with glb := { s.glb with state := .drain } }
      if s.glb.sleep.isSome && !busy then startDen d else d
    else if busy then s
    else { s with glb := { s.glb with state := .ready } }
  | .drain =>
    if s.glb.sleep.isSome then (if !busy && !s.glb.denEntry then startDen s else s)
    else if s.glb.drainReq then s
    else { s with glb := { s.glb with state := if busy then .active else .ready } }
  | _ => s

/-- The job state R216 gives: LOST and SAVED as recorded, ACTIVE with an incomplete command, CLOSED for a job that is not
open. -/
def jobStateOf (s : State) (j : Nat) : JobState :=
  match Tbl.get? s.jobs j with
  | none => .closed
  | some b =>
    if b.state = .lost then .lost
    else if b.saveAsked || b.state = .saved then .saved
    else if s.cmds.any (fun c => c.job == j) then .active
    else .opened

/-! ### Interrupts (R239) -/

/-- A vector; after reset masked, as MSI-X vectors are (PRESUMED: log 3). -/
def vecAt (s : State) (v : Nat) : Vec := Tbl.getD s.msix.vecs v { masked := true, pend := false, ents := [], urgent := false }

def onVec (v : Nat) (f : Vec → Vec) (s : State) : State :=
  { s with msix := { s.msix with vecs := Tbl.set s.msix.vecs v (f (vecAt s v)) } }

/-- An entry of ring `q` was posted: it counts for its vector, and an urgent one makes it fire at once. -/
def signal (v q : Nat) (urgent : Bool) (s : State) : State :=
  onVec v (fun x => { x with ents := x.ents ++ [(q, s.clk.rackTime)], urgent := x.urgent || urgent }) s

/-- The host consumed entries of ring `q`, `left` of which remain: only the newest `left` still count (R239). -/
def consumed (v q left : Nat) (s : State) : State :=
  onVec v (fun x =>
    let mine := (x.ents.filter fun e => e.1 == q).length
    let drop := mine - left
    let r := x.ents.foldl (fun (a : Nat × List (Nat × W64)) e =>
      if e.1 == q && a.1 > 0 then (a.1 - 1, a.2) else (a.1, a.2 ++ [e])) (drop, [])
    { x with ents := r.2, urgent := x.urgent && r.2 != [] }) s

/-! ### Events (R236, R333-R336) -/

/-- The 32 bytes of a record (R236). -/
def recBytes (r : EvRec) (phase : Bool) : List Byte :=
  leBytes 2 r.code ++ [BitVec.ofNat 8 (classCode r.cls + 128 * ofBool phase), BitVec.ofNat 8 r.source]
    ++ leBytes 8 r.time.toNat ++ leBytes 2 r.job ++ leBytes 2 r.seq.toNat ++ sliceB r.detail 0 16

/-- Free entries, counted against EVQ_HEAD; none while EN = 0 (R333, R352). -/
def evqFree (e : Evq) : Nat :=
  if e.en then
    let n := 2 ^ e.size.toNat
    n - 1 - (e.tail + n - e.head) % n
  else 0

/-- What a host that rejects a write of a ring leaves (R371): an AER correctable error, and the mark `f` of QDB. -/
def ringReject (f : Qdb → Qdb) (s : State) : State :=
  { s with qdb := f s.qdb, att := { s.att with aer := s.att.aer + 1 } }

/-- An entry or record of 32 bytes written to host memory, or marked where the host rejects it. -/
def ringWrite (a : Nat) (b : List Byte) (f : Qdb → Qdb) (s : State) : State :=
  if hostOk s a 32 then writeHost a b s else ringReject f s

/-- QDB_DB_ERR.EVQ (R349, R371). -/
def evqReject (d : Qdb) : Qdb := { d with errEvq := true }

/-- A record written to the ring at its tail. A write the host rejects sets QDB_DB_ERR.EVQ (R371). -/
def writeRec (r : EvRec) (s : State) : State :=
  let a := s.evq.base.toNat + 32 * s.evq.tail
  let n := 2 ^ s.evq.size.toNat
  let s1 := ringWrite a (recBytes r s.evq.phase) evqReject s
  let wrap := s.evq.tail + 1 = n
  signal 0 65 (r.cls == .alarm)
    { s1 with evq := { s1.evq with tail := if wrap then 0 else s.evq.tail + 1,
                                   phase := if wrap then !s.evq.phase else s.evq.phase } }

/-- The alarm mirror updated, with an in-band interrupt (R336, R364, R366). -/
def mirrorRec (r : EvRec) (s : State) : State :=
  match mirrorIdx r.code with
  | none => s
  | some i =>
    let n := ((Tbl.get? s.evq.mirror i).map (·.1)).getD 0
    { s with evq := { s.evq with mirror := Tbl.set s.evq.mirror i ((n + 1) % 2 ^ 32, r), ibi := s.evq.ibi ++ [i] } }

/-- A record made: its sequence number is given when it is raised (R333). -/
def raiseRec (code source job : Nat) (detail : List Byte) (s : State) : EvRec × State :=
  let r : EvRec := { code, cls := eventClass code, source, time := s.clk.rackTime, job, seq := s.evq.seq, detail }
  (r, { s with evq := { s.evq with seq := s.evq.seq + 1 } })

/-- A record dropped and counted (R333). -/
def dropRec (c : EvClass) (s : State) : State :=
  match c with
  | .alarm => { s with evq := { s.evq with nAlarm := s.evq.nAlarm + 1 } }
  | .error => { s with evq := { s.evq with nError := s.evq.nError + 1 } }
  | .notice => { s with evq := { s.evq with nNotice := s.evq.nNotice + 1 } }
  | .trace => { s with evq := { s.evq with nTrace := s.evq.nTrace + 1 } }

/-- A record put into the reserve (R334): ALARMs of one code and source coalesce, a new ALARM pair may replace the newest
ERROR, an ERROR takes a free entry. -/
def reserveRec (r : EvRec) (s : State) : State :=
  let res := s.evq.reserve
  let put := fun (l : List Held) => { s with evq := { s.evq with reserve := l, overflow := true } }
  let entry : Held := { first := r, repeats := 0, last := r.time }
  match r.cls with
  | .alarm =>
    if res.any (fun h => h.first.cls == .alarm && h.first.code == r.code && h.first.source == r.source) then
      dropRec .alarm (put (res.map fun h =>
        if h.first.cls == .alarm && h.first.code == r.code && h.first.source == r.source then
          { h with repeats := h.repeats + 1, last := r.time } else h))
    else if res.length < 256 then put (res ++ [entry])
    else if res.any (fun h => h.first.cls == .error) then
      dropRec .error (put (eraseLast res (fun h => h.first.cls == .error) ++ [entry]))
    else dropRec .alarm { s with evq := { s.evq with overflow := true } }
  | .error =>
    if res.length < 256 then put (res ++ [entry])
    else dropRec .error { s with evq := { s.evq with overflow := true } }
  | c => dropRec c s

/-- A held record is written: the dump's copy of it is no longer one that was not posted (R339). -/
def postHeld (r : EvRec) (s : State) : State :=
  writeRec r { s with dump := { s.dump with errs := s.dump.errs.map fun e => if e.rec_ == r then { e with notPosted := false } else e } }

/-- Held records written while entries are free (R335): `fuel` of them at most. -/
def drainHeld : Nat → State → State
  | 0, s => s
  | f + 1, s =>
    if evqFree s.evq = 0 then s
    else
      let age := fun (r : EvRec) => (s.evq.seq - 1 - r.seq).toNat
      match s.evq.reserve, s.evq.bootHeld with
      | [], [] => s
      | h :: t, [] => drainHeld f (postHeld h.first { s with evq := { s.evq with reserve := t } })
      | [], b :: u => drainHeld f (postHeld b { s with evq := { s.evq with bootHeld := u } })
      | h :: t, b :: u =>
        if age b > age h.first then drainHeld f (postHeld b { s with evq := { s.evq with bootHeld := u } })
        else drainHeld f (postHeld h.first { s with evq := { s.evq with reserve := t } })

/-- Is a kept record the origin of the job fault that stands? -/
def isOrigin (s : State) (e : ErrRec) : Bool :=
  (s.dump.fault.map fun f => e.rec_.seq == f.origin.seq && e.rec_.code == f.origin.code && e.rec_.time == f.origin.time).getD false

/-- An error record kept for the dump (R334, R339): every ERROR and ALARM, and every record held or dropped in FAULT. At 16,384 the
oldest gives way, but not the origin. -/
def keepRec (r : EvRec) (addr : Nat) (mem : Byte) (posted : Bool) (s : State) : State :=
  let inFault := s.glb.state == .fault
  if r.cls == .error || r.cls == .alarm || (inFault && !posted) then
    let e : ErrRec := { rec_ := r, addr, mem, notPosted := !posted, inFault }
    let old := if s.dump.errs.length < 16384 then s.dump.errs else s.dump.errs.eraseP (!isOrigin s ·)
    { s with dump := { s.dump with errs := old ++ [e] } }
  else s

/-- At the first free entry after the reserve was used: EVQ_OVERFLOW, then the held records in order (R335). -/
def flushEvq (s : State) : State :=
  if evqFree s.evq = 0 then s
  else
    let s1 :=
      if s.evq.overflow then
        let d := leBytes 4 s.evq.nAlarm ++ leBytes 4 s.evq.nError ++ leBytes 4 s.evq.nNotice ++ leBytes 4 s.evq.nTrace
        let (r, s2) := raiseRec 0x0F02 0x00 0 d s
        keepRec r 0 0xFF true (writeRec r (mirrorRec r { s2 with evq := { s2.evq with overflow := false, nAlarm := 0, nError := 0,
                                                                                      nNotice := 0, nTrace := 0 } }))
      else s
    drainHeld (s1.evq.reserve.length + s1.evq.bootHeld.length) s1

/-- Is a class posted with this many free entries (R333)? -/
def admitsClass (c : EvClass) (free : Nat) : Bool :=
  match c with
  | .trace => free ≥ 256
  | .notice => free ≥ 64
  | _ => free ≥ 1

/-- A record raised and posted, held or dropped, with the chip address and memory an error record keeps. READY and
FW_ACTIVATED are held from boot until the queue is first enabled (R378). Answers the record. -/
def postEventAt (code source job : Nat) (detail : List Byte) (addr : Nat) (mem : Byte) (s : State) : EvRec × State :=
  let (r, s1) := raiseRec code source job detail s
  let s2 := if r.cls == .alarm then mirrorRec r s1 else s1
  if (code = 0x0F03 || code = 0x0F06) && !s2.evq.everEn then
    (r, { s2 with evq := { s2.evq with bootHeld := s2.evq.bootHeld ++ [r] } })
  else
    let s3 := flushEvq s2
    let free := evqFree s3.evq
    if free = 0 then (r, keepRec r addr mem false (reserveRec r s3))
    else if admitsClass r.cls free then (r, keepRec r addr mem true (writeRec r s3))
    else (r, keepRec r addr mem false (dropRec r.cls s3))

def postEvent (code source job : Nat) (detail : List Byte) (s : State) : State :=
  (postEventAt code source job detail 0 0xFF s).2

/-! ### Completion entries (R208-R210) -/

/-- Free completion entries of a ring beyond those reserved. -/
def cqFree (q : Queue) : Nat := q.cqSize - 1 - (q.cqTail + q.cqSize - q.cqHead) % q.cqSize - q.reserved

/-- The 32 bytes of a completion entry (R209). -/
def entryBytes (seq status sqHead job type flags errLoc : Nat) (result : List Byte) : List Byte :=
  leBytes 4 seq ++ leBytes 2 status ++ leBytes 2 sqHead ++ leBytes 2 job ++ [BitVec.ofNat 8 type, BitVec.ofNat 8 flags]
    ++ leBytes 4 errLoc ++ sliceB result 0 16

/-- The error bit of a completion queue (R349, R371). -/
def cqReject (q : Nat) (d : Qdb) : Qdb :=
  if q = 64 then { d with errAcq := true } else { d with errCq := d.errCq ||| BitVec.ofNat 64 (2 ^ q) }

/-- An entry written at the tail of a completion ring. `flags` without P. A write the host rejects sets the queue's
error bit (R371). `urgent` is a final entry with a failure status (R239). -/
def postEntry (q seq : Nat) (st : Status) (job type flags errLoc : Nat) (result : List Byte) (urgent : Bool) (s : State) : State :=
  match Tbl.get? s.queues q with
  | none => s
  | some k =>
    let code := if type = 0 then statusCode st else 0
    let b := entryBytes seq code k.head job type (flags + ofBool k.cqPhase) errLoc result
    let a := k.cqBase + 32 * k.cqTail
    let s1 := ringWrite a b (cqReject q) s
    let wrap := k.cqTail + 1 = k.cqSize
    signal k.vector q urgent
      (onQueue q (fun k => { k with cqTail := if wrap then 0 else k.cqTail + 1,
                                    cqPhase := if wrap then !k.cqPhase else k.cqPhase }) s1)

/-- A command's status decided (R190): the first decision stands. -/
def decide_ (k : Nat × Nat) (st : Status) (result : List Byte) (s : State) : State :=
  onCmd k (fun c => if c.done.isSome then c else { c with done := some st, result }) s

/-- Reply bytes written to the command's reply buffer, cut to REPLYLEN with TRUNC set (R213). -/
def replyTo (k : Nat × Nat) (b : List Byte) (s : State) : State :=
  match cmdAt s k with
  | none => s
  | some c =>
    let addr := fieldAt c.pkt 16 8
    let len := fieldAt c.pkt 24 4
    if addr = 0 then onCmd k (fun c => { c with trunc := c.trunc || b != [] }) s
    else writeHost addr (b.take len) (onCmd k (fun c => { c with trunc := c.trunc || b.length > len }) s)

/-- A command that answers with reply bytes: they go to the reply buffer, and a host that rejects it gives BAD_ADDR (R213, R371). -/
def answer (k : Nat × Nat) (reply result : List Byte) (s : State) : State :=
  match cmdAt s k with
  | none => s
  | some c =>
    let a := fieldAt c.pkt 16 8
    let n := min reply.length (fieldAt c.pkt 24 4)
    if a != 0 && !hostOk s a n then decide_ k .badAddr [] s else decide_ k .ok result (replyTo k reply s)

/-! ### Job faults (R254, R255) -/

/-- A job fault with its originating record stands, unless one stands already: tiles halt (R255). -/
def standFault (r : EvRec) (cause : Nat) (part : Option Nat) (tile : Option (Nat × Nat)) (s : State) : State :=
  if s.dump.fault.isSome then s
  else
    { s with dump := { s.dump with halted := true, fault := some { origin := r, cause, part, tile, record := none,
                                                                   lost := false, ready := false,
                                                                   at_ := s.clk.rackTime, tick := s.clk.ticks,
                                                                   stalled := [] } } }

/-- A job fault raised: the originating event is posted and the fault recorded, unless one stands already. While a fault
stands, further errors are only recorded for the dump. -/
def raiseFault (code source job : Nat) (detail : List Byte) (cause : Nat) (part : Option Nat) (tile : Option (Nat × Nat))
    (addr : Nat) (mem : Byte) (s : State) : State :=
  let (r, s1) := postEventAt code source job detail addr mem s
  standFault r cause part tile s1

/-- Do tiles and engines work: no job fault stands, and the device runs (R215, R255)? -/
def running (s : State) : Bool :=
  s.dump.fault.isNone && (s.glb.state == .ready || s.glb.state == .active || s.glb.state == .drain
    || s.glb.state == .service)

end Sys2Proof.Machine
end

