-- ==== Sys2Proof/Machine/Fill.lean ====
section
/-! DEFINITION. The part's power: the demand of commands, load fill and input power (R304, R305, R308, R310-R313; log 34). -/
namespace Sys2Proof.Machine

/-! ### Demand and fill -/

/-- Load fill, or the power of a paced command, at a rack time: from `start` it moves in a straight line to `target` (R310). -/
def fillAt (f : Fill) (now : W64) : Nat :=
  let e := elapsed f.since now
  if f.dur ≤ e then f.target
  else if f.start ≤ f.target then f.start + (f.target - f.start) * e / f.dur
  else f.start - (f.start - f.target) * e / f.dur

/-- The demand of a command with demand on a partition at an FCLK in MHz, W (R310). -/
def demandAt (p : Part) (fclk : Nat) : Nat := p.count * 50 * fclk / 700

def demandOf (s : State) (p : Part) : Nat := demandAt p s.clk.fclk

/-- Load fill of a partition, W: what its tiles can take scales with FCLK (R311). -/
def fillNow (s : State) (p : Part) : Nat := min (demandOf s p) (fillAt p.fill s.clk.rackTime)

/-- The fill that column groups keep of a partition that is gone, W; it scales with FCLK like any other. That of the entry into Den does
not: it is what the other domains drew (R311, R319). -/
def looseNow (s : State) (l : LooseFill) : Nat :=
  let w := fillAt l.fill s.clk.rackTime
  if l.count = 0 then w else min (l.count * 50 * s.clk.fclk / 700) w

def looseTotal (s : State) : Nat := (s.pwr.loose.map (looseNow s)).sum

/-- All load fill on the part, W. -/
def fillTotal (s : State) : Nat := ((Tbl.vals s.parts).map (fillNow s)).sum + looseTotal s

/-- Is some load fill running, or about to rise? -/
def anyFill (s : State) : Bool := fillTotal s != 0 || (Tbl.vals s.parts).any fun p => p.fill.target != 0

/-- Opcodes of commands with demand: RUN, which a serving step stands for, and RUN_CHAIN (R310). -/
def hasDemand (op : Nat) : Bool := op = 0x30 || op = 0x31

/-- Has this partition a command with demand executing? A job fault halts it (R311). -/
def demandRunning (s : State) (p : Part) : Bool :=
  s.glb.state != .fault && (p.running.bind (queueCmd s)).any fun c => hasDemand c.op

/-- Does a partition draw demand: a command with demand executes, or one has ended and the next inherits its demand (R310)? -/
def drawsDemand (s : State) (p : Part) : Bool := demandRunning s p || p.handed.isSome

/-- What a command with demand draws on a partition: its demand, less where its issue is paced; the same between two commands of
which the second inherits the first one's demand (R310, R313). -/
def runPower (s : State) (p : Part) : Nat :=
  if drawsDemand s p then
    match p.pace with
    | some f => min (demandOf s p) (fillAt f s.clk.rackTime)
    | none => demandOf s p
  else 0

def runTotal (s : State) : Nat := ((Tbl.vals s.parts).map (runPower s)).sum

/-! ### Input power (R305; log 34) -/

/-- W of the Den-off domains that are on again in a wake: they rise at the ramp limit to 250 W (R320). -/
def wakePower (s : State) : Nat :=
  if s.glb.wake then min 250 (elapsed s.glb.wakeAt s.clk.rackTime * s.pwr.ramp / 400000) else 0

/-- Input power at a demand and fill of `load` W: the nominal figure of R305 for a state that has one, with that load. -/
def inputWith (s : State) (load : Nat) : Nat :=
  let rest := if s.glb.denEntry then 70 else if s.glb.state == .ready then 320 else s.pwr.other
  match s.glb.state with
  | .off => 0
  | .den => 70 + wakePower s
  | .boot => min 450 (rest + load)
  | _ => if s.pwr.floor then min 450 (rest + load) else rest + load

/-- Input power, W, with the demand and the fill that stand. -/
def inputPower (s : State) : Nat := inputWith s (fillTotal s + runTotal s)

/-- What input power would be at another FCLK. -/
def powerAt (s : State) (fclk : Nat) : Nat := inputPower { s with clk := { s.clk with fclk } }

/-- A measured input power: what neither demand nor fill accounts for is the rest of the part (R305). -/
def measure (power : Nat) (s : State) : State := { s with pwr := { s.pwr with other := power - fillTotal s - runTotal s } }

/-- The cap in force: the rack manager's, or the part's own ceiling below it (R307, R330). -/
def capNow (s : State) : Nat := min s.pwr.cap s.pwr.ceiling

/-- What a partition draws once every rise under way has ended: its demand where a command draws it, for a paced one comes to it, and
its fill at its target; a fill that stands for the whole demand grows with it (R310, R313). -/
def peakLoad (s : State) (p : Part) : Nat :=
  (if drawsDemand s p then demandOf s p else 0)
    + (if p.fill.target = 0 then fillNow s p else min (demandOf s p) (max (fillNow s p) p.fill.target))

/-- Input power at an FCLK once every rise under way has ended (R305, R306). -/
def peakAt (s : State) (fclk : Nat) : Nat :=
  let s1 := { s with clk := { s.clk with fclk } }
  inputWith s1 (((Tbl.vals s1.parts).map (peakLoad s1)).sum + looseTotal s1)

/-- W by which a partition's fill may still rise under the cap, once the rises under way elsewhere have ended (R306, R313). -/
def fillRoom (s : State) (p : Part) : Nat := capNow s + (peakLoad s p - fillNow s p) - peakAt s s.clk.fclk

/-! ### Moving fill (R306, R310, R311) -/

/-- Where a partition's fill, and the power of a paced command, go: as far as the demand at this FCLK. -/
def fillGoal (s : State) (p : Part) : Nat := min (demandOf s p) p.fill.target
def paceGoal (s : State) (p : Part) : Nat :=
  match p.pace with
  | some f => if drawsDemand s p then min (demandOf s p) f.target else 0
  | none => runPower s p

/-- W that all rises, and all falls, still have to move: those of fill and of paced commands. -/
def leftUp (s : State) : Nat :=
  ((Tbl.vals s.parts).map fun p => (fillGoal s p - fillNow s p) + (paceGoal s p - runPower s p)).sum
def leftDown (s : State) : Nat :=
  ((Tbl.vals s.parts).map fun p => (fillNow s p - fillGoal s p) + (runPower s p - paceGoal s p)).sum + looseTotal s

/-- The rate of falls, W/ms: the ramp limit, or the cap-follow slew where a cap or the throttle withdraws fill (R308, R315). -/
def fallRate (s : State) : Nat := if s.pwr.follow.isSome || s.pwr.throttle then s.pwr.slew else s.pwr.ramp

/-- Rack-time units in which `w` W pass at a rate in W/ms. -/
def rateUnits (w rate : Nat) : Nat := w * 400000 / max 1 rate

/-- What stands at `now` W and moves to `goal` W goes on from where it stands; all rises share the ramp limit and all falls their rate,
so that they end together. What has arrived stays. -/
def retime (s : State) (now goal : Nat) (f : Fill) : Fill :=
  if now = goal then f
  else { f with start := now, since := s.clk.rackTime,
                dur := max 1 (if now < goal then rateUnits (leftUp s) s.pwr.ramp else rateUnits (leftDown s) (fallRate s)) }

/-- Every fill and every paced command takes its share of the ramp limit from now on (R306, R307, R310, R311, R313). -/
def reshape (s : State) : State :=
  { s with
    parts := Tbl.mapVals s.parts fun p =>
      { p with fill := retime s (fillNow s p) (fillGoal s p) p.fill, pace := p.pace.map (retime s (runPower s p) (paceGoal s p)) }
    pwr := { s.pwr with loose :=
      (s.pwr.loose.filter fun l => looseNow s l != 0).map fun l => { l with fill := retime s (looseNow s l) 0 l.fill } } }

/-- Fill opens an episode, where none is open (R312). -/
def openEpisode (s : State) : State :=
  if s.pwr.episode.isNone && anyFill s then
    { s with pwr := { s.pwr with episode := some { since := s.clk.rackTime, power := inputPower s, fill := fillTotal s } } }
  else s

/-- A fill that stands at `start` and has not begun to move. -/
def newFill (s : State) (start target : Nat) (hinted : Bool) : Fill :=
  { start, target, since := s.clk.rackTime, dur := ofBool (start != target), hinted }

/-- A partition's fill set to stand at `start` and to move to `target` within the ramp limit (R310, R311). -/
def setFill (f start target : Nat) (hinted : Bool) (s : State) : State :=
  openEpisode (reshape (onPart f (fun p => { p with fill := newFill s start target hinted }) s))

/-- The fill of a partition moves from where it stands. -/
def moveFill (f target : Nat) (hinted : Bool) (s : State) : State :=
  match Tbl.get? s.parts f with
  | some p => setFill f (fillNow s p) target hinted s
  | none => s

/-- All load fill stopped at once (R306, R311). -/
def stopFill (s : State) : State :=
  { s with parts := Tbl.mapVals s.parts (fun p => { p with fill := newFill s 0 0 false }), pwr := { s.pwr with loose := [] } }

/-- All load fill falls to zero from where it stands (R308, R315). -/
def withdrawFill (s : State) : State :=
  reshape { s with parts := Tbl.mapVals s.parts fun p => { p with fill := newFill s (fillNow s p) 0 false } }

/-- Fill takes a partition's tiles at `w` W and falls at the ramp limit, where fill may run (R306, R311). -/
def takeFill (f w : Nat) (s : State) : State := if fillAllowed s then setFill f w 0 false s else s

/-- What a partition that is gone leaves on its groups: its fill, and its demand, fall on (R311). -/
def looseFill (s : State) (p : Part) : List LooseFill :=
  let w := fillNow s p + runPower s p
  if w = 0 || !fillAllowed s then [] else [{ first := p.first, count := p.count, fill := newFill s w 0 false }]

/-- Groups `a` to `b - 1` of a loose fill, with their share of it; each group has the same. -/
def loosePiece (s : State) (l : LooseFill) (a b : Nat) : List LooseFill :=
  let lo := max a l.first
  let hi := min b (l.first + l.count)
  if lo < hi then [{ first := lo, count := hi - lo, fill := newFill s (looseNow s l * (hi - lo) / l.count) 0 false }] else []

/-- Fill that still falls on groups that a new partition takes: the partition takes it over, and it goes on falling there (R311). -/
def takeLoose (f n : Nat) (s : State) : State :=
  let mine := (s.pwr.loose.flatMap fun l => loosePiece s l f (f + n)).map fun l => l.fill.start
  let rest := s.pwr.loose.flatMap fun l =>
    if l.count = 0 || l.first + l.count ≤ f || f + n ≤ l.first then [l] else loosePiece s l 0 f ++ loosePiece s l (f + n) 32
  if mine = [] then s
  else reshape (onPart f (fun p => { p with fill := newFill s mine.sum 0 false }) { s with pwr := { s.pwr with loose := rest } })

/-! ### Power domains (R304) -/

/-- Domains of the spare Badger cores and the spare tier engine that are not in use: they stay off. -/
def spareOff (s : State) : List Nat :=
  ((List.range 10).filter fun i => !s.ras.bcActive.getLsbD i).map (128 + ·) ++ if s.ras.teSpare > 0 then [167] else []

/-- Domains that are on again, all but the spares (R320). -/
def domainsOn (s : State) : State := { s with pwr := { s.pwr with domainsOff := spareOff s } }

/-- How Den keeps a domain that R304 does not mark off or on: banks in retention, HBM and DDR5 in self-refresh, the CXL port on with its
link in L1. -/
inductive DomainMode where
  | on | off | retention | selfRefresh | linkL1
  deriving DecidableEq, Repr

/-- Domains that a wake brings back, in the order in which they rise: that of R354's numbers (R320; DESIGN CHOICE: log 34). -/
def wakeOrder (s : State) : List Nat := (List.range 176).filter fun n => s.pwr.domainsOff.contains n && !(spareOff s).contains n

/-- Is a domain that Den switched off on again: the power that has risen in a wake covers it (R320)? -/
def wakesFirst (s : State) (n : Nat) : Bool :=
  let l := wakeOrder s
  s.glb.state == .den && (l.take (l.length * wakePower s / 250)).contains n

/-- The state of a domain of R304, in the numbering of R354. Self-refresh, retention and L1 begin with the entry's switch-off (R319). -/
def domainMode (s : State) (n : Nat) : DomainMode :=
  if s.pwr.domainsOff.contains n && !wakesFirst s n then .off
  else if s.glb.state != .den && !s.glb.denEntry then .on
  else if 64 ≤ n && n < 96 then .retention
  else if (104 ≤ n && n < 120) || (141 ≤ n && n < 153) then .selfRefresh
  else if n = 140 then .linkL1
  else .on

end Sys2Proof.Machine
end

