-- ==== Sys2Proof/Machine/Regs.lean ====
section
/-! DEFINITION. The register map read: BAR0 decoding, every block's words, the management space (R341-R366), and the spare
counts behind RAS_SPARES (R329, R362). -/
namespace Sys2Proof.Machine

/-- The block a BAR0 offset reaches (R341, R342): indices 6 and 7 ignore bit 17, 8-31 ignore bits [17:16]. -/
def regBlock (off : Nat) : Nat :=
  let i := bitsOf off 16 5
  if i = 6 || i = 7 then i - 2 else if i ≥ 8 then i / 4 * 4 else i

/-- The word within the block, as its byte offset (R341). -/
def regWord (off : Nat) : Nat := bitsOf off 2 10 * 4

/-- The low (0) or high (4) word of a 64-bit value at `base`. -/
def half (v : Nat) (base off : Nat) : Nat := if off = base then v % 2 ^ 32 else v / 2 ^ 32 % 2 ^ 32

/-- Own chip id fields of GLB_PARTID bits [12:6] and the part id. -/
def partIdWord (s : State) : Nat :=
  4096 * ofBool s.pins.chipSrc + 128 * s.pins.trayId.toNat + 64 * ofBool s.pins.boardPos + s.glb.partId.toNat

/-- GLB (R348). -/
def readGlb (s : State) (o : Nat) : Nat :=
  match o with
  | 0x00 => 0x4A04B100
  | 0x04 => devCode s.glb.state
  | 0x08 => partIdWord s
  | 0x0C => s.glb.fwVer.toNat
  | 0x10 => 4 * ofBool s.glb.errCfg + 2 * ofBool s.glb.errLocked + ofBool s.glb.errPartial
  | 0x14 => s.glb.scratch.toNat
  | _ => 0

/-- A doorbell's field (R349); keys as in State. -/
def doorbell (s : State) (k : Nat) : Nat := (Tbl.getD s.qdb.doorbells k 0).toNat

/-- QDB (R349). -/
def readQdb (s : State) (o : Nat) : Nat :=
  let q := s.qdb
  if o = 0 || o = 4 then half q.aqBase.toNat 0 o
  else if o = 0x08 then q.aqSize.toNat
  else if o = 0x0C then 2 * ofBool q.aqActive + ofBool q.aqEn
  else if o = 0x10 || o = 0x14 then half q.acqBase.toNat 0x10 o
  else if o = 0x18 then q.acqSize.toNat
  else if o = 0x20 then doorbell s 128
  else if o = 0x24 then doorbell s 129
  else if o = 0x30 || o = 0x34 then half q.errSq.toNat 0x30 o
  else if o = 0x38 || o = 0x3C then half q.errCq.toNat 0x38 o
  else if o = 0x40 then 4 * ofBool q.errEvq + 2 * ofBool q.errAcq + ofBool q.errAq
  else if 0x100 ≤ o && o < 0x200 then doorbell s ((o - 0x100) / 4)
  else if 0x200 ≤ o && o < 0x300 then doorbell s (64 + (o - 0x200) / 4)
  else 0

/-- EVQ (R352). -/
def readEvq (s : State) (o : Nat) : Nat :=
  let e := s.evq
  match o with
  | 0x00 => half e.base.toNat 0 0
  | 0x04 => half e.base.toNat 0 4
  | 0x08 => e.size.toNat
  | 0x0C => 2 * ofBool e.en + ofBool e.en
  | 0x10 => e.head
  | 0x14 => 2 ^ 31 * ofBool e.phase + e.tail
  | 0x18 => evqFree e
  | 0x1C => e.reserve.length
  | 0x20 => e.seq.toNat
  | _ => 0

/-- Working power-stage phases. -/
def workingPhases (s : State) : Nat := ((List.range 24).filter fun i => s.pwr.phases.getLsbD i).length

/-- PWR_FCLK.HOLD by the order of R306 (R353): 2 floor, 3 cap, 4 throttle, 5 ramp; 0 at 700 MHz. -/
def holdCode (s : State) : Nat :=
  if s.clk.fclk ≥ 700 then 0
  else if s.pwr.floor then 2
  else if s.pwr.follow.isSome || powerAt s (s.clk.fclk + 25) > capNow s then 3
  else if s.pwr.throttle then 4
  else 5

/-- The sensors of a position's die (R315, R330). -/
def dieSensors (code : Nat) : List Nat :=
  if code < 0x20 then (List.range 4).map (code / 4 * 4 + ·)
  else if 0x28 ≤ code && code ≤ 0x2B then (List.range 2).map (code / 2 * 2 + ·)
  else []

/-- The temperature of a position: its reading, or, once both of its sensors have failed, the hottest of the good positions of its die plus
10 °C (R330). Where the die has none, the reading is a free value: it was left there when the second sensor failed (log 18). -/
def positionTemp (s : State) (code : Nat) : W16 :=
  match s.thm.sensors[code]? with
  | none => 0
  | some x =>
    if x.failA && x.failB then
      let good := ((dieSensors code).filterMap fun i => s.thm.sensors[i]?).filter fun y => !(y.failA && y.failB)
      match (good.map fun y => toSigned 16 y.temp.toNat).max? with
      | some h => BitVec.ofNat 16 (ofSigned 16 (h + 80))
      | none => x.temp
    else x.temp

/-- PWR and THM as the slow domain holds them (R353-R355). -/
def livePwr (s : State) (o : Nat) : Nat :=
  let p := s.pwr
  if o = 0x00 then s.pins.vin % 65536 * 65536 + inputPower s % 65536
  else if o = 0x04 then p.ceiling * 65536 + p.cap
  else if o = 0x08 then 16384 * ofBool (fillTotal s != 0) + 8192 * ofBool p.floor + 1024 * holdCode s + s.clk.fclk % 1024
  else if o = 0x0C then p.slew * 65536 + p.ramp
  else if o = 0x10 || o = 0x14 then half s.clk.stretchCount.toNat 0x10 o
  else if o = 0x18 then workingPhases s
  else if o = 0x40 then p.vrOffset.toNat * 1024 + p.vrDomain.toNat
  else if o = 0x44 then s.thm.trip * 65536 + s.thm.floor * 256 + s.thm.throttle
  else if 0x80 ≤ o && o < 0x80 + 4 * 45 then
    match s.thm.sensors[(o - 0x80) / 4]? with
    | some x => 131072 * ofBool (x.failA && x.failB) + 65536 * ofBool (x.failA != x.failB) + (positionTemp s ((o - 0x80) / 4)).toNat
    | none => 0
  else 0

/-- CLK (R356), CLK_STATUS as the slow domain holds it. -/
def liveClk (s : State) (o : Nat) : Nat :=
  let c := s.clk
  match o with
  | 0x00 => half c.rackTime.toNat 0 0
  | 0x04 => half c.rackTime.toNat 0 4
  | 0x08 => half c.rally.toNat 8 8
  | 0x0C => half c.rally.toNat 8 12
  | 0x10 => ofSigned 16 c.rallyOffset * 65536 + c.rallyMaster.toNat * 256 + c.pllGood.toNat * 16 + 4 * ofBool c.rtLoaded
      + 2 * ofBool c.rallySync + ofBool c.rackclkLost
  | _ => 0

/-- NRG (R357): live counters below 0x0400 but for NRG_SNAP, copies from 0x0800. -/
def readNrg (s : State) (o : Nat) : Nat :=
  let w := fun (t : Tbl W64) (x : Nat) => half (Tbl.getD t (x / 8 * 8) 0).toNat (x / 8 * 8) x
  let listed := fun (x : Nat) => x < 0x28 || (0x100 ≤ x && x < 0x200) || (0x200 ≤ x && x < 0x400)
  if o = 0x28 then ofBool s.nrg.snap
  else if o < 0x400 && listed o then w s.nrg.live o
  else if 0x800 ≤ o && o < 0xC00 && listed (o - 0x800) then w s.nrg.copies (o - 0x800)
  else 0

/-- Tiles of a run of groups, in the order of R80. -/
def runTiles (first count : Nat) : List (Nat × Nat) := (List.range count).flatMap fun i => groupTiles (first + i)

def partTiles (p : Part) : List (Nat × Nat) := runTiles p.first p.count

/-- The same as tile numbers. -/
def partNos (p : Part) : List Nat := (partTiles p).map fun t => tileNo t.1 t.2

/-- Config slot tags of a partition's tiles made invalid. -/
def clearTags (p : Part) (s : State) : State :=
  (partNos p).foldl (fun a t => if Tbl.has a.tiles t then
    onTile t (fun x => { x with slots := x.slots.map fun y => { y with tag := none } }) a else a) s

/-- The partition that holds a column group. -/
def partOfGroup (s : State) (g : Nat) : Option Part :=
  (Tbl.vals s.parts).find? fun p => p.first ≤ g && g < p.first + p.count

/-- FAB (R358). A CTX_SAVE executes on its partition and holds it (R28, R244). -/
def readFab (s : State) (o : Nat) : Nat :=
  if o = 0 then s.wdog.toNat
  else if 0x100 ≤ o && o < 0x180 then
    if s.glb.state == .den then 0
    else match partOfGroup s ((o - 0x100) / 4) with
      | some p => 131072 * ofBool (p.held || p.saving.isSome) + 65536 * ofBool (p.running.isSome || p.saving.isSome) + 256 * (p.first + p.count - 1) + p.first
      | none => 0xFFFF
  else 0

/-- Stack of an HBM chip address. -/
def stackOf (a : Nat) : Nat := (a - hbmBase) / stackSize

/-- Stacks of a mask, lowest first; 0 means all (R161, R225). -/
def maskStacks (m : Nat) : List Nat := (List.range 8).filter fun k => bitAt (if m = 0 then 0xFF else m) k

/-- The stack that a mask gives page `p` (R161). -/
def stackFor (mask p : Nat) : Nat :=
  let st := maskStacks mask
  st.getD (p % max 1 st.length) 0

/-- The stack a Fox engine serves is ⌊k / 2⌋ (R179). Descriptors in PAGE_WAIT or re-streaming on it: a page that still lies in DDR5
counts for the stack it goes to (R161, R359). -/
def foxHalted (s : State) (k : Nat) : Nat :=
  ((Tbl.vals s.descs).filter fun d =>
    match d.halted with
    | none => false
    | some pg =>
      match (Tbl.get? s.objs d.handle).bind fun o => (o.pages[pg]?).map fun a => (o, a) with
      | some (o, a) => (if memKindOf a = some .hbm then stackOf a else stackFor o.stackMask pg) == k / 2
      | none => false).length

/-- FOX (R359). -/
def readFox (s : State) (o : Nat) : Nat :=
  if o = 0 then s.split.2.2 * 65536 + s.split.2.1 * 256 + s.split.1
  else if 0x100 ≤ o && o < 0x140 then
    let k := (o - 0x100) / 4
    if s.glb.state == .den then 0
    else match s.fox[k]? with
      | some f => min 255 (foxHalted s k) * 65536 + min 128 f.bursts.length * 256 + ofBool f.failed
      | none => 0
  else if 0x180 ≤ o && o < 0x190 then
    match s.tiers[(o - 0x180) / 4]? with
    | some t => min 255 (t.work.length + s.tierQueue.length) * 65536 + ofBool t.failed
    | none => 0
  else 0

/-- GiB used on each DDR5 channel: the smallest DIMM's (R154). -/
def dimmUsed (s : State) : Nat := (s.mctl.dimmGib.min?).getD 0

/-- MEM (R360). -/
def readMemReg (s : State) (o : Nat) : Nat :=
  match o with
  | 0x00 => s.mctl.ctl.toNat
  | 0x04 => dimmUsed s % 65536 * 65536 + s.mctl.ddrTrained.toNat
  | 0x08 => s.mctl.hbmTrained.toNat
  | _ => 0

/-- LNK (R361). -/
def readLnk (s : State) (o : Nat) : Nat :=
  let l := s.lnk
  let up := (l.peers.filter fun p => p.2.up && p.1 < 64).foldl (fun a p => a + 2 ^ p.1) 0
  if o < 8 then half up 0 o
  else if o < 0x10 then half l.mask.toNat 8 o
  else if o = 0x10 then l.tenant.toNat
  else if 0x100 ≤ o && o < 0x100 + 0x40 * 9 then
    let base := 0x100 + (o - 0x100) / 0x40 * 0x40
    match l.ports[(o - 0x100) / 0x40]? with
    | none => 0
    | some p =>
      let x := o - base
      if x = 0 then p.good * 65536 + p.spares * 256 + p.lanes * 4 + linkCode p.state
      else if x = 8 || x = 0xC then half p.crcErr.toNat 8 x
      else if x = 0x10 || x = 0x14 then half p.replays.toNat 0x10 x
      else if x = 0x18 || x = 0x1C then half p.tenantDrop.toNat 0x18 x
      else if x = 0x20 || x = 0x24 then half p.protoDrop.toNat 0x20 x
      else if x = 0x28 then p.retrain.toNat
      else 0
  else if 0x400 ≤ o && o < 0x400 + 40 then (Tbl.getD l.bridge ((o - 0x400) / 4) 0).toNat
  else 0

/-! ### Spares (R329) -/

/-- Is the retired column, or row, of a die occupied by a fault? -/
def colUsed (m : SpareMap) : Bool := m.faults.any fun f => f.1 == m.col
def rowUsed (m : SpareMap) : Bool := m.faults.any fun f => f.2 == m.row && f.1 != m.col

/-- Good units of a bit vector. -/
def popcount (n v : Nat) : Nat := ((List.range n).filter (bitAt v ·)).length

/-- Remap blocks taken from a stack's reserve, and from the DDR5 reserve (R326). -/
def hbmRemaps (s : State) (k : Nat) : Nat := (s.mctl.remap.filter fun r => r.1 == .hbm && stackOf r.2.1 == k).length
def ddrRemaps (s : State) : Nat := (s.mctl.remap.filter fun r => r.1 == .ddr).length

/-- Redundant rows in use in a tile. -/
def rowsRetired (s : State) (t : Nat) : Nat := (s.mctl.rows.filter fun r => r.2.2 && r.1 / 0x1000000 == t).length

/-- Spares of a code left at an instance (R329): die, 0, engine, 0, port, tile, 0, hub, sensor code, stack, 0. -/
def sparesLeft (s : State) (code inst : Nat) : Nat :=
  match code with
  | 0 => match s.ras.maps[inst]? with | some m => 2 - ofBool (colUsed m) - ofBool (rowUsed m) | none => 0
  | 1 => popcount 10 (s.ras.bcGood &&& ~~~s.ras.bcActive).toNat
  | 2 => s.ras.foxSpare.getD (inst / 8) 0
  | 3 => s.ras.teSpare
  | 4 => match s.lnk.ports[inst]? with | some p => p.spares | none => 0
  | 5 => 256 - rowsRetired s inst
  | 6 => workingPhases s - 22
  | 7 => popcount 2 (bitsOf s.clk.pllGood.toNat (2 * inst) 2) - 1
  | 8 => match s.thm.sensors[inst]? with | some x => 1 - ofBool (x.failA || x.failB) | none => 0
  | 9 => 4096 - hbmRemaps s inst
  | 10 => 16384 - ddrRemaps s
  | _ => 0

/-- The instances of a code. -/
def spareInstances (code : Nat) : List Nat :=
  match code with
  | 0 => List.range 8 | 2 => List.range 16 | 4 => List.range 9 | 5 => List.range 1536 | 7 => List.range 2
  | 8 => List.range 45 | 9 => List.range 8 | _ => [0]

/-- RAS_SPARES.LEFT: fewest left at any instance (R362). -/
def fewestLeft (s : State) (code : Nat) : Nat := (((spareInstances code).map (sparesLeft s code)).min?).getD 0

/-- The minimum of lanes of a port (R294). -/
def minLanes (port : Nat) : Nat := if port = 8 then 8 else 4

/-- "Low when" of R329. -/
def lowHolds (s : State) (code inst : Nat) : Bool :=
  match code with
  | 0 => match s.ras.maps[inst]? with | some m => colUsed m && rowUsed m | none => false
  | 1 => sparesLeft s 1 0 ≤ 1
  | 2 => s.ras.foxSpare.getD (inst / 8) 1 = 0
  | 3 => s.ras.teSpare = 0
  | 4 => sparesLeft s 4 inst = 0
  | 5 => sparesLeft s 5 inst < 32
  | 6 => workingPhases s ≤ 23
  | 7 => popcount 2 (bitsOf s.clk.pllGood.toNat (2 * inst) 2) ≤ 1
  | 8 => sparesLeft s 8 inst = 0
  | 9 => sparesLeft s 9 inst < 410
  | 10 => sparesLeft s 10 0 < 1639
  | _ => false

/-- "Exhausted when" of R329. The conditions of codes 1 to 3 hold at boot (`atBoot`). -/
def exhaustedHolds (s : State) (atBoot : Bool) (code inst : Nat) : Bool :=
  match code with
  | 0 => match s.ras.maps[inst]? with | some m => m.withdrawn | none => false
  | 1 => atBoot && popcount 10 s.ras.bcGood.toNat < 8
  | 2 => atBoot && ((s.fox[inst]?).map (·.failed)).getD false
  | 3 => atBoot && s.tiers.any (·.failed)
  | 4 => match s.lnk.ports[inst]? with | some p => p.good < minLanes inst | none => false
  | 5 => sparesLeft s 5 inst = 0
  | 6 => workingPhases s ≤ 22
  | 8 => match s.thm.sensors[inst]? with | some x => x.failA && x.failB | none => false
  | 9 => sparesLeft s 9 inst = 0
  | 10 => sparesLeft s 10 0 = 0
  | _ => false

/-- RAS_SPARES.LOW and EXHAUSTED: the conditions of R329 as they hold; those of codes 1 to 3 as boot found them, and a port is below its
minimum of lanes from when that is found until it trains (R362). -/
def lowNow (s : State) (code : Nat) : Bool := (spareInstances code).any (lowHolds s code)
def exhaustedNow (s : State) (code : Nat) : Bool :=
  if 1 ≤ code && code ≤ 4 then s.ras.exhausted.any fun e => e.1 == code && (code != 4 || exhaustedHolds s false 4 e.2.1)
  else (spareInstances code).any (exhaustedHolds s false code)

/-- Die of a column group (R8). -/
def dieOfGroup (g : Nat) : Nat := if g < 16 then g / 4 else 4 + (31 - g) / 4

/-- Is a column group part of a partition that an image is bound on? -/
def groupBound (s : State) (g : Nat) : Bool :=
  s.parts.any fun e => e.2.first ≤ g && g < e.2.first + e.2.count
    && s.jobs.any fun j => j.2.part == some e.2.first && j.2.bindings != []

/-- RAS_SPARE_MAP.APPLIED of die `n`: the map is in force in every bound partition on the die (R362). -/
def mapApplied (s : State) (n : Nat) (m : SpareMap) : Bool :=
  m.applied && (List.range 32).all fun g => dieOfGroup g != n || !groupBound s g || s.ras.force.getD g (16, 12) == (m.colReg, m.rowReg)

/-- RAS (R362), RAS_SPARES as the unit holds it. -/
def liveRas (s : State) (o : Nat) : Nat :=
  if o < 0x20 then
    match s.ras.maps[o / 4]? with
    | some m => 2 ^ 31 * ofBool (mapApplied s (o / 4) m) + 2 ^ 30 * ofBool m.withdrawn + 512 * m.rowReg + 16 * m.colReg
    | none => 0
  else if 0x40 ≤ o && o < 0x6C then
    let c := (o - 0x40) / 4
    131072 * ofBool (exhaustedNow s c) + 65536 * ofBool (lowNow s c) + fewestLeft s c
  else if 0x80 ≤ o && o < 0xA0 then
    half (s.ras.ce.getD ((o - 0x80) / 8) 0).toNat ((o / 8) * 8) o
  else 0

/-! ### The slow domain (R6, R345) -/

/-- Words of type ST, by 65,536 × block + word: PWR and THM, CLK_STATUS, RAS_SPARES of codes 6 to 8. -/
def stWords : List Nat :=
  ([0x00, 0x04, 0x08, 0x0C, 0x10, 0x14, 0x18, 0x40, 0x44] ++ (List.range 45).map (0x80 + 4 * ·)).map (0x30000 + ·)
    ++ [0x40010, 0x180058, 0x18005C, 0x180060]

/-- A word of type ST as it stands. -/
def liveWord (s : State) (k : Nat) : Nat :=
  match k / 0x10000 with
  | 3 => livePwr s (k % 0x10000)
  | 4 => liveClk s (k % 0x10000)
  | _ => liveRas s (k % 0x10000)

/-- A read of a word of type ST returns the copy of the last SCLK edge; before the first, what stands (DESIGN CHOICE: log 40). -/
def readSlow (s : State) (k : Nat) : Nat :=
  match if stWords.contains k then Tbl.get? s.slow.copies k else none with
  | some v => v.toNat
  | none => liveWord s k

def readPwr (s : State) (o : Nat) : Nat := readSlow s (0x30000 + o)
def readClk (s : State) (o : Nat) : Nat := readSlow s (0x40000 + o)
def readRas (s : State) (o : Nat) : Nat := readSlow s (0x180000 + o)

/-- PWR_VR_OVERRIDE (R354): a DOMAIN of 176-255 has no effect. -/
def setVr (v : W32) (s : State) : State :=
  let d := v.toNat % 256
  if d < 176 then
    { s with pwr := { s.pwr with vrDomain := BitVec.ofNat 8 d, vrOffset := BitVec.ofNat 6 (bitsOf v.toNat 10 6) } }
  else s

/-- A threshold clamped to 60-125 °C (R355). -/
def clampT (x : Nat) : Nat := max 60 (min 125 x)

/-- THM_TRIP (R355). -/
def setTrip (v : W32) (s : State) : State :=
  { s with thm := { s.thm with throttle := clampT (bitsOf v.toNat 0 8), floor := clampT (bitsOf v.toNat 8 8),
                               trip := clampT (bitsOf v.toNat 16 8) } }

/-- An SCLK rising edge: posted writes take effect in their order, then the copies are refreshed. -/
def slowEdge (s : State) : State :=
  let s1 := s.slow.posted.foldl (fun a w => if w.1 = 0x40 then setVr w.2 a else setTrip w.2 a) s
  { s1 with slow := { s1.slow with copies := stWords.map fun k => (k, BitVec.ofNat 32 (liveWord s1 k)), posted := [] } }

/-- DBG (R363). -/
def readDbg (s : State) (o : Nat) : Nat :=
  match o with
  | 0 => ofBool s.att.uartLog
  | 4 => ofBool s.boot.jtagLock
  | _ => 0

/-- A 32-bit word read at a BAR0 offset, by R341-R344: a word no map lists reads 0; in BOOT only GLB_ID, GLB_STATE and
GLB_FWVER read, and the doorbells as written; in OFF nothing answers. -/
def readReg (s : State) (off : Nat) : Nat :=
  let b := regBlock off
  let o := regWord off
  let full := match b with
    | 0 => readGlb s o | 1 => readQdb s o | 2 => readEvq s o | 3 => readPwr s o | 4 => readClk s o | 5 => readNrg s o
    | 8 => readFab s o | 12 => readFox s o | 16 => readMemReg s o | 20 => readLnk s o | 24 => readRas s o
    | 28 => readDbg s o | _ => 0
  match s.glb.state with
  | .off => 0
  | .boot =>
    if !s.att.cfgUp then 0
    else if b = 0 && (o = 0 || o = 4 || o = 0xC) then full
    else if b = 1 && (o = 0x20 || o = 0x24 || (0x100 ≤ o && o < 0x300)) then full
    else 0
  | _ => full

/-- The bytes that a read of `n` bytes at a BAR0 offset returns (R343): of one word the selected bytes, and beyond a word those of 32-bit
reads in ascending order. A write wider than 4 bytes is as many REGISTER_WRITEs in that order. -/
def readBytes (s : State) (off n : Nat) : List Byte :=
  sliceB ((List.range ((off % 4 + n + 3) / 4)).flatMap fun i => leBytes 4 (readReg s (off / 4 * 4 + 4 * i))) (off % 4) n

/-- Hottest reading in units of 0.5 °C, signed (R365). -/
def hottest (s : State) : Int :=
  ((((List.range s.thm.sensors.length).map fun i => toSigned 16 (positionTemp s i).toNat).max?).getD 0) / 4

/-- The management register space read as bytes of 32-bit words (R365, R366). -/
def mgRead (s : State) (off : Nat) : Nat :=
  let p := s.pwr
  match off with
  | 0x00 => 0x4A04B100
  | 0x04 => partIdWord s
  | 0x08 => if s.pins.chipSrc then s.glb.partId.toNat else 0x3F
  | 0x20 => p.capReg
  | 0x24 => p.deadlineReg
  | 0x28 => half p.atReg.toNat 0x28 0x28
  | 0x2C => half p.atReg.toNat 0x28 0x2C
  | 0x30 => p.slew
  | 0x34 => p.ramp
  | 0x40 => half s.lnk.mask.toNat 0x40 0x40
  | 0x44 => half s.lnk.mask.toNat 0x40 0x44
  | 0x48 => s.lnk.tenant.toNat
  | 0x50 => ofBool s.glb.drainReq
  | 0x54 => p.ceiling * 65536 + 2048 * ofBool p.floor + 1024 * ofBool s.clk.rallySync + 512 * ofBool s.clk.rackclkLost
      + 256 * ofBool p.capLag + devCode s.glb.state
  | 0x58 => ofSigned 16 (hottest s) * 65536 + inputPower s % 65536
  | _ =>
    if 0x100 ≤ off && off < 0x300 then
      match Tbl.get? s.evq.mirror ((off - 0x100) / 0x40) with
      | none => 0
      | some (n, r) =>
        let x := (off - 0x100) % 0x40
        if x = 0 then n % 2 ^ 32 else if x < 32 then 0 else fieldAt (recBytes r false) (x - 32) 4
    else 0

end Sys2Proof.Machine
end

