-- ==== Sys2Proof/Machine/Ecc.lean ====
section
/-! DEFINITION. Reads through the symbol codes: corrected, uncorrectable and unchecked words (R321, R322, R326, R328, R360). -/
namespace Sys2Proof.Machine

/-- Index of a memory in RAS_CE: banks, tile memories, HBM4, DDR5 (R362). -/
def ceIndex : MemKind → Nat
  | .bank => 0 | .hbm => 2 | .firmwareArea => 2 | .ddr => 3 | _ => 1

/-- One correctable error counted (R321, R327). -/
def countCe (k : MemKind) (s : State) : State :=
  let i := ceIndex k
  { s with ras := { s.ras with ce := modAt s.ras.ce i (· + 1), ceNow := modAt s.ras.ceNow i (· + 1) } }

/-- CHKOFF of a memory (R360). -/
def checkOff (s : State) (k : MemKind) : Bool :=
  match k with
  | .bank => bitAt s.mctl.ctl.toNat 0 | .hbm => bitAt s.mctl.ctl.toNat 1 | .ddr => bitAt s.mctl.ctl.toNat 2 | _ => false

/-- WBOFF of a memory (R360). -/
def writebackOff (s : State) (k : MemKind) : Bool :=
  match k with | .hbm => bitAt s.mctl.ctl.toNat 9 | .ddr => bitAt s.mctl.ctl.toNat 8 | _ => false

/-- Units of 24 h of rack time. -/
def dayUnits : Nat := 24 * 3600 * 400000000

/-- The retirement unit of a location: a 4 KiB block of HBM or DDR5, a 512 B row of a bank (R326). -/
def retireUnit (k : MemKind) (a : Nat) : Nat := if k = .bank then a / 512 * 512 else a / 4096 * 4096

/-- The memory that holds a location: the firmware area lies in HBM4 (R153). -/
def heldIn (k : MemKind) : MemKind := if k = .firmwareArea then .hbm else k

/-- A location becomes due for retirement, for a reason of R331: 1 correctable threshold, 2 uncorrectable. One already due, or a
bank row that the next binding takes out of use, is so once; a spare in use can become due in its turn. -/
def markDue (k0 : MemKind) (a reason : Nat) (s : State) : State :=
  let k := heldIn k0
  let u := retireUnit k a
  if !(k = .bank || k = .hbm || k = .ddr) || s.mctl.due.any (fun d => d.1 == k && d.2.1 == u)
    || s.mctl.rows.any (fun d => k == .bank && d.1 == u && !d.2.2) then s
  else { s with mctl := { s.mctl with due := s.mctl.due ++ [(k, u, reason)] } }

/-- A correctable report of a word noted, with those older than 24 h dropped; the third makes its block due (R326). -/
def noteHit (e : ErrWord) (s : State) : State :=
  if e.injected then s
  else
    let w := eccWord e.kind
    let key := e.addr / w * w
    let old := s.mctl.hits.filter fun h => !(h.1 == e.kind && h.2.1 == key)
    let times := ((s.mctl.hits.find? fun h => h.1 == e.kind && h.2.1 == key).map (·.2.2)).getD []
    let fresh := (times.filter fun t => elapsed t s.clk.rackTime < dayUnits) ++ [s.clk.rackTime]
    let s1 := { s with mctl := { s.mctl with hits := old ++ [(e.kind, key, fresh)] } }
    if fresh.length ≥ 3 then markDue e.kind key 1 s1 else s1

/-- Words in error that a read of a memory's span meets. -/
def errsIn (s : State) (k : MemKind) (a n : Nat) : List ErrWord :=
  let w := eccWord k
  s.mctl.errs.filter fun e => e.kind == k && n != 0 && a / w ≤ e.addr / w && e.addr / w ≤ (a + n - 1) / w

/-- What a checked read answers: its bytes, the uncorrectable words it met, and the state after it. -/
structure EccRead where
  bytes : List Byte
  ue : List ErrWord
  st : State

/-- The bytes of a read of `n` at `a` with those of a word in error as free bytes, `r.2` counting State.fresh. -/
def freeWord (a n : Nat) (r : List Byte × Nat) (e : ErrWord) : List Byte × Nat :=
  let w := eccWord e.kind
  let lo := max a (e.addr / w * w)
  let hi := min (a + n) (e.addr / w * w + w)
  (r.1.take (lo - a) ++ freeBytes r.2 (hi - lo) ++ r.1.drop (hi - a), r.2 + 1)

/-- Uncorrectable words after a reader met them: a retired one's place holds zeros for later readers (R325, R326). -/
def metWords (bad : List ErrWord) (es : List ErrWord) : List ErrWord :=
  es.filterMap fun e => if bad.contains e then (if e.retired then none else some { e with reported := true, met := true }) else some e

/-- A read of `n` bytes at `a` in memory `k`. Single-symbol errors are corrected and counted, and in HBM4 and DDR5 written
back; with two or more symbols the word is uncorrectable. With checking off the words in error are delivered as they are:
injected errors are in the check bits alone, the bytes of another word in error are undefined (log 6). -/
def eccRead (k : MemKind) (a n : Nat) (s : State) : EccRead :=
  let es := errsIn s k a n
  if es = [] then { bytes := readMem s a n, ue := [], st := s }
  else if checkOff s k then
    let r := (es.filter fun e => !e.injected).foldl (freeWord a n) (readMem s a n, s.fresh)
    { bytes := r.1, ue := [], st := { s with fresh := r.2 } }
  else
    let bad := es.filter fun e => e.syms ≥ 2
    let good := es.filter fun e => e.syms < 2
    let s1 := good.foldl (fun x e => noteHit e (countCe k x)) s
    let s2 := if (k = .hbm || k = .ddr) && !writebackOff s k then
        { s1 with mctl := { s1.mctl with errs := s1.mctl.errs.filter fun e => !(good.contains e) } }
      else s1
    let s3 := (bad.filter fun e => !e.injected && !e.retired).foldl (fun x e => markDue e.kind e.addr 2 x)
      { s2 with mctl := { s2.mctl with errs := metWords bad s2.mctl.errs } }
    { bytes := readMem s a n, ue := bad, st := s3 }

/-- The memory a checked read of a chip address meets. -/
def eccReadAt (a n : Nat) (s : State) : EccRead :=
  match memKindOf a with
  | some k => eccRead k a n s
  | none => { bytes := List.replicate n 0, ue := [], st := s }

/-- Source unit of UE: stack, channel or partition, else 0x00 (R237, R328). -/
def ueSource (e : ErrWord) (part : Option Nat) : Nat :=
  match e.kind with
  | .hbm => 0x60 + (e.addr - hbmBase) / stackSize
  | .ddr => 0x68 + (e.addr - ddrBase) / 4096 % 12
  | _ => match part with | some f => 0x40 + f | none => 0x00

/-- Is the word in a tile memory? -/
def inTileMem (k : MemKind) : Bool := k == .regFile || k == .accum || k == .configStore

/-- Is the location retired by R326: an uncorrectable word that was not injected, in a bank, HBM4 or DDR5, with a spare left for it? -/
def retires (s : State) (e : ErrWord) : Bool :=
  !e.injected && (match heldIn e.kind with
    | .bank => sparesLeft s 5 (e.addr / 0x1000000) != 0 | .hbm => sparesLeft s 9 (stackOf e.addr) != 0
    | .ddr => sparesLeft s 10 0 != 0 | _ => false)

/-- The detail of UE (R328). A bank's protected word is half a 64 B word. -/
def ueDetail (e : ErrWord) (scrub : Bool) (outcome : Nat) (retired : Bool) : List Byte :=
  let (c, r) := match e.kind with
    | .bank => (e.addr / 0x1000000 % 64, e.addr / 0x1000000 / 64)
    | .hbm => ((e.addr - hbmBase) / stackSize, 0xFF)
    | .ddr => ((e.addr - ddrBase) / 4096 % 12, 0xFF)
    | .firmwareArea => ((e.addr - hbmBase) / stackSize, 0xFF)
    | _ => (e.addr / 2 ^ 20 % 64, e.addr / 2 ^ 20 / 64)
  let where_ := if inTileMem e.kind then e.addr % 2 ^ 20 else e.addr / 64 * 64
  [BitVec.ofNat 8 (memCode e.kind), BitVec.ofNat 8 (ofBool scrub), BitVec.ofNat 8 c, BitVec.ofNat 8 r]
    ++ leBytes 8 where_ ++ [BitVec.ofNat 8 outcome, BitVec.ofNat 8 (ofBool retired), 0, 0]

/-- The chip address an error record keeps of a word: none in a tile memory (R339). -/
def errAddr (e : ErrWord) : Nat := if inTileMem e.kind then 0 else e.addr / 64 * 64

/-- UE posted for each uncorrectable word that none was posted for, without a job fault (R328). -/
def postUe (es : List ErrWord) (scrub : Bool) (outcome : Nat) (part : Option Nat) (job : Nat) (s : State) : State :=
  (es.filter (!·.reported)).foldl (fun s e =>
    (postEventAt 0x0202 (ueSource e part) job (ueDetail e scrub outcome (retires s e)) (errAddr e)
      (BitVec.ofNat 8 (memCode e.kind)) s).2) s

/-- The record of a job fault whose word a UE has reported before: it is kept for the dump, and not posted again (R328, R338; DESIGN
CHOICE: log 16). -/
def faultAgain (e : ErrWord) (part : Option Nat) (job : Nat) (s : State) : EvRec :=
  { code := 0x0202, cls := .error, source := ueSource e part, time := s.clk.rackTime, job, seq := s.evq.seq,
    detail := ueDetail e false 2 (retires s e) }

/-- UE posted for each uncorrectable word, and the job fault the first of them is (R254, R328): cause 3 bank, 4 object, 5 tile
memory. -/
def ueFault (es : List ErrWord) (cause : Nat) (part : Option Nat) (tile : Option (Nat × Nat)) (job : Nat) (s : State) : State :=
  es.foldl (fun s e =>
    let mem := BitVec.ofNat 8 (memCode e.kind)
    if e.reported then
      if s.dump.fault.isSome then s
      else
        let r := faultAgain e part job s
        keepRec r (errAddr e) mem false (standFault r cause part tile s)
    else raiseFault 0x0202 (ueSource e part) job (ueDetail e false 2 (retires s e)) cause part tile (errAddr e) mem s) s

/-- The tile whose bank holds the first of some words. -/
def bankTile (es : List ErrWord) : Option (Nat × Nat) :=
  es.head?.map fun e => (e.addr / 0x1000000 % 64, e.addr / 0x1000000 / 64)

/-- Are the words a bank's? -/
def inBank (es : List ErrWord) : Bool := es.any (·.kind == .bank)

end Sys2Proof.Machine
end

