-- ==== Sys2Proof/Machine/Commands.lean ====
section
/-! DEFINITION. Command packets: the header, the order of the checks, acceptance and refusal, the state table and the
completion of a decided command (R206-R219). -/
namespace Sys2Proof.Machine

/-- A refusal at acceptance: status, ERRLOC, RESULT bytes, and bytes for the reply buffer. -/
structure Ref where
  st : Status
  loc : Nat := 0
  result : List Byte := []
  reply : List Byte := []
  deriving DecidableEq, Repr

/-- What an opcode is: its row of R217, the bytes its layout uses, its checks and its effect. -/
structure OpSpec where
  op : Nat
  /-- Allowed on the AQ; on an SQ. -/
  aq : Bool
  sq : Bool
  /-- Header FLAGS bits it defines. -/
  flags : Nat
  /-- Least PUNITS; XFER's goes by its KIND (R217). -/
  minUnits : Pkt → Nat
  /-- It enters the partition queue (R244). -/
  queued : Bool
  /-- Parameter bytes its layout lists (offset, length). -/
  used : Pkt → List (Nat × Nat)
  /-- Step 5 of R212. -/
  params : State → Nat → Pkt → Option Ref
  /-- Step 6: conditions beyond the table of R218. -/
  state : State → Nat → Pkt → Option Ref
  /-- Step 7. -/
  resources : State → Nat → Pkt → Option Ref
  /-- What acceptance does; the command stands among the accepted ones already. -/
  effect : Cmd → Nat → State → State

/-- Offset of a failing field in host memory or an image (R209). -/
def noLoc : Nat := 0xFFFFFFFF

def badParam (loc : Nat) : Option Ref := some { st := .badParam, loc }

def refuseIf (b : Bool) (st : Status) (loc : Nat := 0) : Option Ref := if b then some { st, loc } else none

/-- The first refusal of a list of checks. -/
def firstRef (l : List (Option Ref)) : Option Ref := l.findSome? id

/-- Job named by the header. -/
def pktJob (p : Pkt) : Nat := fieldAt p 2 2
def pktSeq (p : Pkt) : Nat := fieldAt p 4 4
def pktUnits (p : Pkt) : Nat := byteAt p 8
def pktFlag (p : Pkt) (i : Nat) : Bool := bitAt (byteAt p 1) i

/-- Offset of the first nonzero byte of the packet's parameters that the layout does not list (R5). -/
def reservedLoc (used : List (Nat × Nat)) (p : Pkt) : Option Nat :=
  (span 32 (63 + 64 * pktUnits p)).find? fun i =>
    byteAt p i != 0 && !(used.any fun u => u.1 ≤ i && i < u.1 + u.2)

/-- The offsets of the header fields that break R211, in the order of the packet's bytes. -/
def headerLocs (sp : OpSpec) (q : Nat) (p : Pkt) : List (Nat × Bool) :=
  [(1, byteAt p 1 &&& (255 - sp.flags) != 0),
   (2, q = 64 && pktJob p != 0 && !((sp.op = 0x08 && pktFlag p 0) || sp.op = 0x09 || sp.op = 0x33)),
   (8, pktUnits p < sp.minUnits p || pktUnits p > 7),
   (9, byteAt p 9 ≥ 3),
   (10, !allZero (sliceB p 10 6)),
   (16, fieldAt p 16 8 % 64 != 0),
   (24, fieldAt p 24 4 > 16777216),
   (28, fieldAt p 28 4 != 0)]

/-- R218: device states (READY or ACTIVE, DRAIN, FAULT, SERVICE) in which a packet of this opcode is accepted. -/
def deviceRow (op : Nat) : List DevState :=
  let all := [DevState.ready, .active, .drain, .fault, .service]
  if [0x00, 0x01, 0x03, 0x49, 0x60, 0x61, 0x71, 0x72].contains op then all
  else if [0x02, 0x08, 0x10, 0x19, 0x18, 0x20, 0x21, 0x28, 0x29, 0x2A, 0x30, 0x31, 0x50, 0x38, 0x59, 0x70].contains op then
    [.ready, .active, .service]
  else if op = 0x09 then all
  else if [0x11, 0x68, 0x22, 0x39, 0x42, 0x43, 0x33, 0x32, 0x48, 0x58].contains op then [.ready, .active, .drain, .service]
  else if [0x40, 0x41, 0x78].contains op then [.ready, .active]
  else if op = 0x7F then [.fault, .service]
  else []

/-- R218: job states in which it is accepted; none where the table gives "any" or "—". -/
def jobRow (op : Nat) : Option (List JobState) :=
  if [0x10, 0x19, 0x30, 0x31, 0x50, 0x40, 0x41, 0x58].contains op then some [.opened, .active]
  else if [0x11, 0x68].contains op then some [.opened]
  else if [0x18, 0x20, 0x21, 0x28, 0x29, 0x2A, 0x22, 0x39, 0x42, 0x43, 0x33, 0x38].contains op then
    some [.opened, .active, .saved]
  else if op = 0x32 then some [.active]
  else if op = 0x59 then some [.saved]
  else if op = 0x09 then some [.opened, .active, .saved, .lost]
  else none

/-- The RESULT of a STATE_CONFLICT entry (R219). -/
def conflictResult (s : State) (q : Nat) (p : Pkt) (slotA slotB fid : Nat) : List Byte :=
  [BitVec.ofNat 8 (devCode s.glb.state), BitVec.ofNat 8 (if q = 64 then 0xFF else jobCode (jobStateOf s (pktJob p))),
   BitVec.ofNat 8 slotA, BitVec.ofNat 8 slotB] ++ leBytes 2 fid

/-- States of slots A and B of the model that a model command names; 0xFF for other commands (R219). A model never staged has both
slots EMPTY. -/
def slotStates (s : State) (p : Pkt) : Nat × Nat :=
  if [0x20, 0x21, 0x22].contains (byteAt p 0) then
    match (Tbl.get? s.jobs (pktJob p)).bind fun b => Tbl.get? b.models (fieldAt p 32 2) with
    | some m => (slotCode m.a.state, slotCode m.b.state)
    | none => (slotCode .empty, slotCode .empty)
  else (0xFF, 0xFF)

def conflict (s : State) (q : Nat) (p : Pkt) : Option Ref :=
  some { st := .stateConflict, result := conflictResult s q p (slotStates s p).1 (slotStates s p).2 0 }

/-- Steps 2 to 7 of R212, in order. On the AQ a job state counts only for the commands that name a job. -/
def checkPacket (sp : OpSpec) (s : State) (q : Nat) (p : Pkt) : Option Ref :=
  firstRef
    [refuseIf (!(if q = 64 then sp.aq else sp.sq)) .badParam 0,
     ((headerLocs sp q p).find? (·.2)).bind (fun l => badParam l.1),
     (reservedLoc (sp.used p) p).bind badParam,
     refuseIf (q != 64 && pktJob p != ((Tbl.get? s.queues q).map (·.job)).getD 0) .badParam 2,
     refuseIf (s.cmds.any fun c => c.queue == q && c.seq == pktSeq p) .badParam 4,
     sp.params s q p,
     if !(deviceRow sp.op).contains s.glb.state then conflict s q p else none,
     match jobRow sp.op with
     | none => none
     | some js =>
       if q = 64 && !(sp.op = 0x09 || sp.op = 0x33) then none
       else if js.contains (jobStateOf s (pktJob p)) then none else conflict s q p,
     sp.state s q p,
     sp.resources s q p]

/-- Are packets read at all? Rings are read in READY, ACTIVE, DRAIN, SERVICE and FAULT (R215), not during Den entry (R319)
nor after an ACTIVATE (R381). -/
def ringsRead (s : State) : Bool :=
  (s.glb.state == .ready || s.glb.state == .active || s.glb.state == .drain || s.glb.state == .service
    || s.glb.state == .fault) && !s.glb.denEntry && !s.boot.activating

/-- A fresh accepted command. -/
def newCmd (q : Nat) (p : Pkt) : Cmd :=
  { queue := q, seq := pktSeq p, job := pktJob p, op := byteAt p 0, pkt := p, part := none, started := false, done := none,
    result := [], errLoc := noLoc, trunc := false, slotV := none, run := none, stages := [], stageAt := 0, between := false,
    staging := none,
    waits := [], req := none, energy := 0, hints := byteAt p 9 }

/-- The partition of a job. -/
def partOfJob (s : State) (j : Nat) : Option Nat := (Tbl.get? s.jobs j).bind (·.part)

/-- A refusal's reply bytes, cut to the reply buffer; where the host rejects that buffer, nothing is written (R371), and the refusal stands
(log 23). -/
def refuseReply (p : Pkt) (r : Ref) (s : State) : State :=
  let b := r.reply.take (fieldAt p 24 4)
  if fieldAt p 16 8 = 0 || r.reply = [] || !hostOk s (fieldAt p 16 8) b.length then s else writeHost (fieldAt p 16 8) b s

/-- RESULT of an IMAGE_BIND that fails at no item of its image: no section, no entry, no micro-op (R224). -/
def bindNone : List Byte := List.replicate 8 0xFF

/-- RESULT of a refusal that brings none of its own: a RUN_CHAIN refused for no stage's fault says 0xFF (R227), an IMAGE_BIND names no
item (R224). -/
def refuseResult (op : Nat) (r : Ref) : List Byte :=
  if r.result != [] then r.result else if op = 0x31 then [0xFF] else if op = 0x19 then bindNone else []

/-- A refusal's completion entry, in the free entry acceptance needs (R208); its reply bytes go to the reply buffer. BAD_PARAM of
a refused packet is a refusal and no failure (R214, R239). -/
def refuse (q : Nat) (p : Pkt) (r : Ref) (s : State) : State :=
  let addr := fieldAt p 16 8
  let len := fieldAt p 24 4
  let trunc := r.reply.length > (if addr = 0 then 0 else len)
  let s1 := refuseReply p r s
  postEntry q (pktSeq p) r.st (pktJob p) 0 (8 * ofBool trunc) (if r.st = .badParam then r.loc else 0)
    (refuseResult (byteAt p 0) r) (isFailure r.st && r.st != .badParam) s1

/-- A command enters its partition's queue, in acceptance order (R244). -/
def enqueue (k : Nat × Nat) (f : Nat) (s : State) : State :=
  onPart f (fun p => { p with queue := p.queue ++ [k] }) (onCmd k (fun c => { c with part := some f }) s)

/-- A command stands among the accepted ones, one completion entry is reserved (R208), and a partition command enters its queue
(R244). -/
def enter (sp : OpSpec) (q : Nat) (p : Pkt) (s : State) : State :=
  let c := newCmd q p
  let s1 := onQueue q (fun k => { k with reserved := k.reserved + 1 }) { s with cmds := s.cmds ++ [c] }
  if sp.queued then (match partOfJob s (pktJob p) with | some f => enqueue c.key f s1 | none => s1) else s1

/-- Acceptance: the command enters, then the opcode's own effect. -/
def accept (sp : OpSpec) (q : Nat) (p : Pkt) (pick : Nat) (s : State) : State :=
  settle (sp.effect (newCmd q p) pick (enter sp q p s))

/-- May a packet for this opcode be read from the queue now: the ring exists, rings are read, a completion entry is free
(R208), and its partition's queue is not full (R244)? -/
def mayRead (sp : OpSpec) (q : Nat) (s : State) (p : Pkt) : Bool :=
  ringsRead s &&
  (match Tbl.get? s.queues q with
   | none => false
   | some k => cqFree k ≥ 1 && (q != 64 || s.qdb.aqEn)) &&
  !(sp.queued && (match partOfJob s (pktJob p) with
    | some f => ((Tbl.get? s.parts f).map (fun t => decide (t.queue.length ≥ 1024))).getD false
    | none => false))

/-- A packet checked and refused or accepted (R212). -/
def judge (sp : OpSpec) (q : Nat) (p : Pkt) (pick : Nat) (s : State) : State :=
  match checkPacket sp s q p with
  | some r => refuse q p r s
  | none => accept sp q p pick s

/-- The packet as the row of its opcode supplies it: byte 0 is the row's opcode, and its length is that of its header and
units. -/
def rowPacket (op : Nat) (p : Pkt) : Pkt :=
  let b := sliceB p 0 64
  BitVec.ofNat 8 op :: (sliceB p 0 (64 + 64 * min (byteAt b 8) 7)).drop 1

/-- A command of the table: its packet, read from queue `q`. -/
def hostCommand (sp : OpSpec) (q : Nat) (p : Pkt) (pick : Nat) (s : State) : State :=
  let p1 := rowPacket sp.op p
  if mayRead sp q s p1 then judge sp q p1 pick s else s

/-- FLAGS of a final entry: TRUNC, SLOTV and SLOT (R209, R210). -/
def finalFlags (c : Cmd) : Nat :=
  8 * ofBool c.trunc + (match c.slotV with | some b => 4 + 2 * ofBool b | none => 0)

/-- The final entry of a decided command, and the command's end; its waiting interim entries are discarded (R208). -/
def finish (k : Nat × Nat) (s : State) : State :=
  match cmdAt s k with
  | none => s
  | some c =>
    match c.done with
    | none => s
    | some st =>
      let s1 := onQueue k.1 (fun q => { q with reserved := q.reserved - 1 }) s
      let s2 := postEntry k.1 k.2 st c.job 0 (finalFlags c) (if st = .badParam then c.errLoc else 0) c.result (isFailure st) s1
      { s2 with cmds := s2.cmds.filter (fun x => !(x.queue == k.1 && x.seq == k.2)),
                interims := s2.interims.filter (fun i => !(i.queue == k.1 && i.seq == k.2)) }

end Sys2Proof.Machine
end

