-- ==== Sys2Proof/Machine/Power.lean ====
section
/-! DEFINITION. The power controller: caps, ramp limit and load fill, hints, floor state, droop, heat and the energy counters
(R301-R318, R353-R355, R357). -/
namespace Sys2Proof.Machine

/-! ### Floor state and VIN64 (R301, R314) -/

/-- The detail of PWR_ALERT (R314). -/
def pwrAlertDetail (exit cause power vin us : Nat) : List Byte :=
  [BitVec.ofNat 8 exit, BitVec.ofNat 8 cause] ++ leBytes 2 power ++ leBytes 4 vin ++ leBytes 4 us ++ leBytes 4 0

/-- A cause of the floor state arises: FCLK to 100 MHz, all fill stopped, input to at most 450 W; PWR_ALERT at entry (R314). -/
def enterFloor (cause power : Nat) (s : State) : State :=
  let c := s.pwr.causes ||| BitVec.ofNat 4 (2 ^ cause)
  let p := { s.pwr with causes := c, clearSince := none, vinLow := s.pwr.vinLow || cause == 1, vinHigh := s.pwr.vinHigh || cause == 2 }
  if s.pwr.floor then { s with pwr := p }
  else
    let s1 := stopFill { s with clk := { s.clk with fclk := 100 }, pwr := { p with floor := true, floorSince := s.clk.rackTime } }
    postEvent 0x0102 0x80 0 (pwrAlertDetail 0 cause power s.pins.vin 0) s1

/-- A cause of the floor state clears (R314). -/
def clearCause (cause : Nat) (s : State) : State :=
  let bit := BitVec.ofNat 4 (2 ^ cause)
  if s.pwr.causes &&& bit = 0 then s
  else
    let c := s.pwr.causes &&& ~~~bit
    { s with pwr := { s.pwr with causes := c, lastCause := cause,
                                 clearSince := if c = 0 then some s.clk.rackTime else none } }

/-- Does the part have power and its always-on domains (R387, R394)? -/
def powered (s : State) : Bool := s.pins.pwrGood && s.glb.state != .off

/-- VIN64_OUT_OF_RANGE (R301): VIN64 read outside, or back inside, 56-68 V. The floor state that it called for goes on until VIN64 has
stayed at 57 V or above, or at 67 V or below. While the part is off, after VIN64 has come up, the reading alone changes. -/
def execVin64OutOfRange (vin power : Nat) (s : State) : Out :=
  if vin > 7200 then .fault .absoluteMaximum
  else commit (
    if vin < 5200 then s
    else if !powered s then (if s.pins.vin ≥ 5200 then { s with pins := { s.pins with vin := vin } } else s)
    else
      let s1 := { s with pins := { s.pins with vin := vin } }
      let s2 := if vin ≥ 5700 then clearCause 1 s1 else s1
      let s3 := if vin ≤ 6700 then clearCause 2 s2 else s2
      let again := fun (x : Bool) => s3.pwr.floor && x
      if vin < 5600 || (vin < 5700 && again s3.pwr.vinLow) then enterFloor 1 power s3
      else if vin > 6800 || (vin > 6700 && again s3.pwr.vinHigh) then enterFloor 2 power s3
      else s3)

/-- PWR_ALERT_N (R314): low for 100 ns or more calls for the floor state; high clears that cause. While the part is off the level alone
changes: the next boot finds it (R396). -/
def execPwrAlertN (low : Bool) (ns power : Nat) (s : State) : Out :=
  commit (
    if !powered s then { s with pins := { s.pins with alert := low && decide (ns ≥ 100) } }
    else if low then (if ns ≥ 100 then enterFloor 0 power { s with pins := { s.pins with alert := true } } else s)
    else clearCause 0 { s with pins := { s.pins with alert := false } })

/-- FLOOR_EXIT (R314): every cause clear for 1 ms. FCLK then rises by R308 and R314 as time passes. -/
def execFloorExit (s : State) : Out :=
  commit (
    match s.pwr.clearSince with
    | some t =>
      if s.pwr.floor && s.pwr.causes = 0 && passed s t (msUnits 1) then
        let s1 := { s with pwr := { s.pwr with floor := false, clearSince := none, vinLow := false, vinHigh := false,
                                                 riseAt := s.clk.rackTime } }
        postEvent 0x0102 0x80 0
          (pwrAlertDetail 1 s.pwr.lastCause 0 s.pins.vin (elapsed s.pwr.floorSince s.clk.rackTime / 400)) s1
      else s
    | none => s)

/-! ### Caps (R307-R309) -/

/-- A value clamped to a range (R307). -/
def clampN (lo hi v : Nat) : Nat := max lo (min hi v)

/-- Bytes of a 64-bit register that a transfer writes. -/
def mergeBytes (old v : W64) (be : BitVec 8) : W64 :=
  BitVec.ofNat 64 (leNat ((List.range 8).map fun i => if be.getLsbD i then byteAt (leBytes 8 v.toNat) i else byteAt (leBytes 8 old.toNat) i))

/-- MG_CAP, MG_CAP_DEADLINE and MG_CAP_AT in one transfer (R307, R364): a write of CAP commits the three. Of CAP_AT the transfer
writes the bytes named. -/
def execMgCap (cap : Option W16) (deadline : Option W32) (capAt : W64 × BitVec 8) (s : State) : Out :=
  commit (
    if !powered s then s
    else
      let d := match deadline with | some v => clampN 0 1000000 (v.toNat % 2 ^ 20) | none => s.pwr.deadlineReg
      let a := mergeBytes s.pwr.atReg capAt.1 capAt.2
      match cap with
      | none => { s with pwr := { s.pwr with deadlineReg := d, atReg := a } }
      | some v =>
        let c := clampN 450 1950 v.toNat
        { s with pwr := { s.pwr with capReg := c, deadlineReg := d, atReg := a,
                                     waiting := some { cap := c, deadline := d, capAt := a } } })

/-- The projected time to meet a cap from a power, µs (R309). -/
def projected (power cap slew : Nat) : Nat := ceilDiv ((power - cap) * 1000) (max 1 slew)

def capLagDetail (f : Follow) (cause : Nat) : List Byte :=
  leBytes 2 f.cap ++ leBytes 2 f.p0 ++ leBytes 4 f.proj ++ leBytes 4 f.deadline ++ [BitVec.ofNat 8 cause, 0, 0, 0]

/-- A cap-follow starts at its effective moment: fill falls at CAP_SLEW, and CAP_LAG with cause 0 is posted when the projection exceeds
the deadline (R308, R309). -/
def startFollow (cap power deadline : Nat) (s : State) : State :=
  let late := deadline != 0 && (power - cap) * 1000 > deadline * s.pwr.slew
  let f : Follow := { cap, t0 := s.clk.rackTime, p0 := power, deadline, proj := projected power cap s.pwr.slew, lag0 := late, lag1 := false }
  let s1 := withdrawFill { s with pwr := { s.pwr with follow := some f } }
  if late then postEvent 0x0101 0x80 0 (capLagDetail f 0) { s1 with pwr := { s1.pwr with capLag := true } } else s1

/-- The highest step of FCLK, not above the present one, at which a power fits under a cap; 100 MHz when none does (R305, R308). -/
def fitStep (power : Nat → Nat) (cap fclk : Nat) : Nat :=
  (((List.range 25).map fun i => 700 - 25 * i).find? fun f => f ≤ fclk && power f ≤ cap).getD 100

/-- FCLK set to a step. -/
def setFclk (f : Nat) (s : State) : State :=
  if f = s.clk.fclk then s else { s with clk := { s.clk with fclk := f }, pwr := { s.pwr with riseAt := s.clk.rackTime } }

/-- FCLK lowered to the highest step at which the power that the rises under way come to fits under the cap: a cap is the ceiling of every
rise (R306, R308). In the floor state FCLK is at its lowest. -/
def fitPeak (s : State) : State := if s.pwr.floor then s else setFclk (fitStep (peakAt s) (capNow s) s.clk.fclk) s

/-- CAP_EFFECTIVE (R307, R308): CAP_AT is 0, reached or passed. A cap below the power starts a cap-follow; a cap at or above it, and one in
the floor state, is a ceiling only (R314). -/
def execCapEffective (power : Nat) (s : State) : Out :=
  commit (
    match s.pwr.waiting with
    | none => s
    | some w =>
      if w.capAt != 0 && s.clk.rally < w.capAt then s
      else
        let s1 := measure power { s with pwr := { s.pwr with waiting := none, cap := w.cap, follow := none, capLag := false } }
        if power ≤ capNow s1 || s1.pwr.floor then reshape (fitPeak s1) else startFollow (capNow s1) power w.deadline s1)

/-- CAP_LAG (R309): above the cap at the deadline, cause 1. -/
def execCapLag (power : Nat) (s : State) : Out :=
  commit (
    match s.pwr.follow with
    | none => s
    | some f =>
      if f.deadline != 0 && !f.lag1 && passed s f.t0 (usUnits f.deadline) && power > f.cap then
        let s1 := measure power s
        postEvent 0x0101 0x80 0 (capLagDetail f 1)
          { s1 with pwr := { s1.pwr with capLag := true, follow := some { f with lag1 := true } } }
      else s)

/-- CAP_MET (R308): the average is at or below the cap; FCLK is held at the highest step that fits, fill falls at the ramp limit again,
and the CAP_LAG mirror clears (R309). The controller takes no other step than that one: a row that names one does not happen (log 5). -/
def execCapMet (power fclk : Nat) (s : State) : Out :=
  commit (
    match s.pwr.follow with
    | none => s
    | some f =>
      if power > f.cap then s
      else
        let s1 := measure power { s with pwr := { s.pwr with follow := none, capLag := false, riseAt := s.clk.rackTime } }
        if fclk = fitStep (powerAt s1) f.cap s.clk.fclk then reshape (setFclk fclk s1) else s)

/-- MG_CAP_SLEW (R307): in force even in the middle of a fall. -/
def execMgCapSlew (v : W16) (s : State) : Out :=
  commit (if powered s then reshape { s with pwr := { s.pwr with slew := clampN 100 5000 v.toNat } } else s)

/-- MG_RAMP (R307): in force even in the middle of a rise or fall. -/
def execMgRamp (v : W16) (s : State) : Out :=
  commit (if powered s then reshape { s with pwr := { s.pwr with ramp := clampN 10 2000 v.toNat } } else s)

/-! ### Fill episodes and hints (R312, R313) -/

/-- RAMP_FILL (R312): all load fill is zero again; posted when the fill at the episode's start exceeded 100 W, at most 10
times per second of rack time. -/
def execRampFill (power energy : Nat) (s : State) : Out :=
  commit (
    match s.pwr.episode with
    | none => s
    | some e =>
      if anyFill s then s
      else
        let recent := s.pwr.rampFills.filter fun t => elapsed t s.clk.rackTime < 400000000
        let s0 := measure power s
        let s1 := { s0 with pwr := { s0.pwr with episode := none, rampFills := recent } }
        if e.fill > 100 && recent.length < 10 then
          postEvent 0x0104 0x80 0
            (leBytes 2 e.power ++ leBytes 2 power ++ leBytes 4 (elapsed e.since s.clk.rackTime / 400) ++ leBytes 8 energy)
            { s1 with pwr := { s1.pwr with rampFills := recent ++ [s.clk.rackTime] } }
        else s1)

/-- Rack-time units in which `w` W pass at RAMP. -/
def rampUnits (s : State) (w : Nat) : Nat := rateUnits w s.pwr.ramp

/-- A hint raises a partition's fill toward `want` W, as far as the cap leaves room; not while its command runs (R306, R313). -/
def hintRise (part want : Nat) (s : State) : State :=
  match Tbl.get? s.parts part with
  | none => s
  | some p =>
    let now := fillNow s p
    if demandRunning s p || p.handed.isSome || !fillAllowed s || want ≤ now then s
    else moveFill part (now + min (want - now) (fillRoom s p)) true s

/-- The power that a paced command is held to moves on from where it stands, within the ramp limit that all rises and falls share
(R306, R313). -/
def setPace (part target : Nat) (s : State) : State :=
  match Tbl.get? s.parts part with
  | none => s
  | some p => reshape (onPart part (fun x => { x with pace := some (newFill s (runPower s p) target false) }) s)

/-- POWER_HINT (R313, R233). -/
def powerHintSpec : OpSpec :=
  { op := 0x50, aq := false, sq := true, flags := 0, minUnits := fun _ => 0, queued := false,
    used := fun _ => [(32, 1), (36, 4), (40, 2)]
    params := fun _ _ p =>
      firstRef [refuseIf (byteAt p 32 > 1) .badParam 32, refuseIf (fieldAt p 36 4 > 1000000) .badParam 36,
                refuseIf (fieldAt p 40 2 = 0 || fieldAt p 40 2 > 1950) .badParam 40]
    state := fun _ _ _ => none
    resources := fun s _ p => refuseIf (partOfJob s (pktJob p)).isNone .noPartition
    effect := fun c _ s =>
      match partOfJob s c.job with
      | none => s
      | some f =>
        let t := usUnits (fieldAt c.pkt 36 4)
        let w := fieldAt c.pkt 40 2
        let h : Hint := { heavy := byteAt c.pkt 32 = 0,
                          at_ := s.clk.rackTime + BitVec.ofNat 64 (t - rampUnits s w),
                          due := s.clk.rackTime + BitVec.ofNat 64 t, power := w, active := false }
        decide_ c.key .ok [] (onPart f (fun p => { p with hints := p.hints ++ [h] }) s) }

/-- Rack time `t` has been reached. -/
def reached (s : State) (t : W64) : Bool := elapsed t s.clk.rackTime < 2 ^ 63

/-- HINT_LEAD_TIME (R313): a heavy hint starts the fill rising toward min(W, demand); a light one starts reducing array issue by W. The
oldest due hint of the partition acts. -/
def execHintLeadTime (part : Nat) (s : State) : Out :=
  commit (
    match Tbl.get? s.parts part with
    | none => s
    | some p =>
      match p.hints.find? fun h => !h.active && reached s h.at_ with
      | none => s
      | some h =>
        let s1 := onPart part (fun p => { p with hints := p.hints.erase h }) s
        if h.heavy then hintRise part (min h.power (demandOf s p)) s1
        else if demandRunning s p then
          setPace part (runPower s p - h.power) (onPart part (fun p => { p with hints := p.hints ++ [{ h with active := true }] }) s1)
        else s1)

/-- HINT_FILL_TIMEOUT (R313): hinted fill that no command claimed within 10 ms of reaching its target falls. -/
def execHintFillTimeout (part : Nat) (s : State) : Out :=
  commit (
    match Tbl.get? s.parts part with
    | none => s
    | some p =>
      if p.fill.hinted && p.fill.target != 0 && passed s p.fill.since (p.fill.dur + msUnits 10) then moveFill part 0 false s
      else s)

/-- HINT_LIGHT_RECOVERY (R313): 1 ms after T the running command's issue rises again at the ramp limit. -/
def execHintLightRecovery (part : Nat) (s : State) : Out :=
  commit (
    match Tbl.get? s.parts part with
    | none => s
    | some p =>
      match p.hints.find? fun h => !h.heavy && h.active && reached s (h.due + BitVec.ofNat 64 (msUnits 1)) with
      | none => s
      | some h =>
        let s1 := onPart part (fun p => { p with hints := p.hints.erase h }) s
        if p.pace.isSome && demandRunning s p then setPace part (demandOf s p) s1 else s1)

/-! ### Droop (R305) -/

/-- DROOP_DETECT: FCLK periods are stretched from now on. -/
def execDroopDetect (s : State) : Out :=
  commit (if powered s then { s with clk := { s.clk with stretched := true, recovered := 0 } } else s)

/-- DROOP_RECOVER: the rail has recovered for 16 FCLK. -/
def execDroopRecover (s : State) : Out :=
  commit (if s.clk.stretched && s.clk.recovered ≥ 16 then { s with clk := { s.clk with stretched := false, recovered := 0 } }
    else s)

/-! ### Heat (R315, R316) -/

/-- Threshold of a sensor code in units of 0.125 °C: HBM 5 °C lower, the conversion layer 5 °C higher (R315). -/
def sensorThreshold (code t : Nat) : Int :=
  8 * ((t : Int) + (if 0x20 ≤ code && code ≤ 0x27 then -5 else if code = 0x2C then 5 else 0))

/-- A position's reading at or above a threshold. -/
def hotAt (code t : Nat) (temp : W16) : Bool := decide (sensorThreshold code t ≤ toSigned 16 temp.toNat)

/-- A reading taken at a position that has a good sensor. -/
def setReading (code : Nat) (temp : W16) (s : State) : State :=
  { s with thm := { s.thm with sensors := modAt s.thm.sensors code fun x => if x.failA && x.failB then x else { x with temp } } }

/-- Some position is at or above its threshold. -/
def anyHot (s : State) (t : Nat) : Bool := (List.range 45).any fun i => hotAt i t (positionTemp s i)

def thermDetail (action code : Nat) (temp : W16) (fclk us : Nat) : List Byte :=
  [BitVec.ofNat 8 action, BitVec.ofNat 8 code] ++ leBytes 2 temp.toNat ++ leBytes 2 fclk ++ leBytes 4 us
    ++ List.replicate 6 0

/-- THERM_THROTTLE (R315): at or above THROTTLE the throttle engages; fill falls at CAP_SLEW. A position whose sensors have both failed is
as hot as R330 takes it to be, here and in the commands below. -/
def execThermThrottle (code : Nat) (temp : W16) (s : State) : Out :=
  commit (
    if !powered s || code ≥ 45 then s
    else
      let s1 := setReading code temp s
      let temp := positionTemp s1 code
      if hotAt code s.thm.throttle temp && !s.pwr.throttle then
        postEvent 0x0103 0x81 0 (thermDetail 0 code temp s.clk.fclk 0)
          (withdrawFill
            { s1 with pwr := { s1.pwr with throttle := true, throttleRise := false, throttleSince := s.clk.rackTime,
                                           throttleStep := s.clk.rackTime } })
      else s1)

/-- THROTTLE_STEP (R315): once the fill is withdrawn, FCLK falls by 50 MHz every 100 µs while the hottest reading stays at the threshold,
but not in the floor state or a cap-follow, which prevail (R306). -/
def execThrottleStep (s : State) : Out :=
  commit (
    if s.pwr.throttle && !s.pwr.floor && s.pwr.follow.isNone && fillTotal s = 0 && anyHot s s.thm.throttle && passed s s.pwr.throttleStep (usUnits 100) then
      { s with clk := { s.clk with fclk := max 100 (s.clk.fclk - 50) },
               pwr := { s.pwr with throttleStep := s.clk.rackTime } }
    else s)

/-- THROTTLE_RELEASE (R315): every reading at or below THROTTLE − 3 °C; it also clears the floor state's temperature cause. -/
def execThrottleRelease (code : Nat) (temp : W16) (s : State) : Out :=
  commit (
    if !powered s || code ≥ 45 then s
    else
      let s1 := setReading code temp s
      let temp := positionTemp s1 code
      let cool := (List.range 45).all fun i =>
        decide (toSigned 16 (positionTemp s1 i).toNat ≤ sensorThreshold i (s.thm.throttle - 3))
      if !cool then s1
      else
        let s2 := clearCause 3 s1
        if s.pwr.throttle then
          postEvent 0x0103 0x81 0
            (thermDetail 1 code temp s.clk.fclk (elapsed s.pwr.throttleSince s.clk.rackTime / 400))
            { s2 with pwr := { s2.pwr with throttle := false, throttleRise := true, riseAt := s.clk.rackTime } }
        else s2)

/-- THERMAL_FLOOR (R315): at or above FLOOR, the floor state with cause 3. -/
def execThermalFloor (code : Nat) (temp : W16) (power : Nat) (s : State) : Out :=
  commit (
    if !powered s || code ≥ 45 then s
    else
      let s1 := setReading code temp s
      let temp := positionTemp s1 code
      if hotAt code s.thm.floor temp && !s.pwr.causes.getLsbD 3 then
        postEvent 0x0103 0x81 0 (thermDetail 2 code temp 100 0) (enterFloor 3 power s1)
      else s1)

/-! ### Energy (R317, R318, R357) -/

/-- Offset of a queue's counter in NRG: AQ 0x18, SQn 0x200 + 8 n. -/
def nrgQueue (q : Nat) : Nat := if q = 64 then 0x18 else 0x200 + 8 * q

def bumpW (t : Tbl W64) (k n : Nat) : Tbl W64 := Tbl.set t k (Tbl.getD t k 0 + BitVec.ofNat 64 n)

/-- The energy of a partition's column-group domains, which its executing command is charged: a RUN, chain or serving step, or a CTX_SAVE
(R318). -/
def partCharge (cgs : List Nat) (p : Part) : List ((Nat × Nat) × Nat) :=
  match p.running.or (p.saving.map fun v => (v.queue, v.seq)) with
  | some k => [(k, ((List.range p.count).map fun i => cgs.getD (p.first + i) 0).sum)]
  | none => []

/-- `n` µJ shared in proportion to a weight. -/
def shareOut {α : Type} (n : Nat) (weight : α → Nat) (l : List α) : List (α × Nat) :=
  l.map fun x => (x, n * weight x / max 1 (l.map weight).sum)

/-- The queue of a draft job that its draft steps are charged to: the lowest it has (R278; DESIGN CHOICE: log 14). -/
def draftQueue (s : State) (job : Nat) : Option Nat := (s.queues.find? fun e => e.1 != 64 && e.2.job == job).map (·.1)

/-- What a serving step is charged, on the queues of its turns in proportion to their tokens, and a draft step on its job's (R261,
R278). Any other command keeps its own charge. -/
def stepCharge (s : State) (x : (Nat × Nat) × Nat) : List ((Nat × Nat) × Nat) :=
  if x.1.1 != fwQueue then [x]
  else
    match Tbl.get? s.srv.steps x.1.2 with
    | none => []
    | some w =>
      if w.draft then (draftQueue s w.job).toList.map fun q => ((q, 0), x.2)
      else (shareOut x.2 StepSeq.tokens w.seqs).map fun y => ((y.1.queue, y.1.seq), y.2)

/-- What each command is charged at an update (R318): its partition's energy while it executes, and shares of the energy of memory and
engines and of links by the bytes it moved. -/
def energyCharges (s : State) (cgs : List Nat) (mem link : Nat) : List ((Nat × Nat) × Nat) :=
  ((Tbl.vals s.parts).flatMap (partCharge cgs)
    ++ (shareOut mem (fun m => m.2.1) s.nrg.moved).map (fun x => (x.1.1, x.2))
    ++ (shareOut link (fun m => m.2.2) s.nrg.moved).map (fun x => (x.1.1, x.2))).flatMap (stepCharge s)

/-- µJ charged to a queue, and to a command. -/
def queueCharge (l : List ((Nat × Nat) × Nat)) (q : Nat) : Nat := ((l.filter fun x => x.1.1 == q).map (·.2)).sum
def cmdCharge (l : List ((Nat × Nat) × Nat)) (k : Nat × Nat) : Nat := ((l.filter fun x => x.1 == k).map (·.2)).sum

/-- ENERGY_UPDATE (R317, R318): every 10 µs of rack time. TOTAL = FILL + IDLE + the queue counters at every update. NRG_SNAP copies
every live counter (R357). What an update measured is charged to the commands that execute at it (DESIGN CHOICE: log 14). -/
def execEnergyUpdate (total fill : Nat) (cgs units : List Nat) (s : State) : Out :=
  commit (
    if !powered s || !passed s (Tbl.getD s.nrg.live 0x20 0) (usUnits 10) then s
    else
      let l := energyCharges s cgs (units.getD 0 0) (units.getD 1 0)
      let qs := (List.range 65).map fun q => (q, queueCharge l q)
      let sumQ := (qs.map (·.2)).sum
      let l1 := bumpW (bumpW s.nrg.live 0 total) 8 fill
      let l2 := Tbl.set l1 0x10 (Tbl.getD l1 0x10 0 + BitVec.ofNat 64 total - BitVec.ofNat 64 fill - BitVec.ofNat 64 sumQ)
      let l3 := qs.foldl (fun t x => bumpW t (nrgQueue x.1) x.2) l2
      let l4 := ((cgs.take 32).zipIdx).foldl (fun t x => bumpW t (0x100 + 8 * x.2) x.1) l3
      let l5 := Tbl.set l4 0x20 s.clk.rackTime
      { s with nrg := { live := l5, copies := if s.nrg.snap then l5 else s.nrg.copies, snap := false, moved := [] },
               cmds := s.cmds.map fun c => { c with energy := c.energy + cmdCharge l c.key } })

end Sys2Proof.Machine
end

