-- ==== Sys2Proof/Machine/Spares.lean ====
section
/-! DEFINITION. Scrub, retirement, spares, unit failures and the correctable summary (R323-R332). -/
namespace Sys2Proof.Machine

/-- The detail of SPARE_ENGAGED, SPARES_LOW and SPARES_EXHAUSTED (R331). `inst` counts instances as sparesLeft does; a bank's
is its tile. -/
def spareDetail (s : State) (code inst reason addr : Nat) : List Byte :=
  let (i, r) := if code = 5 then (inst % 64, inst / 64) else (inst, 0)
  [BitVec.ofNat 8 code, BitVec.ofNat 8 i, BitVec.ofNat 8 r, BitVec.ofNat 8 reason]
    ++ leBytes 2 (sparesLeft s code inst) ++ leBytes 8 (if [5, 9, 10].contains code then addr else 0) ++ [0, 0]

/-- What a low or exhausted condition holds of: a half of the Fox engines, an instance, or the part (R329). -/
def spareKey (low : Bool) (code inst : Nat) : Nat :=
  if [1, 3, 6, 10].contains code then 0 else if code = 2 && low then inst / 8 else inst

/-- SPARES_LOW and SPARES_EXHAUSTED when their condition first holds at the instance (R331). -/
def checkSpares (atBoot : Bool) (code inst reason addr : Nat) (s : State) : State :=
  let s1 :=
    if lowHolds s code inst && !s.ras.low.contains (code, spareKey true code inst, 0) then
      postEvent 0x0204 0x00 0 (spareDetail s code inst reason addr)
        { s with ras := { s.ras with low := s.ras.low ++ [(code, spareKey true code inst, 0)] } }
    else s
  if exhaustedHolds s1 atBoot code inst && !s1.ras.exhausted.contains (code, spareKey false code inst, 0) then
    postEvent 0x0205 0x00 0 (spareDetail s1 code inst reason addr)
      { s1 with ras := { s1.ras with exhausted := s1.ras.exhausted ++ [(code, spareKey false code inst, 0)] } }
  else s1

/-- A spare engages: SPARE_ENGAGED, then the conditions (R329, R331). -/
def engageSpare (code inst reason addr : Nat) (s : State) : State :=
  checkSpares false code inst reason addr (postEvent 0x0203 0x00 0 (spareDetail s code inst reason addr) s)

/-! ### The map in force and a binding (R35, R37, R326) -/

/-- The physical column or row of a die's logical one: the retired one is left out, the rest keep their order (R35). -/
def physIdx (retired i : Nat) : Nat := if i < retired then i else i + 1

/-- The die and the die-local physical column and row of a logical tile, by the map in force in its column group (R7, R35). -/
def physTile (s : State) (c r : Nat) : Nat × Nat × Nat :=
  let m := s.ras.force.getD (groupOf c r) (16, 12)
  (dieOfGroup (groupOf c r), physIdx m.1 (c % 16), physIdx m.2 (r % 12))

/-- A binding of a partition puts a die's map in force in the partition's groups on it (R37). A map other than the one in force
there engages the spare, and the tiles' config slots hold nothing resident; reason 3 of R331 is the model's (log 19). -/
def applyMap (p : Part) (s : State) (die : Nat) : State :=
  let gs := ((List.range p.count).map (p.first + ·)).filter fun g => dieOfGroup g == die
  match s.ras.maps[die]? with
  | none => s
  | some m =>
    if gs = [] then s
    else
      let now := (m.colReg, m.rowReg)
      let s1 := { s with ras := { s.ras with
          maps := modAt s.ras.maps die fun m => { m with col := m.colReg, row := m.rowReg, applied := true },
          force := s.ras.force.zipIdx.map fun f => if gs.contains f.2 then now else f.1 } }
      if gs.all fun g => s.ras.force.getD g (16, 12) == now then s1 else engageSpare 0 die 3 0 (clearTags p s1)

/-- The words in error of a location that has been retired: what a reader has met is gone with it, a word that only the scrub has found
stays to be met by its next reader (R325, R326). -/
def retireWords (k : MemKind) (u : Nat) (s : State) : State :=
  let here := fun (e : ErrWord) => heldIn e.kind == k && retireUnit k e.addr == u
  { s with mctl := { s.mctl with
      errs := s.mctl.errs.filterMap fun e =>
        if !here e then some e else if e.syms ≥ 2 && !e.met then some { e with retired := true } else none
      hits := s.mctl.hits.filter fun h => !(heldIn h.1 == k && retireUnit k h.2.1 == u) } }

/-- The uncorrectable words of a location. -/
def badWords (k : MemKind) (u : Nat) (s : State) : List ErrWord :=
  s.mctl.errs.filter fun e => heldIn e.kind == k && retireUnit k e.addr == u && e.syms ≥ 2

/-- A retired bank row is taken out of use: its correctable contents go to a redundant row, and a word that is uncorrectable is
free there (R326, log 19). -/
def applyRow (s : State) (row reason : Nat) : State :=
  let s1 := (badWords .bank row s).foldl (fun x e =>
    { x with fresh := x.fresh + 1, mem := Mem.write x.mem (e.addr / 32 * 32) (freeBytes x.fresh 32) }) s
  let s2 := retireWords .bank row s1
  engageSpare 5 (row / 0x1000000) reason row
    { s2 with mctl := { s2.mctl with rows := s2.mctl.rows.map fun r => if r.1 == row then (r.1, r.2.1, true) else r } }

/-- A partition is bound: at IMAGE_BIND and at CTX_RESTORE, the written maps and the retired rows of its tiles come into force
(R37, R326). A row of a bank without a redundant row left stays in use. -/
def bindSpares (p : Part) (s : State) : State :=
  let mine := s.mctl.rows.filter fun r => !r.2.2 && (partNos p).contains (r.1 / 0x1000000)
  let s1 := mine.foldl (fun a r => if sparesLeft a 5 (r.1 / 0x1000000) = 0 then a else applyRow a r.1 r.2.1) s
  (List.range 8).foldl (applyMap p) s1

/-- The command executing on a partition, a CTX_SAVE included: its job. -/
def jobRunning (s : State) (part : Option Nat) : Nat :=
  match ((part.bind (Tbl.get? s.parts)).bind fun p => p.running.or (p.saving.map fun v => (v.queue, v.seq))).bind (queueCmd s) with
  | some c => c.job
  | none => 0

/-- First group of the partition that holds a tile. -/
def partAt (s : State) (c r : Nat) : Option Nat := (partOfGroup s (groupOf c r)).map (·.first)

/-- First group of the partition whose tile holds a bank word. -/
def bankPart (s : State) (e : ErrWord) : Option Nat :=
  if e.kind = .bank then partAt s (e.addr / 0x1000000 % 64) (e.addr / 0x1000000 / 64) else none

/-- An uncorrectable word that the scrub finds (R325): reported, and its location due for retirement. In the firmware area the structure
it belongs to is rebuilt where a copy of it exists, and else a job fault of cause 3; which one it is, is free (R322, log 16). -/
def scrubFinds (k : MemKind) (addr : Nat) (e : ErrWord) (s : State) : State :=
  let known := { s with mctl := { s.mctl with errs := s.mctl.errs.map fun x => if x == e then
    { x with reported := true, met := x.met || k == .firmwareArea } else x } }
  let due := fun (x : State) => if e.injected then x else markDue k addr 2 x
  if k != .firmwareArea then due (postUe [e] true 3 (bankPart s e) 0 known)
  else if Config.fwAreaCopy e.addr then
    due (postUe [e] true 4 none 0 { s with mctl := { s.mctl with errs := s.mctl.errs.erase e } })
  else due (ueFault [e] 3 none none 0 known)

/-- PATROL_SCRUB (R325): a single-symbol error is corrected in place; an uncorrectable word is reported and retired, and
fails no command. With the checking of a memory off it finds nothing there (R360; DEDUCED: log 32). -/
def execPatrolScrub (k : MemKind) (addr : Nat) (s : State) : Out :=
  commit (
    if inTileMem k || s.glb.state == .off || checkOff s k then s
    else
      match (errsIn s k addr 1).head? with
      | none => s
      | some e =>
        if e.syms < 2 then
          let s1 := noteHit e (countCe k s)
          { s1 with mctl := { s1.mctl with errs := s1.mctl.errs.erase e } }
        else if e.reported then s
        else scrubFinds k addr e s)

/-- The copy of the remap entries in the SPI flash (R326, R376): their number, then 16 bytes each (DESIGN CHOICE: log 19). -/
def remapBase : Nat := 0x3100000

def remapBytes (r : MemKind × Nat × Nat) : List Byte :=
  [BitVec.ofNat 8 (memCode r.1), 0] ++ leBytes 2 r.2.2 ++ leBytes 8 r.2.1 ++ List.replicate 4 0

/-- One more entry written to the copy. -/
def saveRemap (r : MemKind × Nat × Nat) (flash : Mem) : Mem :=
  let n := Mem.field flash remapBase 4
  Mem.write (Mem.write flash (remapBase + 16 + 16 * n) (remapBytes r)) remapBase (leBytes 4 (n + 1))

/-- The entries the copy holds, as firmware loads them at boot (R378). -/
def loadRemap (flash : Mem) : List (MemKind × Nat × Nat) :=
  (List.range (Mem.field flash remapBase 4)).map fun i =>
    let b := Mem.read flash (remapBase + 16 + 16 * i) 12
    (if byteAt b 0 = 5 then .ddr else .hbm, fieldAt b 4 8, fieldAt b 2 2)

/-- BLOCK_RETIRE (R326): a block of HBM4 or DDR5 that is due moves to a spare block of its reserve; words still
uncorrectable are written as zeros. A bank row waits for the next binding. With no spare left the location stays in use. -/
def execBlockRetire (k0 : MemKind) (addr spare : Nat) (s : State) : Out :=
  commit (
    let k := heldIn k0
    let u := retireUnit k addr
    match s.mctl.due.find? fun d => d.1 == k && d.2.1 == u with
    | none => s
    | some d =>
      let s1 := { s with mctl := { s.mctl with due := s.mctl.due.erase d } }
      if k = .bank then
        if sparesLeft s 5 (u / 0x1000000) = 0 then s1
        else { s1 with mctl := { s1.mctl with rows := s1.mctl.rows ++ [(u, d.2.2, false)] } }
      else
        let mine := s.mctl.remap.filter fun r => r.1 == k && (k == .ddr || stackOf r.2.1 == stackOf u)
        let size := if k = .hbm then 4096 else 16384
        match pickFree spare 0 size (mine.map (·.2.2)) with
        | none => s1
        | some i =>
          let s2 := (badWords k u s).foldl (fun x e =>
            { invalidateLines (e.addr / 64 * 64) 64 x with mem := Mem.clear x.mem (e.addr / 64 * 64) 64 }) s1
          let s3 := retireWords k u { s2 with mctl := { s2.mctl with remap := s2.mctl.remap ++ [(k, u, i)] },
                                              boot := { s2.boot with flash := saveRemap (k, u, i) s2.boot.flash } }
          engageSpare (if k = .hbm then 9 else 10) (if k = .hbm then stackOf u else 0) d.2.2 u s3)

/-- CE_SUMMARY (R327): at the end of every 60 s of rack time, when a correctable error occurred in it. -/
def execCeSummary (s : State) : Out :=
  commit (
    if !passed s s.ras.ceSince (60 * 400000000) then s
    else
      let n := s.ras.ceNow
      let s1 := { s with ras := { s.ras with ceNow := [0, 0, 0, 0], ceSince := s.ras.ceSince + BitVec.ofNat 64 (60 * 400000000) } }
      if n.any (· != 0) then postEvent 0x0201 0x00 0 (n.flatMap (leBytes 4 ·)) s1 else s1)

/-- The die bridge that enters a tile by an input, in the order of R13 and LNK_BRIDGE (R361). -/
def bridgeAt (c r : Nat) (inp : Port) : Option Nat :=
  let south := if r < 12 then 0 else 3
  match inp with
  | .w => if c = 16 || c = 32 || c = 48 then some (c / 16 - 1 + south) else none
  | .e => if c = 15 || c = 31 || c = 47 then some (c / 16 + south) else none
  | .n => if r = 12 then some (6 + c / 16) else none
  | .s => if r = 11 then some (6 + c / 16) else none
  | .l => none

/-- A tile parity error: a job fault of cause 6 (R323). No event code belongs to it in R238; the fault's originating record
has code 0, and while a fault stands it is a record of the dump alone (R255, log 16). -/
def parityFault (c r : Nat) (s : State) : State :=
  let part := partAt s c r
  let o : EvRec := { code := 0, cls := .error, source := match part with | some f => 0x40 + f | none => 0,
                     time := s.clk.rackTime, job := jobRunning s part, seq := s.evq.seq,
                     detail := [BitVec.ofNat 8 c, BitVec.ofNat 8 r] }
  if s.dump.fault.isSome then keepRec o 0 0xFF false s
  else standFault o 6 part (some (c, r)) s

/-- TILE_PARITY_ERROR (R323). -/
def execTileParityError (c r : Nat) (s : State) : Out :=
  commit (if (running s || s.dump.fault.isSome) && isTile c r then parityFault c r s else s)

/-- BRIDGE_CRC_RETRY (R324): counted; the fourth failure in a row of one word is a tile parity error of the receiver. -/
def execBridgeCrcRetry (c r : Nat) (inp : Port) (s : State) : Out :=
  commit (
    match bridgeAt c r inp with
    | none => s
    | some e =>
      if !running s || !isTile c r then s
      else
        let key := 16 * tileNo c r + portIdx inp
        let n := Tbl.getD s.lnk.bridgeFails key 0 + 1
        let s1 := { s with lnk := { s.lnk with bridge := Tbl.set s.lnk.bridge e (Tbl.getD s.lnk.bridge e 0 + 1),
                                               bridgeFails := Tbl.set s.lnk.bridgeFails key (if n ≥ 4 then 0 else n) } }
        if n ≥ 4 then parityFault c r s1 else s1)

/-- The part's own ceiling has come down (R330): power above it follows, also in place of a cap-follow to a higher cap, as a cap without a
deadline (log 34); power below it is held under it. -/
def lowerCeiling (s : State) : State :=
  if s.pwr.floor then s
  else if inputPower s > capNow s then
    (if s.pwr.follow.all fun f => capNow s < f.cap then startFollow (capNow s) (inputPower s) 0 s else s)
  else reshape (fitPeak s)

/-- SENSOR_DISAGREE (R329, R330): a pair apart by more than 5 °C loses the cooler sensor and reads the hotter; when a
position's remaining sensor fails, R330's temperature stands in for its reading. -/
def execSensorDisagree (code : Nat) (a b : W16) (s : State) : Out :=
  commit (
    match s.thm.sensors[code]? with
    | none => s
    | some x =>
      let va := toSigned 16 a.toNat
      let vb := toSigned 16 b.toNat
      if x.failA && x.failB then s
      else if x.failA || x.failB then
        let t := BitVec.ofNat 16 (leNat (freeBytes s.fresh 2))
        checkSpares false 8 code 3 0
          { s with fresh := s.fresh + 1,
                   thm := { s.thm with sensors := modAt s.thm.sensors code fun _ => { temp := t, failA := true, failB := true } } }
      else if (va - vb).natAbs > 40 then
        engageSpare 8 code 3 0
          { s with thm := { s.thm with sensors := modAt s.thm.sensors code fun _ =>
              { temp := if va < vb then b else a, failA := decide (va < vb), failB := decide (vb < va) } } }
      else { s with thm := { s.thm with sensors := modAt s.thm.sensors code fun y => { y with temp := if va < vb then b else a } } })

end Sys2Proof.Machine
end

