-- ==== Sys2Proof/Machine/Hash.lean ====
section
/-! DEFINITION. SHA3-256 (FIPS 202), as R82, R202, R274, R338 and R377 use it, and the CRC-32 of R192. -/
namespace Sys2Proof.Machine

/-- FIPS 202's walk over the lanes other than (0, 0), from (1, 0): at step `t` it stands on lane (x, y), numbered x + 5 y, which ρ
rotates by the `t`-th triangular number. -/
def rhoWalk : Nat → Nat → Nat → Nat → List (Nat × Nat)
  | 0, _, _, _ => []
  | n + 1, t, x, y => (x + 5 * y, (t + 1) * (t + 2) / 2 % 64) :: rhoWalk n (t + 1) y ((2 * x + 3 * y) % 5)

/-- ρ's rotation of each lane. -/
def rhoTurns : List Nat := (List.range 25).map fun i => ((rhoWalk 24 0 1 0).lookup i).getD 0

/-- The lane π moves to place `i`. -/
def piFrom (i : Nat) : Nat := (i % 5 + 3 * (i / 5)) % 5 + 5 * (i % 5)

/-- `n` output bits of FIPS 202's shift register with feedback x⁸ + x⁶ + x⁵ + x⁴ + 1. -/
def iotaBits : Nat → Nat → List Nat
  | 0, _ => []
  | n + 1, r => r % 2 :: iotaBits n (if r < 128 then 2 * r else (2 * r) ^^^ 0x171)

/-- ι's constants: seven register bits a round, bit j at place 2^j − 1. -/
def iotaWords : List W64 :=
  let bits := iotaBits 168 1
  (List.range 24).map fun r => BitVec.ofNat 64 (((bits.drop (7 * r)).take 7).zipIdx.map fun b => b.1 <<< (2 ^ b.2 - 1)).sum

/-- One round: θ adds the parities of two neighbour columns, ρ and π turn and move the lanes, χ combines each with its row, ι adds
the constant to lane 0. -/
def shaRound (st : List W64) (iota : W64) : List W64 :=
  let col := fun x => (List.range 5).foldl (fun p y => p ^^^ st.getD (x % 5 + 5 * y) 0) (0 : W64)
  let par := (List.range 5).map fun x => col (x + 4) ^^^ (col (x + 1)).rotateLeft 1
  let moved := (List.range 25).map fun i =>
    (st.getD (piFrom i) 0 ^^^ par.getD (piFrom i % 5) 0).rotateLeft (rhoTurns.getD (piFrom i) 0)
  let row := fun i k => moved.getD ((i % 5 + k) % 5 + 5 * (i / 5)) 0
  (List.range 25).map fun i => (row i 0 ^^^ (row i 2 &&& ~~~row i 1)) ^^^ (if i = 0 then iota else 0)

/-- The message with its suffix and padding, up to whole blocks of the 136-byte rate. -/
def shaPad (m : List Byte) : List Byte :=
  let k := 136 - m.length % 136
  if k = 1 then m ++ [0x86] else m ++ [0x06] ++ List.replicate (k - 2) 0 ++ [0x80]

def shaAbsorb (st : List W64) (block : List Byte) : List W64 :=
  let ws := (chunks 8 block).map fun b => BitVec.ofNat 64 (leNat b)
  iotaWords.foldl shaRound ((List.range 25).map fun i => st.getD i 0 ^^^ ws.getD i 0)

/-- SHA3-256: 32 bytes. -/
def sha3 (m : List Byte) : List Byte :=
  let st := (chunks 136 (shaPad m)).foldl shaAbsorb (List.replicate 25 0)
  ((st.take 4).flatMap fun w => leBytes 8 w.toNat)

/-- One byte of the reflected CRC-32 (R192). -/
def crcByte (c : W32) (b : Byte) : W32 :=
  (List.range 8).foldl (fun acc _ =>
    if acc.getLsbD 0 then (acc >>> 1) ^^^ 0xEDB88320 else acc >>> 1) (c ^^^ b.zeroExtend 32)

/-- CRC-32: polynomial 0x04C1_1DB7 reflected, initial value and final XOR 0xFFFF_FFFF (R192). -/
def crc32 (m : List Byte) : Nat := ((m.foldl crcByte 0xFFFFFFFF) ^^^ 0xFFFFFFFF).toNat

end Sys2Proof.Machine
end

