-- ==== Sys2Proof/Machine/MlDsa.lean ====
section
/-! DEFINITION. ML-DSA-44 (FIPS 204), which R82, R377, R383 and R384 name: key generation from a seed, signing and verifying. A
polynomial is the list of its 256 coefficients, each below q. The sampling loops stop after the numbers of bytes and of tries that
FIPS 204, appendix C, gives as safe limits (log 9). -/
namespace Sys2Proof.Machine

/-! ### SHAKE (FIPS 202) -/

/-- The message with the SHAKE suffix and padding, up to whole blocks of the rate. -/
def shakePad (rate : Nat) (m : List Byte) : List Byte :=
  let k := rate - m.length % rate
  if k = 1 then m ++ [0x9F] else m ++ [0x1F] ++ List.replicate (k - 2) 0 ++ [0x80]

/-- `n` blocks of output of a state. -/
def shakeBlocks (rate : Nat) : Nat → List W64 → List Byte
  | 0, _ => []
  | n + 1, st => sliceB (st.flatMap fun w => leBytes 8 w.toNat) 0 rate ++ shakeBlocks rate n (shaAbsorb st [])

/-- `n` bytes of SHAKE with that rate: 168 for SHAKE128, 136 for SHAKE256. -/
def shake (rate : Nat) (m : List Byte) (n : Nat) : List Byte :=
  (shakeBlocks rate (ceilDiv n rate) ((chunks rate (shakePad rate m)).foldl shaAbsorb (List.replicate 25 0))).take n

/-- FIPS 204's H and G. -/
def dsaH (m : List Byte) (n : Nat) : List Byte := shake 136 m n
def dsaG (m : List Byte) (n : Nat) : List Byte := shake 168 m n

/-! ### Polynomials modulo q -/

def dsaQ : Nat := 8380417

abbrev Poly := List Nat
abbrev PolyVec := List Poly

def qAdd (a b : Nat) : Nat := (a + b) % dsaQ
def qSub (a b : Nat) : Nat := (a + (dsaQ - b)) % dsaQ
def qMul (a b : Nat) : Nat := a * b % dsaQ
def qOf (v : Int) : Nat := (v % dsaQ).toNat

/-- The remainder modulo q nearest to 0. -/
def centred (a : Nat) : Int := if 2 * a < dsaQ then a else (a : Int) - dsaQ

/-- The remainder modulo an even `m` above −m/2 and up to m/2. -/
def nearMod (m a : Nat) : Int := if 2 * (a % m) ≤ m then (a % m : Nat) else ((a % m : Nat) : Int) - m

def vAdd (a b : PolyVec) : PolyVec := List.zipWith (List.zipWith qAdd) a b
def vSub (a b : PolyVec) : PolyVec := List.zipWith (List.zipWith qSub) a b

/-- The largest magnitude of a coefficient. -/
def vNorm (v : PolyVec) : Nat := v.foldl (fun m p => p.foldl (fun n a => max n (centred a).natAbs) m) 0

/-- The bits of an 8-bit number in reverse. -/
def bitRev8 (m : Nat) : Nat := (List.range 8).foldl (fun r i => r + bitsOf m i 1 * 2 ^ (7 - i)) 0

/-- ζ = 1753 to the power k. -/
def zetaPow (k : Nat) : Nat := 1753 ^ k % dsaQ

/-- The number-theoretic transform, of `n` levels, below node `m` of its tree of halves. -/
def nttFrom : Nat → Nat → Poly → Poly
  | 0, _, p => p
  | n + 1, m, p =>
    let t := (p.drop (2 ^ n)).map (qMul (zetaPow (bitRev8 m)))
    nttFrom n (2 * m) (List.zipWith qAdd (p.take (2 ^ n)) t) ++ nttFrom n (2 * m + 1) (List.zipWith qSub (p.take (2 ^ n)) t)

/-- Its inverse: each level halves the sum and the difference, and takes the root's power out of the difference. -/
def unNttFrom : Nat → Nat → Poly → Poly
  | 0, _, p => p
  | n + 1, m, p =>
    let a := unNttFrom n (2 * m) (p.take (2 ^ n))
    let b := unNttFrom n (2 * m + 1) (p.drop (2 ^ n))
    let half := (dsaQ + 1) / 2
    List.zipWith (fun x y => qMul half (qAdd x y)) a b
      ++ List.zipWith (fun x y => qMul (qMul half (zetaPow (512 - bitRev8 m))) (qSub x y)) a b

def ntt (p : Poly) : Poly := nttFrom 8 1 p
def unNtt (p : Poly) : Poly := unNttFrom 8 1 p

/-- The sum of the products of two transformed vectors. -/
def nttDot (a b : PolyVec) : Poly :=
  (List.zipWith (List.zipWith qMul) a b).foldl (List.zipWith qAdd) (List.replicate 256 0)

/-- A matrix of transforms times a vector of transforms, back out of the transform. -/
def nttRows (m : List PolyVec) (v : PolyVec) : PolyVec := m.map fun r => unNtt (nttDot r v)

/-- A transformed polynomial times each of a transformed vector, back out of the transform. -/
def nttScale (c : Poly) (v : PolyVec) : PolyVec := v.map fun p => unNtt (List.zipWith qMul c p)

/-! ### Bytes and coefficients -/

/-- Numbers of `w` bits each, packed from the least significant bit on; and back. -/
def packBits (w : Nat) (l : List Nat) : List Byte :=
  leBytes (w * l.length / 8) (l.foldr (fun v acc => v % 2 ^ w + 2 ^ w * acc) 0)

def unpackBits (w n : Nat) (b : List Byte) : List Nat :=
  let v := leNat b
  (List.range n).map fun i => v / 2 ^ (w * i) % 2 ^ w

/-- Three bytes a coefficient, kept where they stand for a number below q (RejNTTPoly). -/
def rejNtt (seed : List Byte) : Poly :=
  (((chunks 3 (dsaG seed 894)).filterMap fun b =>
    let z := byteAt b 0 + 256 * byteAt b 1 + 65536 * (byteAt b 2 % 128)
    if z < dsaQ then some z else none) ++ List.replicate 256 0).take 256

/-- Half a byte a coefficient from −2 to 2 (RejBoundedPoly with η = 2). -/
def rejBounded (seed : List Byte) : Poly :=
  ((((dsaH seed 481).flatMap fun (b : Byte) => [b.toNat % 16, b.toNat / 16]).filterMap fun (h : Nat) =>
    if h < 15 then some (qOf (2 - (h % 5 : Nat))) else none) ++ List.replicate 256 0).take 256

/-- ExpandA: the 4 by 4 matrix of a public seed. -/
def expandA (rho : List Byte) : List PolyVec :=
  (List.range 4).map fun r => (List.range 4).map fun c => rejNtt (rho ++ [BitVec.ofNat 8 c, BitVec.ofNat 8 r])

/-- One coefficient of SampleInBall: the first byte of the stream not above `i` names the place that takes ±1, and place `i` takes
what stood there. -/
def ballStep (signs : Nat) (acc : Poly × List Byte) (i : Nat) : Poly × List Byte :=
  match acc.2.dropWhile (fun b => i < b.toNat) with
  | [] => acc
  | b :: rest =>
    ((acc.1.set i (acc.1.getD b.toNat 0)).set b.toNat (if bitAt signs (i - 217) then dsaQ - 1 else 1), rest)

/-- SampleInBall: a polynomial with 39 coefficients ±1. -/
def sampleInBall (c : List Byte) : Poly :=
  let h := dsaH c 221
  ((span 217 255).foldl (ballStep (leNat (h.take 8))) (List.replicate 256 0, h.drop 8)).1

/-- ExpandMask: four polynomials from −γ1 + 1 to γ1, where γ1 = 2¹⁷. -/
def expandMask (seed : List Byte) (kappa : Nat) : PolyVec :=
  (List.range 4).map fun r => (unpackBits 18 256 (dsaH (seed ++ leBytes 2 (kappa + r)) 576)).map fun (v : Nat) => qOf (131072 - (v : Int))

/-! ### Rounding and hints, with 2 γ2 = 190,464 -/

/-- Decompose: the high part, 0 to 43, and the low part. -/
def decompose (r : Nat) : Nat × Int :=
  let lo := nearMod 190464 r
  if (r : Int) - lo = dsaQ - 1 then (0, lo - 1) else (((r : Int) - lo).toNat / 190464, lo)

def highBits (v : PolyVec) : PolyVec := v.map fun p => p.map fun r => (decompose r).1

/-- The high part that a hint bit corrects. -/
def useHint (h : Bool) (r : Nat) : Nat :=
  let d := decompose r
  if h then (if 0 < d.2 then d.1 + 1 else d.1 + 43) % 44 else d.1

/-- The hint bits of a vector: where adding `z` to `r` changes the high part. -/
def makeHint (z r : PolyVec) : List (List Bool) :=
  List.zipWith (List.zipWith fun a b => (decompose b).1 != (decompose (qAdd a b)).1) z r

/-- HintBitPack: the places of each polynomial in order, then the four running counts. -/
def packHint (h : List (List Bool)) : List Byte :=
  let at_ := h.map fun p => (p.zipIdx.filter (·.1)).map fun e => BitVec.ofNat 8 e.2
  let ends := (List.range 4).map fun i => BitVec.ofNat 8 ((at_.take (i + 1)).map List.length).sum
  sliceB at_.flatten 0 80 ++ ends

/-- HintBitUnpack: none where the counts fall or pass 80, the places of a polynomial do not rise, or an unused place is not 0. -/
def unpackHint (y : List Byte) : Option (List (List Bool)) :=
  let ends := (List.range 4).map fun i => byteAt y (80 + i)
  let starts := 0 :: ends
  let places := fun i => ((y.take (ends.getD i 0)).drop (starts.getD i 0)).map (·.toNat)
  let rises := fun (l : List Nat) => (l.zip (l.drop 1)).all fun e => e.1 < e.2
  if (List.range 4).all (fun i => starts.getD i 0 ≤ ends.getD i 0 && ends.getD i 0 ≤ 80 && rises (places i))
      && allZero ((y.take 80).drop (ends.getD 3 0))
  then some ((List.range 4).map fun i => (List.range 256).map fun j => (places i).contains j) else none

/-! ### Keys, signatures and their check -/

/-- What a seed gives: the public seed, the vectors s1 and s2, the high and low parts of t, and the signing seed. -/
structure DsaKey where
  rho : List Byte
  sign : List Byte
  s1 : PolyVec
  s2 : PolyVec
  t1 : PolyVec
  t0 : PolyVec

/-- Key generation from a 32-byte seed. -/
def dsaKeyGen (xi : List Byte) : DsaKey :=
  let b := dsaH (xi ++ [4, 4]) 128
  let rho := b.take 32
  let s := (List.range 8).map fun r => rejBounded (sliceB b 32 64 ++ leBytes 2 r)
  let t := vAdd (nttRows (expandA rho) ((s.take 4).map ntt)) (s.drop 4)
  let low := t.map fun p => p.map fun r => nearMod 8192 r
  { rho, sign := b.drop 96, s1 := s.take 4, s2 := s.drop 4
    t1 := List.zipWith (List.zipWith fun (r : Nat) (l : Int) => ((r : Int) - l).toNat / 8192) t low
    t0 := low.map fun p => p.map qOf }

/-- The 1,312 bytes of the public key. -/
def dsaPublic (k : DsaKey) : List Byte := k.rho ++ k.t1.flatMap (packBits 10)

/-- The public key of a seed (R383). -/
def mldsaPublic (seed : List Byte) : List Byte := dsaPublic (dsaKeyGen seed)

/-- What is signed of a message: its digest with the public key's, the context string being empty. -/
def dsaMu (pk m : List Byte) : List Byte := dsaH (dsaH pk 64 ++ [0, 0] ++ m) 64

/-- The challenge of a vector of high parts. -/
def dsaChallenge (mu : List Byte) (w1 : PolyVec) : List Byte := dsaH (mu ++ w1.flatMap (packBits 6)) 32

/-- One try of the signing loop: none where a bound of FIPS 204 rejects it. -/
def signTry (k : DsaKey) (a : List PolyVec) (mu seed : List Byte) (kappa : Nat) : Option (List Byte) :=
  let y := expandMask seed kappa
  let w := nttRows a (y.map ntt)
  let ct := dsaChallenge mu (highBits w)
  let c := ntt (sampleInBall ct)
  let z := vAdd y (nttScale c (k.s1.map ntt))
  let r := vSub w (nttScale c (k.s2.map ntt))
  let c0 := nttScale c (k.t0.map ntt)
  let low := r.foldl (fun m p => p.foldl (fun n v => max n (decompose v).2.natAbs) m) 0
  let h := makeHint (c0.map fun p => p.map (qSub 0)) (vAdd r c0)
  if vNorm z < 131072 - 78 && low < 95232 - 78 && vNorm c0 < 95232 && (h.map (fun p => p.count true)).sum ≤ 80 then
    some (ct ++ z.flatMap (fun p => packBits 18 (p.map fun v => (131072 - centred v).toNat)) ++ packHint h)
  else none

/-- The signing loop. -/
def signLoop (k : DsaKey) (a : List PolyVec) (mu seed : List Byte) : Nat → Nat → List Byte
  | 0, _ => []
  | n + 1, kappa =>
    match signTry k a mu seed kappa with
    | some sig => sig
    | none => signLoop k a mu seed n (kappa + 4)

/-- The 2,420-byte signature of a message under the key of a seed, whose public key is `pk`, with 32 bytes of fresh randomness
(R384). -/
def mldsaSign (seed pk rnd m : List Byte) : List Byte :=
  let k := dsaKeyGen seed
  let mu := dsaMu pk m
  signLoop k (expandA k.rho) mu (dsaH (k.sign ++ rnd ++ mu) 64) 814 0

/-- Does a signature over a message pass under a public key (R82, R377)? -/
def mldsaVerify (pk m sig : List Byte) : Bool :=
  pk.length == 1312 && sig.length == 2420 && (match unpackHint (sig.drop 2336) with
    | none => false
    | some h =>
      let ct := sig.take 32
      let z := (List.range 4).map fun i => (unpackBits 18 256 (sliceB sig (32 + 576 * i) 576)).map fun (v : Nat) => qOf (131072 - (v : Int))
      let t1 := (List.range 4).map fun i => (unpackBits 10 256 (sliceB pk (32 + 320 * i) 320)).map fun v => v * 8192
      let w := vSub (nttRows (expandA (pk.take 32)) (z.map ntt)) (nttScale (ntt (sampleInBall ct)) (t1.map ntt))
      vNorm z < 131072 - 78 && ct == dsaChallenge (dsaMu pk m) (List.zipWith (List.zipWith useHint) h w))

end Sys2Proof.Machine
end

