-- ==== Sys2Proof/Machine/LinkOps.lean ====
section
/-! DEFINITION. The Xanver link layer and messages: flits, credits, replay, bursts (R286-R293, R297). -/
namespace Sys2Proof.Machine

def onPort (i : Nat) (f : LinkPort → LinkPort) (s : State) : State :=
  { s with lnk := { s.lnk with ports := modAt s.lnk.ports i f } }

def portAt (s : State) (i : Nat) : LinkPort := s.lnk.ports.getD i (LinkPort.reset 0)

def portUp? (s : State) (i : Nat) : Bool := (portAt s i).state == .up

/-- Does a port keep its traffic: up, or retraining, by which no flit is lost (R292)? -/
def linked (s : State) (i : Nat) : Bool := portUp? s i || (portAt s i).state == .retraining

/-- The board peer's part id (R282; under chip id source 1 PRESUMED the same, log 17). -/
def boardPeer (s : State) : Nat := s.glb.partId.toNat ^^^ 1

/-- Is part `d` enabled in the peer enable mask? The own bit is ignored (R286). -/
def enabled (s : State) (d : Nat) : Bool := d < 64 && d != s.glb.partId.toNat && s.lnk.mask.getLsbD d

def peerAt (s : State) (d : Nat) : Peer := Tbl.getD s.lnk.peers d { up := false, lastRx := 0, lastTx := 0 }

/-- The ports that reach a peer, in ascending order: the board port for the board peer while it is up, else rack ports
(R283, R287). -/
def portsTo (s : State) (d : Nat) : List Nat :=
  if d = boardPeer s && linked s 8 then [8]
  else (List.range 8).filter fun i => linked s i && (portAt s i).reach.contains d

/-- A flit's header (R290): TYPE, VC, DST, PLEN, SOB and EOB, with CRED and CREDVC. -/
def flitHeader (s : State) (type vc dst plen : Nat) (sob eob : Bool) (cred credvc : Nat) : Nat :=
  plen * 2 ^ 48 + credvc * 2 ^ 40 + cred * 2 ^ 32 + ofBool eob * 2 ^ 26 + ofBool sob * 2 ^ 25 + vc * 2 ^ 24 + type * 2 ^ 20
    + s.lnk.tenant.toNat * 2 ^ 12 + s.glb.partId.toNat * 2 ^ 6 + dst

/-- The 256 bytes of a flit: header, payload, LSEQ, ACK and NAK, CRC-32 (R290). -/
def flitBytes (hdr : Nat) (payload : List Byte) (lseq ack : Nat) (nak : Bool) : List Byte :=
  let b := leBytes 8 hdr ++ sliceB payload 0 240 ++ leBytes 4 (lseq + 4096 * ack + 2 ^ 24 * ofBool nak)
  b ++ leBytes 4 (crc32 b)

/-- The credits a port's next flit returns, and their virtual channel. -/
def credDue (p : LinkPort) : Nat × Nat :=
  let credvc := if p.owe0 = 0 then 1 else 0
  (min 255 (if credvc = 0 then p.owe0 else p.owe1), credvc)

/-- A port once a flit has carried its NAK and credits. -/
def payDues (p : LinkPort) : LinkPort :=
  let (cred, credvc) := credDue p
  { p with nak := false, owe0 := if credvc = 0 then p.owe0 - cred else p.owe0,
           owe1 := if credvc = 0 then p.owe1 else p.owe1 - cred }

/-- An IDLE flit, unnumbered: it fills the link and carries credits, ACK and NAK (R290, R292). -/
def sendIdle (i : Nat) (s : State) : State :=
  onPort i (fun p =>
    let (cred, credvc) := credDue p
    let b := flitBytes (flitHeader s 0 0 0 0 false false cred credvc) [] 0 p.ack.toNat p.nak
    { payDues p with wire := p.wire ++ [b] }) s

/-- A numbered flit put on a port's link: LSEQ, the ACK and NAK due, the credits owed, and a copy kept for replay (R292). -/
def transmit (i : Nat) (type vc dst : Nat) (payload : List Byte) (sob eob : Bool) (s : State) : State :=
  let p := portAt s i
  let (cred, credvc) := credDue p
  let hdr := flitHeader s type vc dst payload.length sob eob cred credvc
  let b := flitBytes hdr payload p.txSeq.toNat p.ack.toNat p.nak
  onPort i (fun p => { payDues p with
    txSeq := p.txSeq + 1, wire := p.wire ++ [b],
    buf := p.buf ++ [{ lseq := p.txSeq.toNat, bytes := b, resends := 0 }],
    waiting := if p.buf = [] then s.clk.rackTime else p.waiting,
    credit0 := if vc = 0 then p.credit0 - 1 else p.credit0, credit1 := if vc = 0 then p.credit1 else p.credit1 - 1 }) s

/-- A flit that waits for credit or replay space, as bytes: TYPE, VC, DST, SOB and EOB, then its payload. -/
def packFlit (type vc dst : Nat) (sob eob : Bool) (payload : List Byte) : Nat × List Byte :=
  (vc, [BitVec.ofNat 8 type, BitVec.ofNat 8 dst, BitVec.ofNat 8 (ofBool sob + 2 * ofBool eob)] ++ payload)

/-- A flit sent on a port: at once with a credit and a free replay entry (512 per port), else it waits in order. None goes to a part
that the mask does not enable (R286). -/
def sendFlit (i : Nat) (type vc dst : Nat) (payload : List Byte) (sob eob : Bool) (s : State) : State :=
  let p := portAt s i
  let s1 := { s with lnk := { s.lnk with peers := Tbl.set s.lnk.peers dst { peerAt s dst with lastTx := s.clk.rackTime } } }
  if !enabled s dst then s
  else if p.state == .up && (if vc = 0 then p.credit0 else p.credit1) ≥ 1 && p.buf.length < 512
    && !p.queue.any (fun q => q.1 == vc) then transmit i type vc dst payload sob eob s1
  else onPort i (fun p => { p with queue := p.queue ++ [packFlit type vc dst sob eob payload] }) s1

/-- Waiting flits sent while credits and replay space last: `fuel` of them at most. -/
def pump (i : Nat) : Nat → State → State
  | 0, s => s
  | f + 1, s =>
    let p := portAt s i
    match p.queue with
    | [] => s
    | (vc, b) :: rest =>
      if !enabled s (byteAt b 1) then pump i f (onPort i (fun p => { p with queue := rest }) s)
      else if p.state == .up && (if vc = 0 then p.credit0 else p.credit1) ≥ 1 && p.buf.length < 512 then
        pump i f (transmit i (byteAt b 0) vc (byteAt b 1) (b.drop 3) (bitAt (byteAt b 2) 0) (bitAt (byteAt b 2) 1)
          (onPort i (fun p => { p with queue := rest }) s))
      else s

/-- The 16 B burst header (R291). -/
def burstHeader (msgid len kind : Nat) (last : Bool) (off : Nat) : List Byte :=
  leBytes 4 msgid ++ leBytes 2 len ++ [BitVec.ofNat 8 kind, BitVec.ofNat 8 (ofBool last)] ++ leBytes 8 off

/-- TYPE and VC of a message kind: 0 segment MSG, 1 read data RDDATA, 2 write data WRDATA (R290, R291). -/
def kindType (kind : Nat) : Nat × Nat := if kind = 1 then (3, 1) else if kind = 2 then (4, 0) else (1, 0)

/-- One burst: 1-17 flits from SOB to EOB on one port (R291). -/
def sendBurst (i kind dst msgid off : Nat) (data : List Byte) (last : Bool) (s : State) : State :=
  let (type, vc) := kindType kind
  let fl := chunks 240 (burstHeader msgid data.length kind last off ++ data)
  (fl.zipIdx).foldl (fun a x => sendFlit i type vc dst x.1 (x.2 == 0) (x.2 + 1 == fl.length) a) s

/-- Burst `k` of a message goes to the k-th of the ports that reach the peer, counted from port MSGID mod 8 (R287). -/
def burstPort (ports : List Nat) (msgid k : Nat) : Option Nat :=
  let from_ := ports.filter (· ≥ msgid % 8) ++ ports.filter (· < msgid % 8)
  from_[k % max 1 from_.length]?

/-- Messages to several peers, burst by burst: the first burst of each before the second of any, in the order given
(R297). Each is destination, kind, MSGID and data. -/
def sendMessages (ms : List (Nat × Nat × Nat × List Byte)) (s : State) : State :=
  let cut := ms.map fun m => (m, chunks 4064 m.2.2.2)
  let rounds := ((cut.map fun m => m.2.length).max?).getD 0
  (List.range rounds).foldl (fun a k =>
    cut.foldl (fun b m =>
      match m.2[k]? with
      | none => b
      | some d =>
        match burstPort (portsTo b m.1.1) m.1.2.2.1 k with
        | none => b
        | some i => sendBurst i m.1.2.1 m.1.1 m.1.2.2.1 (4064 * k) d (k + 1 = m.2.length) b) a) s

/-- A fresh MSGID; bits [31:24] are left for what a request says of itself (log 21). -/
def newMsgId (s : State) : Nat × State :=
  (s.lnk.nextMsg % 2 ^ 24, { s with lnk := { s.lnk with nextMsg := s.lnk.nextMsg + 1 } })

/-- One message sent; answers its MSGID. -/
def sendMessage (dst kind : Nat) (data : List Byte) (s : State) : Nat × State :=
  let (id, s1) := newMsgId s
  (id, sendMessages [(dst, kind, id, data)] s1)

/-- What the id of a request or a write tells the owner (DESIGN CHOICE: log 21): bit 31 the descriptor's FORM, bit 30 a raw address,
bits [29:24] how many bytes its length passes the span. -/
def requestId (id : Nat) (form : Bool) (handle past : Nat) : Nat :=
  id + 2 ^ 24 * past + 2 ^ 30 * ofBool (handle == 0) + 2 ^ 31 * ofBool (form && handle != 0)

def idForm (id : Nat) : Bool := bitAt id 31
def idRaw (id : Nat) : Bool := bitAt id 30
def idOver (id : Nat) : Nat := bitsOf id 24 6

/-- The RDREQ payload (R291). -/
def rdreqPayload (id handle off len account : Nat) : List Byte :=
  leBytes 4 id ++ leBytes 4 handle ++ leBytes 8 off ++ leBytes 2 len ++ leBytes 2 account

/-- Replay (R292): every flit from the oldest unacknowledged one is sent again; a port that has sent one flit again eight times
retrains. -/
def replay (i : Nat) (s : State) : State :=
  let p := portAt s i
  match p.buf with
  | [] => s
  | f :: _ =>
    let again := fun (n : Nat) (p : LinkPort) => { p with
      wire := p.wire ++ p.buf.map (·.bytes), replays := p.replays + BitVec.ofNat 64 p.buf.length,
      buf := p.buf.map fun x => { x with resends := if n = 0 then 0 else x.resends + 1 }, waiting := s.clk.rackTime }
    if f.resends + 1 ≥ 8 then onPort i (fun p => { again 0 p with state := .retraining, retrain := p.retrain + 1 }) s
    else onPort i (again 1) s

/-- ACK (and NAK) of a received flit: flits up to it leave the replay buffer (R292). -/
def takeAck (i ack : Nat) (nak : Bool) (s : State) : State :=
  let p := portAt s i
  let s1 :=
    if p.buf.any (fun f => f.lseq == ack) then
      onPort i (fun p => { p with buf := (p.buf.dropWhile fun f => f.lseq != ack).drop 1, waiting := s.clk.rackTime }) s
    else s
  let s2 := if nak then replay i s1 else s1
  pump i (portAt s2 i).queue.length s2

/-- Part ids are known: from the straps, or once the rack manager has written this part's (R282). -/
def idKnown (s : State) : Bool := !s.pins.chipSrc || s.glb.partSet

/-- The rally master (R296): the lowest part id among this part and its enabled peers that are up; none while the own id is not
known. -/
def masterOf (s : State) : Nat :=
  let ps := (s.lnk.peers.filter fun p => p.2.up && enabled s p.1).map (·.1)
  if idKnown s then ps.foldl min s.glb.partId.toNat else 0xFF

def refreshMaster (s : State) : State := { s with clk := { s.clk with rallyMaster := BitVec.ofNat 8 (masterOf s) } }

/-- A flit from a peer arrived on a port: the port reaches it, and it is up (R299). -/
def heard (i src : Nat) (s : State) : State :=
  let s1 := onPort i (fun p => { p with reach := if p.reach.contains src then p.reach else p.reach ++ [src] }) s
  let ps := Tbl.set s1.lnk.peers src { peerAt s src with up := true, lastRx := s.clk.rackTime }
  refreshMaster { s1 with lnk := { s1.lnk with peers := ps } }

/-- Does any port reach the peer? -/
def reachable (s : State) (d : Nat) : Bool := portsTo s d != []

/-- The end of the bytes received without a gap from an offset on. -/
def reachFrom (have_ : List (Nat × Nat)) : Nat → Nat → Nat
  | 0, x => x
  | f + 1, x => match have_.find? fun h => h.1 ≤ x && x < h.1 + h.2 with
    | some h => reachFrom have_ f (h.1 + h.2)
    | none => x

/-- Offsets of `len` bytes from `off` are all among those received. -/
def covered (have_ : List (Nat × Nat)) (off len : Nat) : Bool := off + len ≤ reachFrom have_ have_.length off

/-- Is a message complete: every byte to the end of its LASTB burst has arrived (R291)? -/
def msgComplete (m : Msg) : Bool := m.len.any (covered m.have_ 0)

/-- May a burst still come for a message: not one taken whole, and read data only for a request that waits for it (R291)? -/
def mayCome (s : State) (src kind id : Nat) : Bool :=
  !s.lnk.taken.contains (src, kind, id) && (kind != 1 || s.descs.any fun d => d.2.remote.any fun r => r.1 == id)

/-- A message taken: what comes again of it is discarded. The last 4,096 are kept (DESIGN CHOICE: log 21); read data is known by its
request. -/
def dropMsg (m : Msg) (s : State) : State :=
  { s with lnk := { s.lnk with
      msgs := s.lnk.msgs.filter (fun x => !(x.src == m.src && x.id == m.id && x.kind == m.kind))
      taken := if m.kind = 1 then s.lnk.taken else ((m.src, m.kind, m.id) :: s.lnk.taken).take 4096 } }

/-- A burst put into its message; bytes received before are discarded (R291). -/
def takeBurst (src kind id off : Nat) (data : List Byte) (last : Bool) (s : State) : State :=
  let is := fun (m : Msg) => m.src == src && m.id == id && m.kind == kind
  let m := (s.lnk.msgs.find? is).getD { src, id, kind, bytes := [], have_ := [], len := none, at_ := 0 }
  if !mayCome s src kind id || covered m.have_ off data.length then s
  else
    let m1 := { m with bytes := Mem.write m.bytes off data, have_ := m.have_ ++ [(off, data.length)],
                       len := if last then some (off + data.length) else m.len, at_ := s.clk.rackTime }
    { s with lnk := { s.lnk with msgs := (s.lnk.msgs.filter fun x => !is x) ++ [m1] } }

def protoDrop (i : Nat) (s : State) : State := onPort i (fun p => { p with protoDrop := p.protoDrop + 1 }) s

/-- A complete burst delivered: a malformed one is dropped and counted (R290, R291). -/
def deliverBurst (i type src : Nat) (b : List Byte) (s : State) : State :=
  let kind := byteAt b 6
  let len := fieldAt b 4 2
  if kind > 2 || (kindType kind).1 != type || len = 0 || len > 4064 || b.length < 16 + len then protoDrop i s
  else takeBurst src kind (fieldAt b 0 4) (fieldAt b 8 8) (sliceB b 16 len) (bitAt (byteAt b 7) 0) s

/-- A burst flit (MSG, RDDATA, WRDATA) received. -/
def takeFlit (i type vc src plen : Nat) (sob eob : Bool) (payload : List Byte) (s : State) : State :=
  let key := 64 * vc + src
  let old := Tbl.get? (portAt s i).rx key
  let data := payload.take plen
  let cur : Option (List Byte) :=
    if sob then some data
    else match old with
      | some (t, d) => if t = type then some (d ++ data) else none
      | none => none
  match cur with
  | none => protoDrop i (onPort i (fun p => { p with rx := Tbl.erase p.rx key }) s)
  | some d =>
    if eob then deliverBurst i type src d (onPort i (fun p => { p with rx := Tbl.erase p.rx key }) s)
    else onPort i (fun p => { p with rx := Tbl.set p.rx key (type, d) }) s

/-- A read request received (R291): lengths outside 64-4,032 or not a multiple of 64 are dropped and counted. -/
def takeRdreq (i src : Nat) (b : List Byte) (s : State) : State :=
  let len := fieldAt b 16 2
  if len < 64 || len > 4032 || len % 64 != 0 then protoDrop i s
  else { s with lnk := { s.lnk with rdreqs := s.lnk.rdreqs ++ [{ src, port := i, id := fieldAt b 0 4, handle := fieldAt b 4 4,
                                                                 off := fieldAt b 8 8, len, account := fieldAt b 18 2 }] } }

end Sys2Proof.Machine
end

