-- ==== Sys2Proof/Machine/Space.lean ====
section
/-! DEFINITION. Space: HBM and DDR5 pages, bank units, the extents of objects, and the release of objects, slots and regions
(R153-R166, R170-R173, R242, R243). -/
namespace Sys2Proof.Machine

/-! ### Pages (R153, R154, R161) -/

/-- A tiering page. -/
def pageSize : Nat := 2097152

/-- Object pages of stack Hk (R153): 80 GiB less its part of the firmware area, and on H7 less the dump area. -/
def stackPages (s : State) (k : Nat) : Nat :=
  if s.mctl.hbmTrained.getLsbD k then 40960 - s.fwPages - (if k = 7 then 1024 else 0) else 0

/-- GiB of the smallest DIMM. -/
def smallestDimm (s : State) : Nat := (s.mctl.dimmGib.min?).getD 0

/-- DDR5 capacity in bytes: 12 × the smallest DIMM, 0 when a channel failed to train (R154). -/
def ddrBytes (s : State) : Nat := if s.mctl.ddrTrained = 0xFFF then 12 * smallestDimm s * 2 ^ 30 else 0

def ddrPages (s : State) : Nat := ddrBytes s / pageSize

/-- Pages held by objects, save sets and saves in progress. -/
def usedPages (s : State) : List Nat :=
  (Tbl.vals s.objs).flatMap (·.pages)
    ++ (Tbl.vals s.jobs).flatMap (fun j => match j.saveSet with | some v => v.pages | none => [])
    ++ (Tbl.vals s.parts).flatMap (fun p => match p.saving with | some v => v.pages | none => [])

def stackBase (k : Nat) : Nat := hbmBase + k * stackSize

/-- Used pages of a stack, as page numbers in it. -/
def usedIn (used : List Nat) (base pages : Nat) : List Nat :=
  (used.filter fun a => base ≤ a && a < base + pages * pageSize).map fun a => (a - base) / pageSize

/-- `n` free page numbers of `total`, searched upward from `pick`; fewer when there are not that many. Which free pages are
taken is the part's choice. -/
def freeNumbers (total n pick : Nat) (used : List Nat) : List Nat :=
  (((List.range (min total (n + used.length))).map fun i => (pick + i) % total).filter fun i => !used.contains i).take n

def stackFree (s : State) (k : Nat) : Nat := stackPages s k - (usedIn (usedPages s) (stackBase k) 40960).length

def ddrFree (s : State) : Nat := ddrPages s - (usedIn (usedPages s) ddrBase (2 ^ 21)).length

/-- The nine free page counts of OBJ_PLACE's refusal (R225). -/
def freeCounts (s : State) : List Byte :=
  (List.range 8).flatMap (fun k => leBytes 4 (stackFree s k)) ++ leBytes 4 (ddrFree s)

/-- Pages that stack number `i` of `m` gives an object of `n` pages. -/
def pagesOnStack (n m i : Nat) : Nat := (n + m - 1 - i) / m

/-- Pages for an object of `n` pages on a stack mask, page p on the (p mod m)-th stack (R161). -/
def allocHbm (s : State) (mask n pick : Nat) : Option (List Nat) :=
  let st := maskStacks mask
  let used := usedPages s
  let per := (st.zipIdx).map fun x =>
    (freeNumbers (stackPages s x.1) (pagesOnStack n st.length x.2) pick (usedIn used (stackBase x.1) 40960)).map
      fun i => stackBase x.1 + i * pageSize
  let pages := (List.range n).filterMap fun p => ((per[p % st.length]?).getD [])[p / st.length]?
  if pages.length = n then some pages else none

/-- What the part chooses, by `pick`; a choice that does not fit gives way to the lowest (log 15). -/
def chosen {α : Type} (f : Nat → Option α) (pick : Nat) : Option α := (f pick).or (f 0)

/-- Free HBM4 pages of any stacks, for a save set, which no stack mask stripes (R248). -/
def allocAny (s : State) (n : Nat) : Option (List Nat) :=
  let used := usedPages s
  let l := ((List.range 8).flatMap fun k =>
    (freeNumbers (stackPages s k) n 0 (usedIn used (stackBase k) 40960)).map fun i => stackBase k + i * pageSize).take n
  if l.length = n then some l else none

/-- DDR5 pages. -/
def allocDdr (s : State) (n pick : Nat) : Option (List Nat) :=
  let l := freeNumbers (ddrPages s) n pick (usedIn (usedPages s) ddrBase (2 ^ 21))
  if l.length = n then some (l.map fun i => ddrBase + i * pageSize) else none

/-- Pages in a tier of R225: 1 HBM, 2 DDR5. -/
def allocTier (s : State) (tier mask n pick : Nat) : Option (List Nat) :=
  if tier = 2 then allocDdr s n pick else allocHbm s mask n pick

/-- Objects the chip still admits (R161). -/
def objectsFull (s : State) (more : Nat) : Bool := s.objs.length + more > 65536

/-- A page lies in HBM4. -/
def inHbm (a : Nat) : Bool := memKindOf a == some .hbm

/-- A page lies in DDR5. -/
def inDdr (a : Nat) : Bool := memKindOf a == some .ddr

/-! ### Partitions and bank units (R80, R242) -/

/-- Is a job SAVED: its bank objects hold no units (R251)? -/
def jobSaved (s : State) (j : Nat) : Bool := (Tbl.get? s.jobs j).any fun b => b.state == .saved

/-- Units of 64 KiB per tile that bindings of some jobs, and those of their bank objects that `keep` names, hold. -/
def unitsOf (s : State) (jobs : List Nat) (keep : Obj → Bool) : List Nat :=
  (jobs.flatMap fun j => match Tbl.get? s.jobs j with
    | some b => b.bindings.flatMap fun x => match x.base with
      | some a => (List.range x.units).map (a / 1024 + ·)
      | none => []
    | none => [])
    ++ ((Tbl.vals s.objs).filter fun o => jobs.contains o.job && !jobSaved s o.job && keep o).flatMap fun o =>
        match o.bankUnit with | some u => (List.range (o.len / 65536)).map (u + ·) | none => []

/-- The units that a partition's members hold; a released object keeps its own until nothing references it (R165). -/
def usedUnits (s : State) (p : Part) : List Nat := unitsOf s p.members fun _ => true

/-- The lowest offset at which `n` units are free in every tile (R242). -/
def fitUnits (used : List Nat) (n : Nat) : Option Nat :=
  (List.range 257).find? fun u => decide (u + n ≤ 256) && !(used.any fun x => u ≤ x && x < u + n)

/-- Units zeroed in every tile of a partition, zero flags with them (R243). -/
def clearUnits (p : Part) (u n : Nat) (s : State) : State :=
  (partNos p).foldl (fun a t => clearMem (bankBase t + u * 65536) (n * 65536) a) s

/-! ### Objects (R159-R166) -/

/-- Pages of a stored length. -/
def pagesOf (len : Nat) : Nat := ceilDiv len pageSize

/-- Bytes a handle and offset can address: n × L for a bank object (R162). -/
def objExtent (s : State) (o : Obj) : Nat :=
  if o.bankUnit.isSome then
    match (partOfJob s o.job).bind (Tbl.get? s.parts) with
    | some p => 48 * p.count * o.len
    | none => 0
  else o.len

/-- Chip address of byte `x` of an object. -/
def objAddr (s : State) (o : Obj) (x : Nat) : Nat :=
  match o.bankUnit with
  | some u =>
    match (partOfJob s o.job).bind (Tbl.get? s.parts) with
    | some p => bankBase ((partNos p).getD (x / max 1 o.len) 0) + u * 65536 + x % max 1 o.len
    | none => 0
  | none => o.pages.getD (x / pageSize) 0 + x % pageSize

/-- The pieces of a range of an object, each within one page or one tile's copy, as chip address and length. -/
def objSpansAux (s : State) (o : Obj) (piece : Nat) : Nat → Nat → Nat → List (Nat × Nat)
  | 0, _, _ => []
  | f + 1, x, n =>
    if n = 0 then []
    else
      let m := min n (piece - x % piece)
      (objAddr s o x, m) :: objSpansAux s o piece f (x + m) (n - m)

def objSpans (s : State) (o : Obj) (x n : Nat) : List (Nat × Nat) :=
  let piece := if o.bankUnit.isSome then max 1 o.len else pageSize
  objSpansAux s o piece (n / piece + 2) x n

/-- A checked read of a range of an object: bytes, the uncorrectable words, the state. -/
def objRead (o : Obj) (x n : Nat) (s : State) : EccRead :=
  (objSpans s o x n).foldl (fun r sp =>
    let e := eccReadAt sp.1 sp.2 r.st
    { bytes := r.bytes ++ e.bytes, ue := r.ue ++ e.ue, st := e.st }) { bytes := [], ue := [], st := s }

/-- Bytes stored in a range of an object. -/
def objWrite (o : Obj) (x : Nat) (b : List Byte) (s : State) : State :=
  ((objSpans s o x b.length).foldl (fun (r : List Byte × State) sp =>
    (r.1.drop sp.2, writeMem sp.1 (r.1.take sp.2) r.2)) (b, s)).2

/-- The object whose page holds a chip address outside the banks. -/
def objAtAddr (s : State) (a : Nat) : Option (Nat × Obj) :=
  s.objs.find? fun e => e.2.pages.any fun p => p ≤ a && a < p + pageSize

/-- Is work under way on the pages of an object: a descriptor that names them by raw address, or a burst on its way to them? -/
def pagesInUse (s : State) (h : Nat) : Bool :=
  (Tbl.get? s.objs h).any fun o =>
    let mine := fun (a n : Nat) => o.pages.any fun p => p < a + n && a < p + pageSize
    (Tbl.vals s.descs).any (fun d => d.handle == 0 && !d.done && !d.withdrawn && mine (d.objOff % 2 ^ 46) d.len)
      || s.fox.any fun e => e.bursts.any fun b => b.out.any fun w => mine w.1 w.2.length

/-- Do accepted, incomplete commands reference the object (R165)? -/
def referenced (s : State) (h : Nat) : Bool :=
  (Tbl.vals s.descs).any (fun d => d.handle == h && !d.done && !d.withdrawn) || pagesInUse s h
    || s.cmds.any (fun c => c.done.isNone &&
        ((match c.run with | some r => r.bufs.any (·.handle == h) | none => false)
          || (c.stages.any fun g => match g.run with | some r => r.bufs.any (·.handle == h) | none => false)
          || (match c.staging with
              | some g => g.members.any fun m => m.handle == h || (m.source == 0 && m.srcAddr == h)
              | none => false)))
    || s.tierQueue.any (·.handle == h) || s.tiers.any fun t => t.work.any (·.handle == h)

/-- An object that exists for new work. -/
def liveObj (s : State) (h : Nat) : Option Obj := (Tbl.get? s.objs h).filter fun o => !o.gone

/-- The outcome of naming an object by handle: OBJECT_GONE, BAD_ADDR for another job's, or none (R165, R166). -/
def nameObj (s : State) (job h : Nat) : Option Ref :=
  match liveObj s h with
  | none => some { st := .objectGone }
  | some o => if o.job = job then none else some { st := .badAddr }

/-- A bank object's units zeroed (R162, R243). -/
def clearBankObj (o : Obj) (s : State) : State :=
  match o.bankUnit, (partOfJob s o.job).bind (Tbl.get? s.parts) with
  | some u, some p => if jobSaved s o.job then s else clearUnits p u (o.len / 65536) s
  | _, _ => s

/-- A save set keeps the units of a bank object that goes, for a restore allocates every unit of the set (R252). -/
def dropSaved (h : Nat) (v : SaveSet) : SaveSet :=
  { v with bankObjs := v.bankObjs.filter (·.1 != h), freed := v.freed ++ (v.bankObjs.filter (·.1 == h)).map (·.2) }

/-- An object removed, its pages free. -/
def dropObj (h : Nat) (s : State) : State :=
  match Tbl.get? s.objs h with
  | none => s
  | some o =>
    let s1 := onJob o.job (fun b => { b with saveSet := b.saveSet.map (dropSaved h) }) (clearBankObj o s)
    { s1 with objs := Tbl.erase s.objs h, cold := s.cold.filter fun e => e.pool != h && e.expert != h }

/-- An object released: gone for new work, its pages freed once no accepted command references them (R165). -/
def releaseObj (h : Nat) (s : State) : State :=
  if referenced s h then onObj h (fun o => { o with gone := true, owner := none }) s else dropObj h s

/-- Released objects that nothing references any more are freed (R165). -/
def sweepObjs (s : State) : State :=
  (s.objs.filter fun e => e.2.gone && !referenced s e.1).foldl (fun a e => dropObj e.1 a) s

/-! ### Model slots (R170-R173) -/

def slotOf (m : Model) (b : Bool) : MSlot := if b then m.b else m.a

def setSlot (m : Model) (b : Bool) (x : MSlot) : Model := if b then { m with b := x } else { m with a := x }

def emptySlot : MSlot := { state := .empty, members := [], bound := 0 }

def newModel : Model := { a := emptySlot, b := emptySlot, epoch := 0 }

/-- A model of a job; one never staged has both slots EMPTY. -/
def modelAt (s : State) (j m : Nat) : Model :=
  match Tbl.get? s.jobs j with
  | some b => Tbl.getD b.models m newModel
  | none => newModel

def setModel (j m : Nat) (x : Model) (s : State) : State :=
  onJob j (fun b => { b with models := Tbl.set b.models m x }) s

/-- The LIVE slot of a model. -/
def liveSlot (m : Model) : Option Bool :=
  if m.a.state = .live then some false else if m.b.state = .live then some true else none

/-- A slot becomes EMPTY and its objects' pages are freed (R173). -/
def freeSlot (j m : Nat) (b : Bool) (s : State) : State :=
  let x := slotOf (modelAt s j m) b
  let s1 := setModel j m (setSlot (modelAt s j m) b emptySlot) s
  x.members.foldl (fun a e => releaseObj e.2 a) s1

/-- A slot leaves LIVE: RETIRING, or EMPTY at once when nothing is bound to it (R171). -/
def retireSlot (j m : Nat) (b : Bool) (s : State) : State :=
  let x := slotOf (modelAt s j m) b
  if x.bound = 0 then freeSlot j m b s else setModel j m (setSlot (modelAt s j m) b { x with state := .retiring }) s

/-- A RUN or request binds a slot. -/
def bindSlot (j m : Nat) (b : Bool) (s : State) : State :=
  let x := modelAt s j m
  setModel j m (setSlot x b { slotOf x b with bound := (slotOf x b).bound + 1 }) s

/-- A RUN or request bound to a slot ends; the last one makes a RETIRING slot EMPTY (R173). -/
def unbindSlot (j m : Nat) (b : Bool) (s : State) : State :=
  let x := slotOf (modelAt s j m) b
  let s1 := setModel j m (setSlot (modelAt s j m) b { x with bound := x.bound - 1 }) s
  if x.bound ≤ 1 && x.state == .retiring then freeSlot j m b s1 else s1

/-! ### Regions and membership (R242, R243) -/

/-- A job's bindings and bank objects released, their units zeroed. -/
def releaseBanks (j : Nat) (s : State) : State :=
  match (partOfJob s j).bind (Tbl.get? s.parts), Tbl.get? s.jobs j with
  | some p, some b =>
    let s1 := b.bindings.foldl (fun a x => match x.base with | some u => clearUnits p (u / 1024) x.units a | none => a) s
    let objs := s1.objs.filter fun e => e.2.job == j && e.2.bankUnit.isSome
    objs.foldl (fun a e => dropObj e.1 a) (onJob j (fun b => { b with bindings := [] }) s1)
  | _, _ => s

/-- The membership of a job ends; the last member's leaving frees the partition (R243). -/
def leavePart (j : Nat) (s : State) : State :=
  match (partOfJob s j).bind (Tbl.get? s.parts) with
  | none => s
  | some p =>
    let s1 := onJob j (fun b => { b with part := none }) (releaseBanks j s)
    let left := p.members.filter (· != j)
    if left = [] then
      let loose := s1.pwr.loose ++ looseFill s1 p
      clearTags p (openEpisode (reshape { s1 with parts := Tbl.erase s1.parts p.first, counts := Tbl.set s1.counts p.first p.counters,
                                                  pwr := { s1.pwr with loose } }))
    else onPart p.first (fun x => { x with members := left }) s1

end Sys2Proof.Machine
end

