-- ==== Sys2Proof/Machine/Endings.lean ====
section
/-! DEFINITION. How the work of a command ends early or whole: the drain of a partition, descriptors and tier work discarded,
huddles aborted, and the end of the command a partition runs (R87, R100, R152, R190, R201, R311). -/
namespace Sys2Proof.Machine

/-! ### Tiles at rest -/

/-- Words left in the balance queues and steering FIFOs (R100). -/
def tileResidue (t : Tile) : Nat :=
  (t.queues.map List.length).sum + (t.steer.map fun u => u.ctl.length + u.data.length).sum

/-- A drained tile: in LOAD, nothing in progress, its queues and FIFOs empty (R87, R100). Rows that wait for the vector ALU are gone with
the inning, where a PHASE leaves them: DESIGN CHOICE (log 25), R90 names neither. -/
def quietTile (t : Tile) : Tile :=
  { t with phase := .load, wait := .none, ended := true, queues := List.replicate 5 [], outbox := [], endpoint := [],
           steer := List.replicate 2 SteerU.reset, streams := [], inprog := [], gateRun := [], gateHold := [], vqueue := [] }

/-- The words that die bridges retry into these tiles are gone, and the count of their failures with them (R324). -/
def dropRetries (nos : List Nat) (s : State) : State :=
  { s with lnk := { s.lnk with bridgeFails := s.lnk.bridgeFails.filter fun e => !nos.contains (e.1 / 16) } }

/-- A partition drains: what its tiles have in progress ends, and the words left are counted in FAB_RESIDUE. -/
def drainPart (f : Nat) (s : State) : State :=
  match Tbl.get? s.parts f with
  | none => s
  | some p =>
    let nos := (partNos p).filter fun t => Tbl.has s.tiles t
    let n := (nos.map fun t => tileResidue (tileAt s t)).sum
    onPart f (fun p => { p with held := false, stalls := [],
                                counters := { p.counters with fabResidue := p.counters.fabResidue + BitVec.ofNat 64 n } })
      (onTiles nos quietTile (dropRetries (partNos p) s))

/-! ### Descriptors and tier work (R190) -/

/-- Bursts of a descriptor in flight. -/
def flying (s : State) (d : Nat) : Nat := (s.fox.map fun e => (e.bursts.filter fun b => b.desc == d).length).sum

/-- Descriptors of a command. -/
def descsOf (s : State) (k : Nat × Nat) : List (Nat × Desc) := s.descs.filter fun e => e.2.queue == k.1 && e.2.seq == k.2

/-- Segments of these descriptors that an engine holds for tiles that are not in LOAD are dropped, unwritten. -/
def dropHeldBursts (ds : List Nat) (s : State) : State :=
  let cut := fun (b : Burst) =>
    if ds.contains b.desc then { b with writes := b.writes.filter fun w => (tileAt s w.1).phase == .load } else b
  { s with fox := s.fox.map fun e =>
      { e with bursts := (e.bursts.map cut).filter fun b => !ds.contains b.desc || b.writes != [] || b.out != [] } }

/-- Unissued descriptors are discarded; what is issued lands void. -/
def discardDescs (k : Nat × Nat) (s : State) : State :=
  let mine := (descsOf s k).map (·.1)
  let s1 := dropHeldBursts mine s
  let spoil := fun (e : Nat × Desc) => if mine.contains e.1 then (e.1, { e.2 with todo := [], void := true, withdrawn := true }) else e
  { s1 with descs := (s1.descs.filter fun e => !(mine.contains e.1 && flying s1 e.1 == 0)).map spoil }

/-! ### Tier engines (R181) -/

def mkTier (kind : TierKind) (k : Nat × Nat) (handle idx : Nat) : TierJob :=
  { kind, queue := k.1, seq := k.2, handle, idx, member := 0, dst := 0, mask := 0, void := false, supply := none }

/-- Work that takes precedence at the next 4 KiB block. -/
def urgentTier (j : TierJob) : Bool := j.kind == .pageWait || j.kind == .restream

/-- An accepted OBJ_PIN that waits for pages in motion, so that they are moved no further (R164: log 28). -/
def pinWaits (s : State) (h : Nat) : Bool :=
  s.cmds.any fun c => c.op == 0x2A && c.done.isNone && fieldAt c.pkt 32 4 == h && byteAt c.pkt 36 == 1

/-- Is a page still to be moved up: it lies in DDR5, and its object is not pinned (R167, R188)? -/
def movesUp (s : State) (h page : Nat) (o : Obj) : Bool := !o.pinned && !pinWaits s h && inDdr (o.pages.getD page 0)

/-- Could the move of a page that a stream has reached start, were an engine free? -/
def pageCanMove (s : State) (h page : Nat) (o : Obj) : Bool :=
  movesUp s h page o && stackFree s (stackFor o.stackMask page) != 0

/-- May queued work start: a page only with a free one to move to and while nothing else moves it (R163, R167, R188)? Cold fetches
start by their own row. -/
def tierStarts (s : State) (j : TierJob) : Bool :=
  match j.kind with
  | .cold => false
  | .pageWait =>
    (Tbl.get? s.objs j.handle).any fun o =>
      pageCanMove s j.handle j.idx o && !o.moving.contains j.idx
  | .move => if j.dst = 2 then ddrFree s != 0 else stackFree s (stackFor j.mask j.idx) != 0
  | _ => true

/-- Put a job at the front of an engine's work; a page of PAGE_WAIT resolution is in motion from now on. -/
def giveEngine (i : Nat) (j : TierJob) (s : State) : State :=
  let s1 := if j.kind == .pageWait then onObj j.handle (fun o => { o with moving := o.moving ++ [j.idx] }) s else s
  { s1 with tiers := modAt s1.tiers i fun e => { e with work := j :: e.work }, tierQueue := s1.tierQueue.erase j }

/-- The work of a command or descriptor ends: what an engine has not started is discarded, what it has runs to its end and is void,
but for a page that PAGE_WAIT resolution moves (R190). Pages that no engine moves are no longer in motion. -/
def discardJobs (mine : TierJob → Bool) (s : State) : State :=
  let spoil := fun (j : TierJob) => if mine j && j.kind != .pageWait then { j with void := true } else j
  let s1 := (s.tierQueue.filter fun j => mine j && j.kind == .move).foldl
    (fun a j => onObj j.handle (fun o => { o with moving := o.moving.erase j.idx }) a) s
  { s1 with tierQueue := s1.tierQueue.filter fun j => !mine j,
            tiers := s1.tiers.map fun e => { e with work := e.work.map spoil } }

def discardTier (k : Nat × Nat) (s : State) : State := discardJobs (fun j => j.queue == k.1 && j.seq == k.2) s

/-- The slot a MODEL_STAGE acted on, in its RESULT (R224): the one it builds, or the one a RESUPPLY names. -/
def slotResult (c : Cmd) : List Byte :=
  match c.staging with
  | some g => [BitVec.ofNat 8 (ofBool g.slotB)]
  | none => [BitVec.ofNat 8 (byteAt c.pkt 52)]

/-- Has a shard that would start now lost its source (R202)? -/
def sourceGone (s : State) (j : TierJob) : Bool :=
  j.kind == .shard && j.supply.isNone && ((cmdAt s (j.queue, j.seq)).bind (·.staging)).any fun g =>
    (g.members[j.member]?).any fun m => m.source == 0 && (liveObj s m.srcAddr).isNone

/-- Queued work starts on engine `i`; a shard whose source was released fails its MODEL_STAGE with OBJECT_GONE instead (R202). -/
def startTier (i : Nat) (j : TierJob) (s : State) : State :=
  if sourceGone s j then
    let k := (j.queue, j.seq)
    decide_ k .objectGone (((cmdAt s k).map slotResult).getD []) (discardTier k s)
  else giveEngine i j s

/-- Free engines take queued work, the oldest that can start, PAGE_WAIT resolution and re-streaming first, and these two even from an
engine at other work. `fuel` bounds the jobs taken. -/
def dispatchTiers : Nat → State → State
  | 0, s => s
  | f + 1, s =>
    let idle := s.tiers.findIdx? fun e => !e.failed && e.work.isEmpty
    let busy := s.tiers.findIdx? fun e => !e.failed && !(e.work.head?.any urgentTier)
    match s.tierQueue.find? fun j => urgentTier j && tierStarts s j with
    | some j =>
      match idle.or busy with
      | some i => dispatchTiers f (startTier i j s)
      | none => s
    | none =>
      match s.tierQueue.find? fun j => !urgentTier j && tierStarts s j, idle with
      | some j, some i => dispatchTiers f (startTier i j s)
      | _, _ => s

/-- An OBJ_PIN takes effect once no page of its object is in motion (R163, R164). -/
def settlePins (s : State) : State :=
  (s.cmds.filter fun c => c.op == 0x2A && c.done.isNone).foldl (fun a c =>
    let h := fieldAt c.pkt 32 4
    match liveObj a h with
    | none => decide_ c.key .objectGone [] a
    | some o =>
      if o.moving != [] then a
      else answer c.key (o.pages.flatMap (leBytes 8 ·)) [] (onObj h (fun o => { o with pinned := true }) a)) s

/-- What tier engines and pages in motion held up goes on: waiting pins, and work that can start. -/
def dispatch (s : State) : State :=
  let s1 := settlePins s
  dispatchTiers s1.tierQueue.length s1

/-- The job an engine works on. -/
def engineJob (s : State) (i : Nat) : Option TierJob :=
  (s.tiers[i]?).bind fun e => if e.failed then none else e.work.head?

/-- An engine's job is over; an object that only it still referenced is freed (R165). -/
def popEngine (i : Nat) (s : State) : State :=
  dispatch (sweepObjs { s with tiers := modAt s.tiers i fun e => { e with work := e.work.drop 1 } })

/-- Has everything that a decided command had in the air ended (R190)? -/
def landedAll (s : State) (k : Nat × Nat) : Bool :=
  !((descsOf s k).any fun d => flying s d.1 != 0)
    && !(s.tiers.any fun e => e.work.any fun j => j.queue == k.1 && j.seq == k.2 && j.kind != .pageWait)

/-! ### Huddles (R147-R152) -/

def planOf (s : State) (job : Nat) : Option Plan := (Tbl.get? s.jobs job).bind (·.plan)

/-- A 16-byte segment header (R149). -/
def segHeader (s : State) (hseq peer gate flags nrows nexp rwords : Nat) : List Byte :=
  leBytes 4 hseq ++ [BitVec.ofNat 8 s.glb.partId.toNat, BitVec.ofNat 8 peer, BitVec.ofNat 8 gate, BitVec.ofNat 8 flags]
    ++ leBytes 4 nrows ++ leBytes 2 nexp ++ leBytes 2 rwords

/-- Rally count at which a huddle is scheduled (R148). -/
def huddleRally (p : Plan) (hseq : Nat) : W64 := BitVec.ofNat 64 (p.rally0 + hseq * p.period)

def planGateOf (p : Plan) (g : Nat) : Option PlanGate := p.gates.find? (·.gateId == g)

/-- Has a rally count been reached? -/
def rallyReached (s : State) (t : W64) : Bool := (s.clk.rally - t).toNat < 2 ^ 63

/-- PEER_LOST (R152). -/
def postPeerLost (peer gate hseq cause part job : Nat) (s : State) : State :=
  postEvent 0x0502 (0x40 + part) job ([BitVec.ofNat 8 peer, BitVec.ofNat 8 gate] ++ leBytes 4 hseq
    ++ [BitVec.ofNat 8 cause] ++ List.replicate 9 0) s

/-- Huddles of zero RUNs, open now, that some peers are down for: each posts PEER_LOST with cause 2, as an event only (R124, R299). -/
def loseLater (s : State) : State :=
  let lost := fun (l : Later) => l.zero && l.sentAt.isSome && !(peerAt s l.peer).up
  (s.lnk.later.filter lost).foldl (fun a l => postPeerLost l.peer l.gateId l.hseq 2 l.part l.job a)
    { s with lnk := { s.lnk with later := s.lnk.later.filter (!lost ·) } }

/-- Scheduled headers whose rally count has come are sent; those of zero RUNs then await the peer's header (R124). -/
def sendLater (s : State) : State :=
  let due := s.lnk.later.filter fun l => l.sentAt.isNone && rallyReached s l.at_
  let keep := s.lnk.later.filterMap fun l =>
    if l.sentAt.isNone && rallyReached s l.at_ then
      (if l.zero then some { l with sentAt := some s.clk.rackTime } else none)
    else some l
  loseLater (due.foldl (fun a l => (sendMessage l.peer 0 l.header a).2) { s with lnk := { s.lnk with later := keep } })

/-- Headers for huddles `from_` to the last of a RUN, to every peer of the plan, at their rally counts or at once. -/
def scheduleHeaders (job part base from_ : Nat) (zero : Bool) (s : State) : State :=
  match planOf s job with
  | none => s
  | some p =>
    let hs := (p.huddles.zipIdx).drop from_
    let l := hs.flatMap fun h =>
      let rw := ((planGateOf p h.1.1).map (·.rwords)).getD 1
      p.peers.map fun q =>
        ({ at_ := huddleRally p (base + h.2), peer := q.1, part, job, hseq := base + h.2, gateId := h.1.1, zero, sentAt := none,
           header := segHeader s (base + h.2) q.1 h.1.1 (1 + 2 * ofBool (!zero) + 4 * h.1.2) 0 0 rw } : Later)
    sendLater { s with lnk := { s.lnk with later := s.lnk.later ++ l } }

/-- The huddle a partition has open is aborted toward every peer whose segment is not complete, and the RUN's later huddles
at their rally counts (R152). -/
def abortCurrent (f : Nat) (c : Cmd) (s : State) : State :=
  let ri := match c.run with | some r => some r | none => (c.stages[c.stageAt]?).bind (·.run)
  match ri with
  | none => s
  | some r =>
    match (Tbl.get? s.parts f).bind (fun p => if p.running = some c.key then p.huddle else none), planOf s c.job with
    | some h, some p =>
      if h.opened then
        let rw := ((planGateOf p h.gateId).map (·.rwords)).getD 1
        let open_ := p.peers.filter fun q => !h.complete.contains q.1
        let s1 := open_.foldl (fun a q =>
          (sendMessage q.1 0 (segHeader a h.hseq q.1 h.gateId (3 + 4 * ofBool h.combine) 0 0 rw) a).2) s
        scheduleHeaders c.job f r.hseqBase r.huddleIdx false (onPart f (fun p => { p with huddle := none }) s1)
      else scheduleHeaders c.job f r.hseqBase (r.huddleIdx - 1) false (onPart f (fun p => { p with huddle := none }) s)
    | _, _ => scheduleHeaders c.job f r.hseqBase r.huddleIdx false s

/-- The same for the RUNs of a chain's stages that have not started (R152). -/
def abortHuddles (f : Nat) (c : Cmd) (s : State) : State :=
  (c.stages.drop (c.stageAt + 1)).foldl (fun a g => match g.run with
    | some r => scheduleHeaders c.job f r.hseqBase 0 false a
    | none => a) (abortCurrent f c s)

/-! ### The end of what a partition runs -/

/-- RESULT of a RUN but for its energy (R226). -/
def runResult (r : RunInfo) : List Byte :=
  leBytes 4 r.executed ++ [BitVec.ofNat 8 (ofBool (r.degraded != []) + 2 * ofBool (r.substs != []))] ++ [0, 0, 0]

/-- CAPACITY_DROP, EXPERT_SUBST and DEGRADED_LAYER of a RUN that completes (R135, R146, R201). -/
def runEvents (p : Part) (job : Nat) (r : RunInfo) (s : State) : State :=
  let src := 0x40 + p.first
  let s1 := r.drops.foldl (fun a g =>
    let d := g.2.filter fun e => e.2 != 0
    if d = [] then a
    else
      let top := d.foldl (fun (b : Nat × Nat) e => if e.2 > b.2 then e else b) (0, 0)
      postEvent 0x0701 src job ([BitVec.ofNat 8 g.1, 0] ++ leBytes 4 (d.map (·.2)).sum ++ leBytes 2 d.length
        ++ leBytes 2 top.1 ++ leBytes 4 top.2 ++ [0, 0]) a) s
  let s2 := r.substs.foldl (fun a g =>
    postEvent 0x0404 src job ([BitVec.ofNat 8 g.1, 0] ++ leBytes 2 g.2.1 ++ leBytes 4 g.2.2.1 ++ leBytes 2 g.2.2.2
      ++ List.replicate 6 0) a) s1
  r.degraded.foldl (fun a g =>
    postEvent 0x0405 src job (leBytes 4 g.2.1 ++ leBytes 2 g.1
      ++ [BitVec.ofNat 8 p.first, BitVec.ofNat 8 (p.first + p.count - 1)] ++ leBytes 4 g.2.2 ++ List.replicate 4 0) a) s2

/-- The command a partition would start next: the first of its queue that is not decided and whose job is not SAVED, but for the
CTX_RESTORE that ends that (R251, R252). -/
def startHead (s : State) (p : Part) : Option Cmd :=
  (p.queue.filterMap (queueCmd s)).find? fun c => c.done.isNone && (!jobSaved s c.job || c.op == 0x59)

/-- A command with demand has ended on a partition, which is free, and drew `w` W: the next command inherits its demand, where it has one
and stands in the queue already; else fill takes the tiles and falls at the ramp limit (R310, R311). -/
def endDemand (f w : Nat) (s : State) : State :=
  match Tbl.get? s.parts f with
  | none => s
  | some p =>
    let s1 := onPart f (fun x => { x with lastDemandEnd := some s.clk.rackTime }) s
    let heir := if running s && p.saving.isNone then (startHead s p).filter fun c => hasDemand c.op && c.queue != fwQueue else none
    match heir with
    | some c => onPart f (fun x => { x with handed := some c.key }) s1
    | none => takeFill f w (onPart f (fun x => { x with pace := none }) s1)

/-- The demand that a command was to inherit ends without it (R311). -/
def unhand (f : Nat) (s : State) : State :=
  match Tbl.get? s.parts f with
  | some p => if p.handed.isSome then takeFill f (runPower s p) (onPart f (fun x => { x with handed := none, pace := none }) s) else s
  | none => s

/-- RESULT of the command a partition runs, when it ends with a status: a RUN's own, a chain's failed stage (R227), that no item of its
image failed an IMAGE_BIND that has no partition any more (R224). -/
def endResult (c : Cmd) (st : Status) : List Byte :=
  if c.op = 0x31 then [BitVec.ofNat 8 (if isOk st || !c.started then 0xFF else c.stageAt)]
  else if c.op = 0x19 && st = .noPartition then bindNone
  else match c.run with | some r => runResult r | none => c.result

/-- The RUN a command is in: its own, or that of the stage of a chain in execution. -/
def curRun (c : Cmd) : Option RunInfo :=
  if c.op = 0x31 then (c.stages[c.stageAt]?).bind (·.run) else c.run

def setRun (c : Cmd) (r : RunInfo) : Cmd :=
  if c.op = 0x31 then { c with stages := modAt c.stages c.stageAt fun g => { g with run := some r } } else { c with run := some r }

/-- The partition is free for its next command, and what ran on it no longer draws its demand. -/
def freePart (f : Nat) (s : State) : State :=
  match Tbl.get? s.parts f with
  | none => s
  | some p =>
    let s1 := onPart f (fun p => { p with running := none, huddle := none, held := false }) s
    if demandRunning s p then endDemand f (runPower s p) s1 else s1

/-- The command a partition runs fails: its work is discarded, its huddles aborted, the partition drains, and its status is
decided. Nothing else is affected (R87, R190, R200). -/
def failRunning (k : Nat × Nat) (st : Status) (s : State) : State :=
  match cmdAt s k with
  | none => s
  | some c =>
    if c.done.isSome then s
    else
      let s1 := decide_ k st (endResult c st) (discardTier k (discardDescs k s))
      match c.part.bind (Tbl.get? s.parts) with
      | none => settle s1
      | some p =>
        if p.running = some k then
          let s2 := abortHuddles p.first c (drainPart p.first s1)
          let s3 := match curRun c with | some r => runEvents p c.job r s2 | none => s2
          settle (freePart p.first s3)
        else settle s1

/-- A started or waiting command leaves every partition queue, and the demand it was to inherit. -/
def unqueue (k : Nat × Nat) (s : State) : State :=
  let s1 := { s with parts := Tbl.mapVals s.parts fun p =>
      { p with queue := p.queue.filter (· != k), suspended := p.suspended.filter (· != k) } }
  ((Tbl.vals s.parts).filter fun p => p.handed == some k).foldl (fun a p => unhand p.first a) s1

/-- The RUN whose command a descriptor serves fails with a status. -/
def failDesc (d : Desc) (st : Status) (s : State) : State := failRunning (d.queue, d.seq) st s

end Sys2Proof.Machine
end

