-- ==== Sys2Proof/Machine/Numerics.lean ====
section
/-! DEFINITION. Number formats and arithmetic (R56-R72): exact dyadic values, decoding, rounding, output conversion, the
stochastic rounding generators and the functions of the vector ALU. -/
namespace Sys2Proof.Machine

/-- A value: NaN with its sign, an infinity, or ±m × 2^e. -/
inductive Num where
  | nan (neg : Bool)
  | inf (neg : Bool)
  | fin (neg : Bool) (m : Nat) (e : Int)
  deriving DecidableEq, Repr

/-- m × 2^k for an integer k ≥ 0, else ⌊m / 2^-k⌋. -/
def shlInt (m : Nat) (k : Int) : Nat := if 0 ≤ k then m * 2 ^ k.toNat else m / 2 ^ (-k).toNat

/-- The format codes of R56. -/
def fmtOf : Nat → Option Fmt
  | 0 => some .fp32 | 1 => some .bf16 | 2 => some .fp16 | 3 => some .e4m3 | 4 => some .e5m2 | 5 => some .mxe4m3
  | 6 => some .mxe5m2 | 7 => some .mxe3m2 | 8 => some .mxe2m3 | 9 => some .mxe2m1 | 10 => some .mxint8 | 11 => some .int8
  | 12 => some .int4 | 13 => some .refine | _ => none

/-- Exponent bits, mantissa bits and bias of a floating format (R57). -/
def fpShape : Fmt → Option (Nat × Nat × Nat)
  | .fp32 => some (8, 23, 127) | .bf16 => some (8, 7, 127) | .fp16 => some (5, 10, 15) | .e4m3 => some (4, 3, 7)
  | .e5m2 => some (5, 2, 15) | .mxe4m3 => some (4, 3, 7) | .mxe5m2 => some (5, 2, 15) | .mxe3m2 => some (3, 2, 3)
  | .mxe2m3 => some (2, 3, 1) | .mxe2m1 => some (2, 1, 1) | _ => none

/-- Element bits as stored: MXFP6 takes a byte, 4-bit formats half a byte (R40, R57). -/
def fmtBits : Fmt → Nat
  | .fp32 => 32 | .bf16 => 16 | .fp16 => 16 | .mxe2m1 => 4 | .int4 => 4 | .refine => 4 | _ => 8

def isMx : Fmt → Bool
  | .mxe4m3 => true | .mxe5m2 => true | .mxe3m2 => true | .mxe2m3 => true | .mxe2m1 => true | .mxint8 => true | _ => false

/-- The value of an element's code (R57, R58). -/
def decodeElem (f : Fmt) (code : Nat) : Num :=
  match fpShape f with
  | some (eb, mb, bias) =>
    let neg := bitAt code (eb + mb)
    let ex := bitsOf code mb eb
    let m := bitsOf code 0 mb
    let top := ex = 2 ^ eb - 1
    match f with
    | .e4m3 | .mxe4m3 =>
      if top && m = 7 then .nan neg
      else if ex = 0 then .fin neg m (1 - (bias : Int) - mb) else .fin neg (2 ^ mb + m) ((ex : Int) - bias - mb)
    | .mxe3m2 | .mxe2m3 | .mxe2m1 =>
      if ex = 0 then .fin neg m (1 - (bias : Int) - mb) else .fin neg (2 ^ mb + m) ((ex : Int) - bias - mb)
    | _ =>
      if top then (if m = 0 then .inf neg else .nan neg)
      else if ex = 0 then .fin neg m (1 - (bias : Int) - mb) else .fin neg (2 ^ mb + m) ((ex : Int) - bias - mb)
  | none =>
    match f with
    | .mxint8 => let v := toSigned 8 code; .fin (v < 0) v.natAbs (-6)
    | .int8 => let v := toSigned 8 code; .fin (v < 0) v.natAbs 0
    | _ => let v := toSigned 4 code; .fin (v < 0) v.natAbs 0

/-- The value of an FP32 pattern. -/
def ofFp32 (w : W32) : Num := decodeElem .fp32 w.toNat

/-- Multiply by 2^k. -/
def Num.scale (k : Int) : Num → Num
  | .fin s m e => .fin s m (e + k)
  | x => x

def Num.neg? : Num → Bool
  | .nan s => s | .inf s => s | .fin s _ _ => s

/-- An exact product; infinity × 0 is a NaN (R65). -/
def Num.mul : Num → Num → Num
  | .nan s, _ => .nan s
  | _, .nan s => .nan s
  | .inf s, .inf t => .inf (s != t)
  | .inf s, .fin t m _ => if m = 0 then .nan false else .inf (s != t)
  | .fin s m _, .inf t => if m = 0 then .nan false else .inf (s != t)
  | .fin s m e, .fin t n k => .fin (s != t) (m * n) (e + k)

/-- An exact sum. A zero sum is −0 when every term is −0, else +0 (R64); no terms sum to +0. -/
def Num.sum (l : List Num) : Num :=
  if l.any (fun x => match x with | .nan _ => true | _ => false) then .nan false
  else
    let pos := l.any fun x => x == .inf false
    let ng := l.any fun x => x == .inf true
    if pos && ng then .nan false
    else if pos then .inf false
    else if ng then .inf true
    else
      let e0 := l.foldl (fun a x => match x with | .fin _ _ e => min a e | _ => a) 0
      let t : Int := l.foldl (fun a x => match x with
        | .fin s m e => if s then a - (shlInt m (e - e0) : Int) else a + (shlInt m (e - e0) : Int)
        | _ => a) 0
      if t = 0 then
        .fin (!l.isEmpty && l.all fun x => match x with | .fin s m _ => s && m == 0 | _ => false) 0 0
      else .fin (t < 0) t.natAbs e0

def Num.add (a b : Num) : Num := Num.sum [a, b]

/-- How a conversion rounds: to nearest even, or stochastic with the 16 bits drawn (R68). -/
inductive Round where
  | rne
  | sr (r : Nat)
  deriving DecidableEq, Repr

/-- m × 2^k rounded to an integer; under SR the larger magnitude when R < f, the 16 leading discarded bits (R68). -/
def roundInt (rm : Round) (m : Nat) (k : Int) : Nat :=
  if 0 ≤ k then m * 2 ^ k.toNat
  else
    let d := 2 ^ (-k).toNat
    let q := m / d
    let r := m % d
    match rm with
    | .rne => if 2 * r > d || (2 * r = d && q % 2 = 1) then q + 1 else q
    | .sr x => if x < r * 65536 / d then q + 1 else q

/-- Magnitude bits of ±m × 2^e in a floating shape, rounded with an unbounded exponent (R66). -/
def roundFp (mb bias : Nat) (rm : Round) (m : Nat) (e : Int) : Nat :=
  if m = 0 then 0
  else
    let low : Int := 1 - (bias : Int) - mb
    let q := max ((m.log2 : Int) + e - mb) low
    let n := match rm with
      | .rne => roundInt .rne m (e - q)
      | .sr x => if q = low && roundInt (.sr 65536) m (e - q) = 0 then 0 else roundInt (.sr x) m (e - q)
    if n < 2 ^ mb then n else ((q + mb + bias - 1).toNat) * 2 ^ mb + n

/-- An FP32 pattern, rounded to nearest even; every NaN is the canonical one (R65). -/
def toFp32 (x : Num) : W32 :=
  match x with
  | .nan _ => 0x7FC00000
  | .inf s => if s then 0xFF800000 else 0x7F800000
  | .fin s m e =>
    let b := min (roundFp 23 127 .rne m e) 0x7F800000
    BitVec.ofNat 32 ((if s then 0x80000000 else 0) + b)

/-- FP32 addition (R65). -/
def fadd (a b : W32) : W32 := toFp32 (Num.add (ofFp32 a) (ofFp32 b))

/-- The code of a value in a target format, by the table of R66; elements of an MX block carry their block's scaling
already. -/
def encodeElem (f : Fmt) (rm : Round) (x : Num) : Nat :=
  match fpShape f with
  | some (eb, mb, bias) =>
    let sign := if x.neg? then 2 ^ (eb + mb) else 0
    let top := (2 ^ eb - 1) * 2 ^ mb
    match f, x with
    | .bf16, .nan _ => 0x7FC0
    | .fp16, .nan _ => 0x7E00
    | .fp32, .nan _ => 0x7FC00000
    | .e4m3, .nan _ => sign + 0x7F
    | .e5m2, .nan _ => sign + 0x7F
    | _, .nan _ => 0
    | .e4m3, .inf _ => sign + 0x7E
    | _, .inf _ => if isMx f then 0 else sign + top
    | _, .fin _ m e =>
      let b := roundFp mb bias rm m e
      match f with
      | .e4m3 | .mxe4m3 => sign + min b 0x7E
      | .mxe5m2 => sign + min b 0x7B
      | .mxe3m2 => sign + min b 0x1F
      | .mxe2m3 => sign + min b 0x1F
      | .mxe2m1 => sign + min b 0x7
      | _ => sign + min b top
  | none =>
    let bits := if f = .int4 || f = .refine then 4 else 8
    let k : Int := if f = .mxint8 then 6 else 0
    let hi : Int := 2 ^ (bits - 1) - 1
    match x with
    | .nan _ => 0
    | .inf s => if f = .mxint8 then 0 else ofSigned bits (if s then -hi - 1 else hi)
    | .fin s m e =>
      let n : Int := roundInt rm m (e + k)
      ofSigned bits (max (-hi - 1) (min hi (if s then -n else n)))

/-- One advance of a generator lane (R68). -/
def srNext (x : W32) : W32 :=
  let a := x ^^^ (x <<< 13)
  let b := a ^^^ (a >>> 17)
  b ^^^ (b <<< 5)

/-- The lanes of a generator seeded (R68): lane i holds SEED XOR (i × 0x9E37_79B9), `flip` the bitwise NOT; 0 becomes 1. -/
def srSeed (seed : W32) (flip : Bool) : List W32 :=
  (List.range 64).map fun i =>
    let v := seed ^^^ BitVec.ofNat 32 (i * 0x9E3779B9)
    let w := if flip then ~~~v else v
    if w = 0 then 1 else w

/-- One element converted, with its lane advanced when it is under SR. -/
def convElem (f : Fmt) (sr : Bool) (lane : W32) (x : Num) : Nat × W32 :=
  if sr then
    let l := srNext lane
    (encodeElem f (.sr (l.toNat % 65536)) x, l)
  else (encodeElem f .rne x, lane)

/-- emax of R67. -/
def mxEmax : Fmt → Int
  | .mxe4m3 => 8 | .mxe5m2 => 15 | .mxe3m2 => 4 | .mxe2m3 => 2 | .mxe2m1 => 2 | _ => 0

/-- ⌊log2⌋ of a nonzero magnitude. -/
def floorLog2 : Num → Option Int
  | .fin _ m e => if m = 0 then none else some ((m.log2 : Int) + e)
  | _ => none

/-- A larger magnitude (finite). -/
def magLe (a b : Num) : Bool :=
  match a, b with
  | .fin _ m e, .fin _ n k =>
    let e0 := min e k
    decide (shlInt m (e - e0) ≤ shlInt n (k - e0))
  | _, _ => false

/-- The scale code of a block of values in unmasked columns, and the exponent to scale by (R67). -/
def mxScale (f : Fmt) (vals : List Num) : Nat × Int :=
  if vals.any (fun x => match x with | .fin _ _ _ => false | _ => true) then (0xFF, 0)
  else
    match (vals.filterMap floorLog2).max? with
    | none => (0, 0)
    | some l =>
      let e := max (-127) (min 127 (l - mxEmax f))
      ((e + 127).toNat, e)

/-- One value of a row on its way out: masked columns hold none. -/
abbrev OutVal := Option Num

/-- Elements converted one after another with the lanes of R68, lane n mod 64; a masked element is 0 and draws nothing. -/
def convRun (f : Fmt) (sr : Bool) : List W32 → Nat → List OutVal → List Nat × List W32
  | lanes, _, [] => ([], lanes)
  | lanes, n, none :: t =>
    let (cs, l) := convRun f sr lanes (n + 1) t
    (0 :: cs, l)
  | lanes, n, some x :: t =>
    let (c, l1) := convElem f sr (lanes.getD (n % 64) 0) x
    let (cs, l2) := convRun f sr (lanes.set (n % 64) l1) (n + 1) t
    (c :: cs, l2)

/-- The blocks of an MX row: element codes and scale codes. A block with a special value, and one whose X is 0, gets elements of
all bits 0, which draw nothing (R67). -/
def convMx (f : Fmt) (sr : Bool) : List W32 → Nat → List (List OutVal) → List Nat × List Nat × List W32
  | lanes, _, [] => ([], [], lanes)
  | lanes, n, blk :: t =>
    let (code, e) := mxScale f (blk.filterMap id)
    if code = 0xFF || ((blk.filterMap id).filterMap floorLog2).isEmpty then
      let (cs, ss, l) := convMx f sr lanes (n + blk.length) t
      (List.replicate blk.length 0 ++ cs, code :: ss, l)
    else
      let (c, l1) := convRun f sr lanes n (blk.map fun v => v.map (Num.scale (-e)))
      let (cs, ss, l2) := convMx f sr l1 (n + blk.length) t
      (c ++ cs, code :: ss, l2)

/-- A list cut into pieces of n. -/
def pieces {α : Type} (n : Nat) : Nat → List α → List (List α)
  | 0, _ => []
  | _, [] => []
  | f + 1, l => l.take n :: pieces n f (l.drop n)

/-- Element codes packed as a row is stored: 4-bit codes two to a byte, even element low (R58). -/
def packElems (f : Fmt) (codes : List Nat) : List Byte :=
  if fmtBits f = 4 then
    (pieces 2 (codes.length) codes).map fun p => BitVec.ofNat 8 (p.getD 0 0 + 16 * p.getD 1 0)
  else codes.flatMap fun c => leBytes (fmtBits f / 8) c

/-- Element n of packed bytes. -/
def elemAt (f : Fmt) (bs : List Byte) (n : Nat) : Nat :=
  if fmtBits f = 4 then bitsOf (byteAt bs (n / 2)) (4 * (n % 2)) 4
  else fieldAt bs (n * (fmtBits f / 8)) (fmtBits f / 8)

/-- A row converted: element bytes, scale bytes (MX) and the lanes after it (R66-R68). FP32 is a copy, which converts no element and so
advances no lane under SR: DESIGN CHOICE (log 24). -/
def convRow (f : Fmt) (sr : Bool) (lanes : List W32) (row : List (Option W32)) : List Byte × List Byte × List W32 :=
  if f = .fp32 then (row.flatMap fun v => leBytes 4 ((v.map (·.toNat)).getD 0), [], lanes)
  else if isMx f then
    let (cs, ss, l) := convMx f sr lanes 0 (pieces 32 (row.length) (row.map fun v => v.map ofFp32))
    (packElems f cs, ss.map (BitVec.ofNat 8), l)
  else
    let (cs, l) := convRun f sr lanes 0 (row.map fun v => v.map ofFp32)
    (packElems f cs, [], l)

/-- The value of a scale code: 2^(e − 127), NaN for 0xFF (R59). -/
def scaleNum (code : Nat) : Num := if code = 0xFF then .nan false else .fin false 1 ((code : Int) - 127)

/-! ### The vector ALU (R69, R70) -/

def isNan32 (w : W32) : Bool := bitsOf w.toNat 23 8 = 255 && bitsOf w.toNat 0 23 != 0

/-- The first NaN among the operands with its quiet bit set (R69). -/
def firstNan (l : List W32) : Option W32 := (l.find? isNan32).map (· ||| 0x00400000)

/-- A quiet NaN with a free sign and payload, for an invalid operation on operands of which none is a NaN. -/
def freeNan (vfn : Nat) (a b c : W32) : W32 := 0x7FC00000 ||| Config.vectorNan vfn a b c

/-- A floating result of the vector ALU. -/
def vResult (vfn : Nat) (ops : List W32) (x : Num) : W32 :=
  match firstNan ops with
  | some n => n
  | none =>
    match x with
    | .nan _ => freeNan vfn (ops.getD 0 0) (ops.getD 1 0) (ops.getD 2 0)
    | y => toFp32 y

/-- IEEE order of two FP32 patterns that are not NaN: a < b, with −0 = +0. -/
def fltNum (a b : Num) : Bool :=
  match a, b with
  | .nan _, _ => false
  | _, .nan _ => false
  | .inf s, .inf t => s && !t
  | .inf s, .fin _ _ _ => s
  | .fin _ _ _, .inf t => !t
  | .fin s m e, .fin t n k =>
    let e0 := min e k
    let x : Int := shlInt m (e - e0)
    let y : Int := shlInt n (k - e0)
    decide ((if s then -x else x) < (if t then -y else y))

def flt32 (a b : W32) : Bool := fltNum (ofFp32 a) (ofFp32 b)

def feq32 (a b : W32) : Bool := !isNan32 a && !isNan32 b && !flt32 a b && !flt32 b a

/-- Is it −0? -/
def isNegZero (w : W32) : Bool := w == 0x80000000

/-- The lesser operand, with −0 below +0; the other one when one is a NaN (R69). -/
def fmin32 (a b : W32) : W32 :=
  match isNan32 a, isNan32 b with
  | true, true => a ||| 0x00400000
  | true, false => b
  | false, true => a
  | false, false => if flt32 a b then a else if flt32 b a then b else if isNegZero b then b else a

def fmax32 (a b : W32) : W32 :=
  match isNan32 a, isNan32 b with
  | true, true => a ||| 0x00400000
  | true, false => b
  | false, true => a
  | false, false => if flt32 a b then b else if flt32 b a then a else if isNegZero a then b else a

/-- ⌊√n⌋ by `fuel` binary digits. -/
def isqrtAux (n : Nat) : Nat → Nat → Nat
  | 0, r => r
  | f + 1, r => let t := r + 2 ^ f; isqrtAux n f (if t * t ≤ n then t else r)

def isqrt (n : Nat) : Nat := isqrtAux n (n.log2 / 2 + 1) 0

/-- ⌊2^64 × 2^(2^−i)⌋ for i = 1, 2, …, by repeated square roots. -/
def exp2Table : Nat → Nat → List Nat
  | 0, _ => []
  | f + 1, v => let r := isqrt (v * 2 ^ 64); r :: exp2Table f r

/-- 2^64 × 2^(n / 2^60), 0 ≤ n < 2^60, from below. -/
def exp2Frac (n : Nat) : Nat :=
  ((exp2Table 60 (2 ^ 65)).zipIdx).foldl (fun acc p => if bitAt n (59 - p.2) then acc * p.1 / 2 ^ 64 else acc) (2 ^ 64)

/-- The FP32 pattern `w` moved by `k - 1` steps of magnitude, 0 ≤ k < 4: within 2 ulp of any value between `w` and its upper
neighbour (R70). -/
def ulpMove (w : W32) (k : Nat) : W32 := w + BitVec.ofNat 32 (k % 4) - 1

/-- An INT32 shift by more than 31, whose result R70 does not state, is free (log 8). -/
def shiftOver (vfn : Nat) (a b : W32) : W32 := Config.vectorShift vfn a b

/-- exp2 (R70): exact cases by the table; otherwise a value within 2 ulp, and a free one where R70 gives no bound. -/
def exp2F (w : W32) : W32 :=
  match firstNan [w] with
  | some n => n
  | none =>
    match ofFp32 w with
    | .inf s => if s then 0 else 0x7F800000
    | .nan _ => w
    | .fin s m e =>
      if fltNum (ofFp32 w) (.fin true 149 0) then 0
      else if !fltNum (ofFp32 w) (.fin false 128 0) then 0x7F800000
      else if fltNum (ofFp32 w) (.fin true 126 0) then Config.exp2Low w
      else
        -- x × 2^60, rounded down; x = 2^60 k + f
        let t : Int := if s then -((ceilDiv (shlInt m (e + 200)) (2 ^ 140) : Nat) : Int) else (shlInt m (e + 60) : Int)
        let k := t / 2 ^ 60
        let f := (t % 2 ^ 60).toNat
        let lowV := exp2Frac f
        let below := BitVec.ofNat 32 ((k + 127).toNat * 2 ^ 23 + (lowV / 2 ^ 41 - 2 ^ 23))
        ulpMove below (Config.ulpStep 0 w)

/-- The fraction bits of log2 of v / 2^140, 1 ≤ v / 2^140 < 2: `fuel` digits. -/
def log2Bits : Nat → Nat → Nat → Nat
  | 0, _, acc => acc
  | f + 1, v, acc =>
    let sq := v * v / 2 ^ 140
    if sq ≥ 2 ^ 141 then log2Bits f (sq / 2) (2 * acc + 1) else log2Bits f sq (2 * acc)

/-- log2 (R70): a value within 2 ulp. -/
def log2F (w : W32) : W32 :=
  match firstNan [w] with
  | some n => n
  | none =>
    match ofFp32 w with
    | .nan _ => w
    | .inf s => if s then freeNan 0x0D w 0 0 else 0x7F800000
    | .fin s m e =>
      if m = 0 then 0xFF800000
      else if s then freeNan 0x0D w 0 0
      else
        let l := m.log2
        let frac := log2Bits 64 (m * 2 ^ (140 - l)) 0
        let t : Int := ((l : Int) + e) * 2 ^ 64 + frac
        if t = 0 then 0
        else
          let mag := t.natAbs
          -- toward zero, then 2 ulp in magnitude
          let q : Int := (mag.log2 : Int) - 23
          let down := shlInt mag (-q)
          let b := toFp32 (.fin (t < 0) down (q - 64))
          ulpMove b (Config.ulpStep 1 w)

end Sys2Proof.Machine
end

