-- ==== Sys2Proof/Machine/ImageFmt.lean ====
section
/-! DEFINITION. The Vynil image as stored: header, sections, symbols, tile map, innings and stream templates (R76-R86, R98), and
the halo steps of a translated one (R120). -/
namespace Sys2Proof.Machine

/-- A section table entry (R79). -/
structure Sect where
  type : Nat
  count : Nat
  off : Nat
  len : Nat
  /-- Its two reserved fields. -/
  res : Nat
  deriving DecidableEq, Repr

/-- A symbol (R81). -/
structure Sym where
  id : Nat
  kind : Nat
  max : Nat
  objType : Nat
  fmt : Nat
  dims : List Nat
  res : Nat
  deriving DecidableEq, Repr

/-- An innings entry (R98). -/
structure Inning where
  cfg : Nat
  slot : Nat
  pfCfg : Nat
  pfSlot : Nat
  flags : Nat
  loopTo : Nat
  loopCnt : Nat
  sCount : Nat
  sFirst : Nat
  deriving DecidableEq, Repr

/-- Header fields (R78). -/
def imgFlags (b : List Byte) : Nat := fieldAt b 16 4
def imgNsect (b : List Byte) : Nat := fieldAt b 20 2
def imgNcg (b : List Byte) : Nat := byteAt b 22
def imgCgf (b : List Byte) : Nat := byteAt b 23
def imgNcfg (b : List Byte) : Nat := byteAt b 24
def imgAccNeed (b : List Byte) : Nat := byteAt b 25
def imgCf (b : List Byte) : Nat := fieldAt b 26 2
def imgSectOff (b : List Byte) : Nat := fieldAt b 32 8
def imgBankData (b : List Byte) : Nat := fieldAt b 40 4

/-- FLAGS bits: 0 NOSPILL, 1 NODEGRADE, 2 REFILL, 3 RENORM, 4 SIGNED. -/
def imgFlag (b : List Byte) (i : Nat) : Bool := bitAt (imgFlags b) i

/-- The section table. -/
def imgSects (b : List Byte) : List Sect :=
  (List.range (imgNsect b)).map fun i =>
    let e := (b.drop (imgSectOff b + 32 * i)).take 32
    { type := fieldAt e 0 2, count := fieldAt e 4 4, off := fieldAt e 8 8, len := fieldAt e 16 8,
      res := fieldAt e 2 2 + fieldAt e 24 8 }

/-- The section of a type. -/
def imgSect (b : List Byte) (type : Nat) : Sect :=
  ((imgSects b).find? (·.type == type)).getD { type, count := 0, off := 0, len := 0, res := 0 }

def parseSym (e : List Byte) : Sym :=
  { id := fieldAt e 0 2, kind := byteAt e 2, max := fieldAt e 4 4, objType := byteAt e 16, fmt := byteAt e 17,
    dims := (List.range 4).map fun i => fieldAt e (20 + 2 * i) 2, res := byteAt e 3 + fieldAt e 18 2 + fieldAt e 28 4 }

def imgSyms (b : List Byte) : List Sym :=
  let s := imgSect b 4
  (List.range s.count).map fun i => parseSym ((b.drop (s.off + 32 * i)).take 32)

def symOf (b : List Byte) (id : Nat) : Option Sym := (imgSyms b).find? (·.id == id)

/-- Dimension symbols. -/
def imgDims (b : List Byte) : List Sym := (imgSyms b).filter (·.kind == 0)

/-- MAX of a dimension symbol. -/
def dimMax (b : List Byte) (id : Nat) : Option Nat := ((imgDims b).find? (·.id == id)).map (·.max)

def isDim (b : List Byte) (id : Nat) : Bool := (dimMax b id).isSome

def isBuf (b : List Byte) (id : Nat) : Bool := (imgSyms b).any fun y => y.kind == 1 && y.id == id

def parseInning (e : List Byte) : Inning :=
  { cfg := byteAt e 0, slot := byteAt e 1, pfCfg := byteAt e 2, pfSlot := byteAt e 3, flags := fieldAt e 4 2,
    loopTo := fieldAt e 6 2, loopCnt := fieldAt e 8 2, sCount := fieldAt e 10 2, sFirst := fieldAt e 12 4 }

def imgInnings (b : List Byte) : List Inning :=
  let s := imgSect b 3
  (List.range s.count).map fun i => parseInning ((b.drop (s.off + 16 * i)).take 16)

/-- Number of stream templates, and template `i`. -/
def imgStreams (b : List Byte) : Nat := (imgSect b 5).count

def imgStream (b : List Byte) (i : Nat) : List Byte := sliceB b ((imgSect b 5).off + 64 * i) 64

/-- Offset in the image of the block of configuration `cfg` for the tile at a position in tile order (R80). -/
def blockOff (b : List Byte) (cfg pos : Nat) : Nat :=
  let m := imgSect b 2
  (imgSect b 1).off + 64 * fieldAt b (m.off + 4 * (cfg * 48 * imgNcg b + pos)) 4

/-- A tile block, zero-filled to the 32 KiB of a config slot. -/
def imgBlock (b : List Byte) (cfg pos : Nat) : List Byte :=
  let o := blockOff b cfg pos
  sliceB ((b.drop o).take (64 * fieldAt b o 2)) 0 32768

/-! ### Halo steps (R120) -/

/-- SEND of `n` words from the bank, and RECV of `n` words into the register file (R93). -/
def sendOp (cid n adv bank : Nat) : Nat := 7 * 2 ^ 59 + cid * 2 ^ 55 + 2 ^ 54 + n * 2 ^ 36 + adv * 2 ^ 34 + bank
def recvOp (cid n adv rf : Nat) : Nat := 8 * 2 ^ 59 + cid * 2 ^ 55 + n * 2 ^ 36 + adv * 2 ^ 34 + rf * 2 ^ 18

/-- BSTORE of `n` vectors from the register file, and the exclusive or of `n` vectors with themselves, which leaves zeros (R91). -/
def bstoreOp (n rf bank : Nat) : Nat := 5 * 2 ^ 59 + 0x31 * 2 ^ 53 + n % 256 * 2 ^ 41 + rf * 2 ^ 31 + bank * 2 ^ 13
def zeroOp (n rf : Nat) : Nat := 5 * 2 ^ 59 + 0x17 * 2 ^ 53 + n % 256 * 2 ^ 41 + rf * 2 ^ 31 + rf * 2 ^ 11 + rf * 2

/-- Where the received words of each exchange stand in the buffer: the exchange and its first register-file unit. -/
def haloPlaces : Nat → List Config.HaloMove → List (Config.HaloMove × Nat)
  | _, [] => []
  | b, m :: l => if m.recv then (m, b) :: haloPlaces (b + 2 * m.vecs) l else (m, b) :: haloPlaces b l

/-- Chunk `k` of an exchange, of at most `c` words. -/
def haloChunk (c adv k : Nat) (x : Config.HaloMove × Nat) : List Nat :=
  let n := min c (2 * x.1.vecs - c * k)
  if n = 0 then []
  else [if x.1.recv then recvOp x.1.cid n adv (x.2 + c * k) else sendOp x.1.cid n adv (x.1.unit + c * k)]

/-- Vectors stored into the bank, 256 at a time. -/
def haloStore : Nat → Nat → Nat → Nat → List Nat
  | 0, _, _, _ => []
  | f + 1, n, rf, bank =>
    if n = 0 then [] else bstoreOp (min 256 n) rf bank :: haloStore f (n - 256) (rf + 512) (bank + 512)

/-- The micro-ops of a tile's part: sends and receives chunk by chunk in turn, then the received rows stored into the halo area, and
zeros for the rows beyond the outer edge. -/
def haloOps (c : Nat) (t : Config.HaloTile) : List Nat :=
  let ms := haloPlaces t.buffer t.moves
  let sends := ms.filter (!·.1.recv)
  let recvs := ms.filter (·.1.recv)
  let rounds := ceilDiv ((t.moves.map (2 * ·.vecs)).foldl max 0) c
  (List.range rounds).flatMap (fun k => sends.flatMap (haloChunk c t.adv k) ++ recvs.flatMap (haloChunk c t.adv k))
    ++ recvs.flatMap (fun x => haloStore x.1.vecs x.1.vecs x.2 x.1.unit)
    ++ t.edges.flatMap (fun e => zeroOp e.2 t.buffer :: haloStore e.2 e.2 t.buffer e.1)

/-- A micro-op moved on by `k` from place `at_`: a loop that goes back there or later goes back as much later. -/
def shiftOp (at_ k w : Nat) : Nat :=
  let dest := bitsOf w 49 8
  if bitsOf w 59 5 = 0 && bitAt w 58 && at_ ≤ dest then w + k * 2 ^ 49 else w

/-- A tile block with micro-ops put in at a place. -/
def insertOps (at_ : Nat) (ops : List Nat) (b : List Byte) : List Byte :=
  let n := fieldAt b 8 2
  let old := (List.range n).map fun i => shiftOp at_ ops.length (fieldAt b (0x400 + 8 * i) 8)
  putB (putB b 8 (leBytes 2 (n + ops.length))) 0x400 ((old.take at_ ++ ops ++ old.drop at_).flatMap (leBytes 8))

/-- A halo step formed in the tile blocks of an image. -/
def formHalo (h : Config.HaloStep) (b : List Byte) : List Byte :=
  h.tiles.foldl (fun a t => putB a (blockOff a h.cfg t.pos) (insertOps t.start (haloOps h.chunk t) (imgBlock a h.cfg t.pos |>.take
    (64 * fieldAt a (blockOff a h.cfg t.pos) 2)))) b

/-- Can a tile's part be formed: it begins a COMPUTE phase, its rows fit the buffer, chunks fit the receiving reservation, and the block
has room for its micro-ops? -/
def haloFits (b : List Byte) (h : Config.HaloStep) (t : Config.HaloTile) : Bool :=
  let k := imgBlock b h.cfg t.pos
  let op := fieldAt k (0x400 + 8 * (t.start - 1)) 8
  let n := fieldAt k 8 2 + (haloOps h.chunk t).length
  let cap := fun (c : Nat) => ((List.range 5).map fun i => byteAt k (0xC0 + 16 * i + c)).foldl max 0
  (if t.start = 0 then byteAt k 14 == 1 else t.start < fieldAt k 8 2 && bitsOf op 59 5 == 0x0C && bitsOf op 57 2 == 1)
    && t.buffer + (((t.moves.filter (·.recv)).map (2 * ·.vecs)).sum) ≤ 1024 && t.edges.all (fun e => t.buffer + 2 * e.2 ≤ 1024 && e.2 ≤ 256)
    && t.adv < 4 && t.moves.all (fun m => h.cids.contains m.cid && (!m.recv || h.chunk ≤ cap m.cid))
    && n ≤ 256 && 0x400 + 8 * n ≤ 64 * fieldAt k 0 2

/-- The bytes of an image object. -/
def imgRaw (s : State) (h : Nat) : List Byte :=
  match Tbl.get? s.objs h, Tbl.get? s.images h with
  | some o, some i => (objSpans s o 0 i.len).flatMap fun x => readMem s x.1 x.2
  | _, _ => []

/-- The native image of a handle: an X3 container's translation, with its halo steps (R105, R120). -/
def imgOf (s : State) (h : Nat) : List Byte :=
  match Tbl.get? s.images h with
  | none => []
  | some i =>
    if i.x3 then ((Config.x3Translate (imgRaw s h)).map fun x => x.halos.foldl (fun b h => formHalo h b) x.image).getD []
    else imgRaw s h

/-- The halo steps of an image: of a translated X3 container alone (R120). -/
def haloSteps (s : State) (h : Nat) : List Config.HaloStep :=
  if ((Tbl.get? s.images h).map (·.x3)).getD false then ((Config.x3Translate (imgRaw s h)).map (·.halos)).getD [] else []

/-- Row size of a buffer symbol: element size × the MAX of its second dimension (R259). -/
def symRow (b : List Byte) (id : Nat) : Nat :=
  match symOf b id with
  | none => 0
  | some y =>
    match fmtOf y.fmt, dimMax b (y.dims.getD 1 0xFFFF) with
    | some f, some n => n * fmtBits f / 8
    | _, _ => 0

end Sys2Proof.Machine
end

