-- ==== Sys2Proof/Machine/ServeOps.lean ====
section
/-! DEFINITION. Operations of the serving firmware: accounts and budgets, KV blocks, the warren, admission and the end of turns
and requests (R259-R281). -/
namespace Sys2Proof.Machine

def onSrv (f : Srv → Srv) (s : State) : State := { s with srv := f s.srv }

def reqAt (s : State) (r : Nat) : Option Req := Tbl.get? s.srv.reqs r

def onReq (r : Nat) (f : Req → Req) (s : State) : State := onSrv (fun v => { v with reqs := Tbl.upd v.reqs r f }) s

/-! ### Serving images (R259) -/

/-- What the serving image of a model gives. -/
structure Serving where
  inRow : Nat
  outRow : Nat
  kvRow : Nat
  kvFmt : Fmt
  stepTok : Nat
  cap : Nat
  ctxMax : Nat
  draft : Bool
  deriving DecidableEq, Repr

def servingOf (b : List Byte) : Serving :=
  { inRow := symRow b 4092, outRow := symRow b 4093, kvRow := symRow b 4094,
    kvFmt := ((symOf b 4094).bind fun y => fmtOf y.fmt).getD .fp32, stepTok := (dimMax b 248).getD 0,
    cap := (dimMax b 249).getD 0, ctxMax := (dimMax b 250).getD 0, draft := isDim b 247 }

/-- The binding of an image by a job. -/
def bindingOf (s : State) (job image : Nat) : Option Binding :=
  (Tbl.get? s.jobs job).bind fun b => b.bindings.find? (·.image == image)

/-- The serving image of a job's model, or none. -/
def servImage (s : State) (job model : Nat) : Option Serving :=
  (Tbl.get? s.srv.images (1024 * job + model)).map fun h => servingOf (imgOf s h)

/-- The size bounds of R259. -/
def servingOk (v : Serving) : Bool :=
  4 ≤ v.inRow && v.inRow ≤ 4096 && 4 ≤ v.outRow && v.outRow ≤ 4096 && 64 ≤ v.kvRow && v.kvRow ≤ 1048576

/-- The serving image with which a job can serve a model now: bound, and within the sizes of R259. -/
def canServe (s : State) (job model : Nat) : Option Serving :=
  match Tbl.get? s.srv.images (1024 * job + model) with
  | none => none
  | some h => if (bindingOf s job h).isSome then (servImage s job model).filter servingOk else none

/-- The serving data of a job's model, for its blocks. -/
def servOr (s : State) (job model : Nat) : Serving := (servImage s job model).getD (servingOf [])

/-! ### Who drafts (R278) -/

/-- May a job draft for a request: a draft image is bound there for the model, the account is the same, the partition another, and the
row sizes agree? -/
def draftsFor (s : State) (q : Req) (j : Nat) : Bool :=
  match Tbl.get? s.jobs q.job, Tbl.get? s.jobs j with
  | some a, some b =>
    j != q.job && b.part.isSome && b.account == a.account && b.part != a.part
      && (canServe s j q.model).any fun v => v.draft && v.outRow == (servOr s q.job q.model).inRow
  | _, _ => false

/-- The draft job a turn takes at admission: the first there is (DESIGN CHOICE, log 30); 0 none. -/
def findDraft (s : State) (q : Req) : Nat :=
  if q.draft then (((Tbl.keys s.jobs).find? (draftsFor s q)).getD 0) else 0

/-- The job that drafts for a request's turn now. -/
def draftJob (s : State) (q : Req) : Option Nat :=
  if q.draftFrom != 0 && draftsFor s q q.draftFrom then some q.draftFrom else none

/-- A request without its draft: its drafts and the draft model's KV are gone (R278). -/
def undraft (q : Req) : Req := { q with draftL := 0, draftFrom := 0, drafts := [], draftLen := 0, draftBlocks := [] }

/-- Requests whose draft job was closed or has lost its partition run on without drafting (R278). -/
def dropDrafts (s : State) : State :=
  onSrv (fun v => { v with reqs := Tbl.mapVals v.reqs fun q =>
    if q.draftFrom != 0 && (draftJob s q).isNone then undraft q else q }) s

/-! ### Accounts (R268, R271) -/

def accountAt (s : State) (a : Nat) : Account :=
  Tbl.getD s.srv.accounts a { rate := 0, burst := 0, cls := 2, level := 0, since := 0, refusals := 0, lastEvent := none }

/-- Scale of a bucket's level. -/
def levelUnit : Nat := 100000000

/-- The level of a bucket now, in its units. -/
def levelNow (s : State) (a : Account) : Nat :=
  min (a.burst * 4 * levelUnit) (a.level + a.rate * elapsed a.since s.clk.rackTime)

def setAccount (a : Nat) (x : Account) (s : State) : State := onSrv (fun v => { v with accounts := Tbl.set v.accounts a x }) s

/-- A charge taken from a bucket, in quarter tokens. -/
def charge (a e : Nat) (s : State) : State :=
  let x := accountAt s a
  setAccount a { x with level := levelNow s x - e * levelUnit, since := s.clk.rackTime } s

/-- Quarter tokens returned, up to the burst. -/
def refund (a e : Nat) (s : State) : State :=
  let x := accountAt s a
  setAccount a { x with level := min (x.burst * 4 * levelUnit) (levelNow s x + e * levelUnit), since := s.clk.rackTime } s

/-- The µs until a bucket covers `e` quarter tokens (R268). -/
def refusalTime (s : State) (x : Account) (e : Nat) : Nat :=
  if x.rate = 0 || e > x.burst * 4 then 2 ^ 64 - 1 else ceilDiv (e * levelUnit - levelNow s x) (x.rate * 400)

/-- BUDGET_EXHAUSTED at the first refusal of an account, then at most once per second (R271). Its source is the serving core:
BC2 (DESIGN CHOICE, log 30). -/
def budgetEvent (a job : Nat) (s : State) : State :=
  let x := accountAt s a
  let n := x.refusals + 1
  let due := match x.lastEvent with | none => true | some t => passed s t 400000000
  if due then
    postEvent 0x0601 0x03 job (leBytes 2 a ++ [BitVec.ofNat 8 x.cls, 0] ++ leBytes 4 (levelNow s x / (4 * levelUnit))
      ++ leBytes 4 n ++ List.replicate 4 0)
      (setAccount a { x with refusals := 0, lastEvent := some s.clk.rackTime } s)
  else setAccount a { x with refusals := n } s

/-! ### KV blocks (R272, R273) -/

/-- Bytes of a block: 16 rows, padded to 64 B. -/
def blockBytes (v : Serving) : Nat := ceilDiv (16 * v.kvRow) 64 * 64

/-- Elements of a block, and its bytes when spilled as E4M3. -/
def blockElems (v : Serving) : Nat := 16 * v.kvRow * 8 / fmtBits v.kvFmt
def spillBytes (v : Serving) : Nat := ceilDiv (blockElems v) 64 * 64

/-- Block addresses in use. -/
def kvUsed (s : State) : List Nat :=
  (Tbl.vals s.srv.reqs).flatMap (fun r => r.blocks.map (·.addr) ++ r.draftBlocks) ++ (Tbl.vals s.srv.nodes).map (·.kvAddr)

/-- Block addresses of a KV object. -/
def kvSlots (o : Obj) (bytes : Nat) : List Nat :=
  if bytes > pageSize then o.pages.take 1
  else o.pages.flatMap fun p => (List.range (pageSize / max 1 bytes)).map fun i => p + i * bytes

/-- A free block of a job in HBM or DDR5: in a KV object the firmware holds, else in a new one. -/
def newBlock (job bytes : Nat) (ddr : Bool) (s : State) : Option (Nat × State) :=
  let mine := s.srv.kv.filter fun e => e.2 == bytes && (match Tbl.get? s.objs e.1 with
    | some o => o.job == job && o.pages.all (fun p => inDdr p == ddr)
    | none => false)
  let used := kvUsed s
  let free := mine.flatMap fun e => match Tbl.get? s.objs e.1 with
    | some o => (kvSlots o bytes).filter fun a => !used.contains a
    | none => []
  match free with
  | a :: _ => some (a, s)
  | [] =>
    let n := pagesOf bytes
    match allocTier s (if ddr then 2 else 1) 0xFF n 0, pickFree 1 1 (2 ^ 25 - 1) (Tbl.keys s.objs) with
    | some pages, some h =>
      if objectsFull s 1 then none
      else
        let o : Obj := { job, type := 3, compressed := false, cold := false, pinned := false, plane := 0, elem := 0, codetab := 0,
                         len := n * pageSize, stackMask := 0xFF, pages, bankUnit := none, owner := none, lower := none,
                         moving := [], gone := false, pool := false }
        some (pages.getD 0 0, { onSrv (fun v => { v with kv := Tbl.set v.kv h bytes }) s with objs := Tbl.set s.objs h o })
    | _, _ => none

/-- KV objects of the firmware that hold no block any more are freed. -/
def sweepKv (s0 : State) : State :=
  let s := dropDrafts s0
  let used := kvUsed s
  let dead := (s.srv.kv.filter fun e => match Tbl.get? s.objs e.1 with
    | some o => !(o.pages.any fun p => used.any fun a => p ≤ a && a < p + pageSize)
    | none => true).map (·.1)
  dead.foldl (fun a h => dropObj h (onSrv (fun v => { v with kv := Tbl.erase v.kv h }) a)) s

/-- Bytes at a block's address: within one page, or on from the first page of the object that holds it. -/
def readBlock (s : State) (a n : Nat) : List Byte :=
  match objAtAddr s a with
  | some (_, o) => if n > pageSize then (objSpans s o 0 n).flatMap fun x => readMem s x.1 x.2 else readMem s a n
  | none => readMem s a n

/-- Bytes from an offset of the block at an address on, in a block of `n` bytes. -/
def writeBlockAt (a n off : Nat) (b : List Byte) (s : State) : State :=
  match objAtAddr s a with
  | some (_, o) => if n > pageSize then objWrite o off b s else writeMem (a + off) b s
  | none => writeMem (a + off) b s

def writeBlock (a : Nat) (b : List Byte) (s : State) : State := writeBlockAt a b.length 0 b s

/-- A block that a tier engine copies, read through the symbol codes: an uncorrectable word of a KV object is a job fault (R178, R322). -/
def copyBlock (src n dst job : Nat) (conv : List Byte → List Byte) (s : State) : State :=
  let spans := match objAtAddr s src with
    | some (_, o) => if n > pageSize then objSpans s o 0 n else [(src, n)]
    | none => [(src, n)]
  let bytes := conv (readBlock s src n)
  let read := if s.mctl.errs = [] then s
    else spans.foldl (fun a x => let r := eccReadAt x.1 x.2 a; ueFault r.ue 4 none none job r.st) s
  writeBlock dst bytes read

/-- A block as FP8 E4M3, converted with RNE (R273). -/
def narrowBlock (v : Serving) (b : List Byte) : List Byte :=
  packElems .e4m3 ((List.range (blockElems v)).map fun i => encodeElem .e4m3 .rne (decodeElem v.kvFmt (elemAt v.kvFmt b i)))

/-- A spilled block widened exactly into the KV format. -/
def widenBlock (v : Serving) (b : List Byte) : List Byte :=
  packElems v.kvFmt ((List.range (blockElems v)).map fun i => encodeElem v.kvFmt .rne (decodeElem .e4m3 (elemAt .e4m3 b i)))

/-- Blocks that may be spilled, in the order of R273: private blocks of IDLE requests, then warren blocks with no reference;
each oldest last use first. A block is named by its request and index, or by its node. -/
def spillable (s : State) : List (Nat × Nat ⊕ Nat) :=
  let priv := (s.srv.reqs.filter fun r => r.2.state == .idle && r.2.turn.isNone).flatMap fun r =>
    ((r.2.blocks.zipIdx).filter fun b => !b.1.spilled && !b.1.returning).map fun b => (b.1.lastUse.toNat, r.1, b.2)
  let nodes := (s.srv.nodes.filter fun n => n.2.refs == 0 && !n.2.spilled).map fun n => (n.2.lastUse.toNat, n.1)
  ((priv.mergeSort fun x y => x.1 ≤ y.1).map fun x => .inl (x.2.1, x.2.2))
    ++ ((nodes.mergeSort fun x y => x.1 ≤ y.1).map fun x => .inr x.2)

/-- One block spilled to DDR5; none when DDR5 has no room. -/
def spillOne (x : Nat × Nat ⊕ Nat) (s : State) : Option State :=
  match x with
  | .inl (r, i) =>
    match reqAt s r with
    | none => none
    | some q =>
      let v := servOr s q.job q.model
      match q.blocks[i]?, newBlock q.job (spillBytes v) true s with
      | some b, some (a, s1) =>
        some (sweepKv (onReq r (fun q => { q with blocks := modAt q.blocks i fun b => { b with addr := a, spilled := true } })
          (copyBlock b.addr (blockBytes v) a q.job (narrowBlock v) s1)))
      | _, _ => none
  | .inr n =>
    match Tbl.get? s.srv.nodes n with
    | none => none
    | some d =>
      let v := servOr s d.job d.model
      match newBlock d.job (spillBytes v) true s with
      | some (a, s1) =>
        some (sweepKv (onSrv (fun v => { v with nodes := Tbl.upd v.nodes n fun d => { d with kvAddr := a, spilled := true } })
          (copyBlock d.kvAddr (blockBytes v) a d.job (narrowBlock v) s1)))
      | none => none

/-- The first spillable block that can be spilled, spilled. -/
def spillNext (s : State) : Option State := (spillable s).findSome? fun x => spillOne x s

/-- A free block of a job in HBM, HBM freed by spilling where it must be; none when that cannot free enough. `fuel` bounds the blocks
spilled. -/
def roomFor (job bytes : Nat) : Nat → State → Option (Nat × State)
  | 0, s => newBlock job bytes false s
  | f + 1, s =>
    match newBlock job bytes false s with
    | some x => some x
    | none => (spillNext s).bind (roomFor job bytes f)

/-- `n` private blocks added to a request; none when HBM cannot be freed for them. -/
def giveBlocks (r job bytes : Nat) : Nat → State → Option State
  | 0, s => some s
  | n + 1, s =>
    (roomFor job bytes (spillable s).length s).bind fun x =>
      giveBlocks r job bytes n (onReq r (fun q => { q with
        blocks := q.blocks ++ [{ addr := x.1, spilled := false, node := none, lastUse := s.clk.rackTime, returning := false }] }) x.2)

/-- Blocks for the KV of a request's draft, in its draft job (R279); none when HBM cannot be freed for them. -/
def giveDraftBlocks (r job bytes : Nat) : Nat → State → Option State
  | 0, s => some s
  | n + 1, s =>
    (roomFor job bytes (spillable s).length s).bind fun x =>
      giveDraftBlocks r job bytes n (onReq r (fun q => { q with draftBlocks := q.draftBlocks ++ [x.1] }) x.2)

/-! ### The warren (R274-R277) -/

/-- KEY of a block: the first 8 bytes of the digest of parent KEY, job id, model id, slot epoch and the 16 input rows, each
in the width of its node field (R274; widths DEDUCED, log 31). -/
def nodeKey (parent : List Byte) (job model epoch : Nat) (rows : List (List Byte)) : List Byte :=
  (sha3 (parent ++ leBytes 2 job ++ leBytes 2 model ++ leBytes 4 epoch ++ rows.flatten)).take 8

/-- The 64 B of node `n` (R274). A node with children has a table of its own, of its own index (DESIGN CHOICE: log 30). -/
def nodeBytes (n : Nat) (d : Node) : List Byte :=
  let idx := fun (x : Option Nat) => leBytes 4 (x.getD 0xFFFFFFFF)
  d.key ++ idx d.parent ++ idx (if d.children = 0 then none else some n) ++ leBytes 8 d.kvAddr ++ leBytes 4 d.refs
    ++ leBytes 2 d.model ++ [BitVec.ofNat 8 (1 + 2 * ofBool d.spilled + 4 * ofBool d.stale), 0] ++ leBytes 8 d.lastUse.toNat
    ++ leBytes 4 d.children ++ leBytes 2 d.job ++ [0, 0] ++ leBytes 4 d.epoch ++ List.replicate 12 0

def keyOf (s : State) (parent : Option Nat) : List Byte :=
  match parent.bind (Tbl.get? s.srv.nodes) with
  | some n => n.key
  | none => List.replicate 8 0

/-- The child of a node with this key, job, model and epoch; a STALE node is never matched. -/
def childOf (s : State) (parent : Option Nat) (key : List Byte) (job model epoch : Nat) : Option Nat :=
  (s.srv.nodes.find? fun n => n.2.parent == parent && n.2.key == key && n.2.job == job && n.2.model == model
    && n.2.epoch == epoch && !n.2.stale).map (·.1)

/-- Blocks of rows matched from a node on: the nodes met (R276). -/
def lookup (s : State) (job model epoch : Nat) : Nat → Option Nat → List (List Byte) → List Nat
  | 0, _, _ => []
  | f + 1, parent, rows =>
    if rows.length < 16 then []
    else
      match childOf s parent (nodeKey (keyOf s parent) job model epoch (rows.take 16)) job model epoch with
      | none => []
      | some n => n :: lookup s job model epoch f (some n) (rows.drop 16)

/-- References of nodes raised or lowered. -/
def refNodes (ns : List Nat) (up : Bool) (s : State) : State :=
  onSrv (fun v => { v with nodes := ns.foldl (fun t n => Tbl.upd t n fun d =>
    { d with refs := if up then d.refs + 1 else d.refs - 1, lastUse := if up then s.clk.rackTime else d.lastUse }) v.nodes }) s

/-- A node removed. -/
def dropNode (n : Nat) (s : State) : State :=
  match Tbl.get? s.srv.nodes n with
  | none => s
  | some d =>
    let t := Tbl.erase s.srv.nodes n
    let t1 := match d.parent with
      | some p => Tbl.upd t p fun x => { x with children := x.children - 1 }
      | none => t
    onSrv (fun v => { v with nodes := t1 }) s

/-- The node to evict when the warren is full: references and children 0, STALE first, then oldest (R277). -/
def victim (s : State) : Option Nat :=
  let c := s.srv.nodes.filter fun n => n.2.refs == 0 && n.2.children == 0
  let old := fun (l : Tbl Node) => (l.foldl (fun (b : Option (Nat × Nat)) n =>
    match b with
    | none => some (n.2.lastUse.toNat, n.1)
    | some (t, m) => if n.2.lastUse.toNat < t then some (n.2.lastUse.toNat, n.1) else some (t, m)) none).map (·.2)
  (old (c.filter fun n => n.2.stale)).or (old c)

/-- STALE nodes that nothing references and that have no child are evicted (R275): `fuel` at most. -/
def sweepStale : Nat → State → State
  | 0, s => s
  | f + 1, s =>
    match s.srv.nodes.find? fun n => n.2.stale && n.2.refs == 0 && n.2.children == 0 with
    | none => s
    | some n => sweepStale f (dropNode n.1 s)

/-- The limit of R274. -/
def warrenLimit : Nat := 16 * 2 ^ 20

/-- A request's first private block gives way to a warren node of equal rows; a node that was spilled gets the block (DESIGN
CHOICE, log 30). -/
def shareNode (r n : Nat) (b : KvBlock) (rest : List KvBlock) (s : State) : State :=
  let s1 := onSrv (fun v => { v with nodes := Tbl.upd v.nodes n fun d =>
    if d.spilled && !b.spilled then { d with kvAddr := b.addr, spilled := false } else d }) (refNodes [n] true s)
  sweepKv (onReq r (fun q => { q with path := q.path ++ [n], blocks := rest }) s1)

/-- A full block of a request enters the warren: its first private block becomes the node's. A block equal to a node already
there shares that node (DESIGN CHOICE, log 30). When no node can be evicted the block stays private (R277). A block of a retired epoch
enters STALE (R274). -/
def insertBlock (r : Nat) (s : State) : State :=
  match reqAt s r with
  | none => s
  | some q =>
    match q.blocks with
    | [] => s
    | b :: rest =>
      let parent := q.path.getLast?
      let rows := (q.seqRows.drop (16 * q.path.length)).take 16
      let key := nodeKey (keyOf s parent) q.job q.model q.epoch rows
      match childOf s parent key q.job q.model q.epoch with
      | some n => shareNode r n b rest s
      | none =>
        let (ok, s1) :=
          if s.srv.nodes.length < warrenLimit then (true, s)
          else match victim s with
            | some n => (true, sweepKv (dropNode n s))
            | none => (false, s)
        if ok then
          let n := s1.srv.nextNode
          let d : Node := { key, parent, kvAddr := b.addr, refs := 1, job := q.job, model := q.model, epoch := q.epoch,
                            spilled := b.spilled, stale := (modelAt s q.job q.model).epoch != q.epoch, lastUse := s.clk.rackTime, children := 0 }
          let s2 := onReq r (fun q => { q with path := q.path ++ [n], blocks := rest }) s1
          let up := fun (t : Tbl Node) => match parent with
            | some p => Tbl.upd t p fun x => { x with children := x.children + 1 }
            | none => t
          onSrv (fun v => { v with nextNode := n + 1, nodes := Tbl.set (up v.nodes) n d }) s2
        else
          let k := s.srv.skipped + 1
          let due := match s.srv.warrenFull with | none => true | some t => passed s t 400000000
          if due then
            postEvent 0x0602 0x03 q.job (leBytes 4 s.srv.nodes.length
                ++ leBytes 4 (s.srv.nodes.filter fun n => n.2.refs != 0).length ++ leBytes 4 k ++ List.replicate 4 0)
              (onSrv (fun v => { v with skipped := 0, warrenFull := some s.clk.rackTime }) s)
          else onSrv (fun v => { v with skipped := k }) s

/-- The nodes of a job's model of an epoch become STALE (R275). -/
def staleNodes (job model epoch : Nat) (s : State) : State :=
  let s1 := onSrv (fun v => { v with nodes := Tbl.mapVals v.nodes fun n =>
    if n.job == job && n.model == model && n.epoch == epoch then { n with stale := true } else n }) s
  sweepKv (sweepStale s1.srv.nodes.length s1)

/-- Every node of a job removed (R275). -/
def dropNodesOf (job : Nat) (s : State) : State :=
  sweepKv (onSrv (fun v => { v with nodes := v.nodes.filter fun n => n.2.job != job }) s)

/-! ### Admission (R267-R270) -/

/-- Turns of a model that hold a step position. -/
def admitted (s : State) (job model : Nat) : Nat :=
  (s.srv.reqs.filter fun r => r.2.job == job && r.2.model == model && (r.2.state == .prefill || r.2.state == .decode)).length

/-- A request's class: the largest of its PRIO, its job's and its account's (R269). -/
def reqClass (s : State) (q : Req) : Nat :=
  max q.prio (max (((Tbl.get? s.jobs q.job).map (·.prio)).getD 0) (accountAt s q.account).cls)

/-- The deferred queue of a model: by class, then by acceptance (R269). -/
def deferredQueue (s : State) (job model : Nat) : List Nat :=
  let l := (s.srv.reqs.filter fun r => r.2.job == job && r.2.model == model && r.2.state == .deferred).map fun r =>
    (reqClass s r.2, (r.2.turn.map (·.order)).getD 0, r.1)
  (l.mergeSort fun a b => a.1 < b.1 || (a.1 == b.1 && a.2.1 ≤ b.2.1)).map (·.2.2)

/-- Turns ahead of a turn of this class and order. -/
def queuePos (s : State) (job model cls order : Nat) : Nat :=
  ((s.srv.reqs.filter fun r => r.2.job == job && r.2.model == model && r.2.state == .deferred).filter fun r =>
    let c := reqClass s r.2
    let o := (r.2.turn.map (·.order)).getD 0
    c < cls || (c == cls && o < order)).length

/-- Estimated wait in ms: ⌈(position + 1) / S⌉ × T (R269); a fraction of a ms counts as one (DESIGN CHOICE, log 30). -/
def estWait (s : State) (job model pos : Nat) : Nat :=
  let n := ceilDiv (pos + 1) (servOr s job model).cap
  let d := Tbl.getD s.srv.turns (1024 * job + model) []
  if d.length < 64 then n * 100 else ceilDiv (n * d.sum) (64 * 400000)

/-- Blocks that a turn's input and maximum new tokens need, from the start of the sequence on (R272). -/
def turnBlocks (q : Req) (t : Turn) : Nat := ceilDiv (q.seqRows.length + ofBool q.next.isSome + t.input.length + q.maxNew) 16

/-- Blocks a request holds, on its path and private ones. -/
def heldBlocks (q : Req) : Nat := q.path.length + q.blocks.length

/-- Indices of the spilled blocks of a request: on the path, then private ones. -/
def spilledOf (s : State) (q : Req) : List Nat :=
  let np := ((q.path.zipIdx).filter fun x => ((Tbl.get? s.srv.nodes x.1).map (·.spilled)).getD false).map (·.2)
  let nb := ((q.blocks.zipIdx).filter fun x => x.1.spilled).map fun x => q.path.length + x.2
  np ++ nb

/-- Does a request still wait for a spilled block (R273)? -/
def awaitsBlock (s : State) (q : Req) : Bool := spilledOf s q != []

/-- The spilled blocks a turn reads are queued for their return (R273): index on the path, then private ones. -/
def queueReturns (r : Nat) (s : State) : State :=
  match reqAt s r with
  | none => s
  | some q =>
    let mk := fun (i : Nat) => ({ kind := .kvReturn, queue := 65, seq := r, handle := 0, idx := i, member := 0, dst := 0,
                                  mask := 0, void := false, supply := none } : TierJob)
    { s with tierQueue := s.tierQueue ++ (spilledOf s q).map mk }

/-- Rows of a request's sequence beyond its path, and the row to be fed next: what a turn's input follows. -/
def tailRows (q : Req) : List (List Byte) := q.seqRows.drop (16 * q.path.length) ++ q.next.toList

/-- The nodes a turn's lookup matches, from the end of the request's path on (R276). -/
def matchedNodes (s : State) (q : Req) (t : Turn) : List Nat :=
  let rows := tailRows q ++ t.input
  lookup s q.job q.model q.epoch (rows.length / 16) q.path.getLast? rows

/-- Input tokens of a turn that so many matched nodes hold. -/
def matchedInput (q : Req) (n : Nat) : Nat := 16 * n - (tailRows q).length

/-- The match of a turn takes effect at its admission: its nodes join the path in place of private blocks, and their rows are not
prefilled. -/
def takeMatch (q : Req) (t : Turn) : Req × Turn :=
  let n := t.nodes.length
  if n = 0 then (q, t)
  else
    let rows := tailRows q ++ t.input
    let m := 16 * n
    let gone := (tailRows q).length
    ({ q with path := q.path ++ t.nodes, blocks := q.blocks.drop n,
              seqRows := q.seqRows.take (16 * q.path.length) ++ rows.take (max m (gone - ofBool q.next.isSome)),
              next := if gone ≤ m then none else q.next },
     { t with nodes := [], input := t.input.drop (m - gone) })

/-- R267 step 4: a step position and the turn's blocks are free, those that return from DDR5 among them, and the turn enters PREFILL.
In DRAIN no turn is admitted (R281). -/
def tryAdmit (r : Nat) (s : State) : Option State :=
  match reqAt s r with
  | none => none
  | some q0 =>
    match q0.turn with
    | none => none
    | some t0 =>
      let v := servOr s q0.job q0.model
      if s.glb.state == .drain || admitted s q0.job q0.model ≥ v.cap then none
      else
        let (q, t) := takeMatch q0 t0
        let need := turnBlocks q t
        let n := need - heldBlocks q
        let back := (spilledOf s q).length
        let from_ := findDraft s q
        let s1 := onReq r (fun _ => { q with state := .prefill, draftFrom := from_, draftL := if from_ = 0 then 0 else 4,
                                             turn := some { t with reserve := need, admitted := some s.clk.rackTime } }) s
        (giveBlocks r q.job (blockBytes v) (n + back) s1).map fun s2 =>
          queueReturns r (decide_ (t.queue, t.seq) .ok (leBytes 4 r)
            (onReq r (fun x => { x with blocks := x.blocks.take (q.blocks.length + n) }) s2))

/-- Nodes a turn matched and does not use after all are released. -/
def dropMatch (q : Req) (s : State) : State := refNodes ((q.turn.map (·.nodes)).getD []) false s

/-- A request removed: its blocks freed, its references dropped, its slot unbound (R263, R264). -/
def removeReq (r : Nat) (s : State) : State :=
  match reqAt s r with
  | none => s
  | some q =>
    let s1 := refNodes q.path false (dropMatch q (onSrv (fun v => { v with reqs := Tbl.erase v.reqs r }) s))
    let s2 := sweepKv (sweepStale s1.srv.nodes.length s1)
    unbindSlot q.job q.model q.slotB
      { s2 with interims := s2.interims.filter fun i => !(i.type == 2 && i.req == r),
                tierQueue := s2.tierQueue.filter fun j => !(j.kind == .kvReturn && j.seq == r) }

/-- A turn that never started is undone: matched nodes released, and the request left IDLE with the rows of its last turn, or removed
when it was opening. -/
def undoTurn (r : Nat) (s : State) : State :=
  match reqAt s r with
  | none => s
  | some q =>
    if q.outputs = [] then removeReq r s
    else onReq r (fun q => { q with state := .idle, turn := none, rows := (q.outputs.getLast?.map (·.rows)).getD [] }) (dropMatch q s)

/-- A turn with its command goes through admission (R267): its lookup matches nodes, which it references from then on (R276), and it is
refused for budget, admitted, deferred with an interim entry, or refused as busy. -/
def arrive (r : Nat) (s : State) : State :=
  match reqAt s r with
  | none => s
  | some q =>
    match q.turn with
    | none => s
    | some t0 =>
      let ns := matchedNodes s q t0
      let m := matchedInput q ns.length
      let e := 4 * q.maxNew + (t0.input.length - m)
      let t := { t0 with nodes := ns, charge := e, unmatched := t0.input.length - m, matched := m }
      let k := (t.queue, t.seq)
      let s1 := refNodes ns true (onReq r (fun q => { q with turn := some t }) s)
      let a := accountAt s1 q.account
      if levelNow s1 a < e * levelUnit then
        let res := leBytes 4 r ++ List.replicate 4 0 ++ leBytes 8 (refusalTime s1 a e)
        undoTurn r (decide_ k .refusedBudget res (budgetEvent q.account q.job s1))
      else
        let s2 := charge q.account e (onReq r (fun q => { q with rows := [], degraded := false }) s1)
        match tryAdmit r s2 with
        | some s3 => s3
        | none =>
          let pos := queuePos s2 q.job q.model (reqClass s2 q) t.order
          let w := estWait s2 q.job q.model pos
          let res := leBytes 4 r ++ leBytes 4 pos ++ leBytes 4 w
          if w ≤ t.maxWait then
            { onReq r (fun q => { q with state := .deferred }) s2 with
              interims := s2.interims ++ [{ queue := k.1, seq := k.2, type := 2, result := res, req := r }] }
          else undoTurn r (decide_ k .refusedBusy (leBytes 4 r ++ leBytes 4 0 ++ leBytes 4 w) (refund q.account e s2))

/-! ### The end of turns and requests (R265, R266, R268) -/

/-- A request's private blocks that hold a row (R272). -/
def rowBlocks (q : Req) : List KvBlock := q.blocks.take (ceilDiv q.seqRows.length 16 - q.path.length)

/-- A turn ends with a status and end code: its output is produced, its bucket gets E less the cost, and a held feed goes to
admission. A turn that did not complete is charged only for its rows. Blocks it had reserved and left empty are free (R272). -/
def endTurn (r : Nat) (st : Status) (ended : Nat) (s : State) : State :=
  match reqAt s r with
  | none => s
  | some q =>
    match q.turn with
    | none => s
    | some t =>
      let cost := 4 * q.rows.length + (if ended = 2 then 0 else t.unmatched)
      let o : Output := { status := st, ended, rows := q.rows, rowSize := (servOr s q.job q.model).outRow, time := s.clk.rackTime,
                          cost, warren := t.matched, fetched := false, gone := false }
      let dur := match t.admitted with | some a => [elapsed a s.clk.rackTime] | none => []
      let key := 1024 * q.job + q.model
      let s1 := if ended = 2 then s else onSrv (fun v =>
        let d := Tbl.getD v.turns key [] ++ dur
        { v with turns := Tbl.set v.turns key (d.drop (d.length - 64)) }) s
      let next := if ended = 2 then ReqState.ended else if t.last then .finished else .idle
      let s2 := sweepKv (onReq r (fun q => { undraft q with turn := none, state := next, blocks := rowBlocks q, outputs := q.outputs ++ [o],
                                                            doneAt := s.clk.rackTime, lastUse := s.clk.rackTime })
        (dropMatch q (refund q.account (t.charge - cost) s1)))
      match q.held with
      | none => s2
      | some h =>
        if next = .idle then arrive r (onReq r (fun q => { q with held := none, turn := some h }) s2)
        else decide_ (h.queue, h.seq) (if next = .finished then .badParam else .cancelled) []
          (onCmd (h.queue, h.seq) (fun c => { c with errLoc := 32 }) (onReq r (fun q => { q with held := none }) s2))

/-- A turn cancelled (R266, R270, R281): its output has end code 2 and status CANCELLED; a deferred one, with no rows,
completes its command CANCELLED and gets its charge back. -/
def cancelTurn (r : Nat) (s : State) : State :=
  match reqAt s r with
  | none => s
  | some q =>
    match q.turn with
    | none => s
    | some t =>
      let h := fun (x : State) => match q.held with
        | some g => decide_ (g.queue, g.seq) .cancelled [] (onReq r (fun q => { q with held := none }) x)
        | none => x
      let own := fun (x : State) => if q.state = .deferred then decide_ (t.queue, t.seq) .cancelled (leBytes 4 r) x else x
      endTurn r .cancelled 2 (own (h s))

/-- A request closed: its turn is cancelled with no output kept, and it is removed (R263, R281). -/
def closeReq (r : Nat) (s : State) : State := removeReq r (cancelTurn r s)

/-- At a step boundary: turns admitted from the head of the deferred queue while R267 step 4 succeeds (R269). -/
def admitDeferred (job model : Nat) : Nat → State → State
  | 0, s => s
  | f + 1, s =>
    match deferredQueue s job model with
    | [] => s
    | r :: _ =>
      match tryAdmit r s with
      | some s1 => admitDeferred job model f s1
      | none => s

/-- The serving steps of a job end with it: one that runs frees its partition. -/
def endSteps (j : Nat) (s : State) : State :=
  let mine := fun (k : Nat × Nat) => k.1 == fwQueue && ((queueCmd s k).map (·.job)) == some j
  let s1 := (Tbl.vals s.parts).foldl (fun a p => if p.running.any mine then freePart p.first a else a) s
  onSrv (fun v => { v with steps := v.steps.filter fun e => e.2.job != j })
    { s1 with parts := Tbl.mapVals s1.parts fun p => { p with queue := p.queue.filter (!mine ·) } }

/-- Requests of a job removed (R263). -/
def removeReqsOf (job : Nat) (s : State) : State :=
  ((s.srv.reqs.filter fun r => r.2.job == job).map (·.1)).foldl (fun a r => closeReq r a) s

end Sys2Proof.Machine
end

