-- ==== Sys2Proof/Machine/Finish.lean ====
section
/-! DEFINITION. What the posting of a final entry brings with it: queues created, jobs closed, slots unbound, released objects
freed (R173, R206, R215, R216, R223, R226). -/
namespace Sys2Proof.Machine

/-- The slots a command's RUNs are bound to: model and slot (R172). -/
def boundSlots (c : Cmd) : List (Nat × Bool) :=
  (match c.run with | some r => r.slot.toList | none => [])
    ++ c.stages.flatMap fun g => match g.run with | some r => r.slot.toList | none => []

/-- The bindings of a command to slots end (R173). -/
def unbindCmd (c : Cmd) (s : State) : State := (boundSlots c).foldl (fun a x => unbindSlot c.job x.1 x.2 a) s

/-- The ring pair that a JOB_OPEN names (R206, R223). -/
def openedQueue (p : Pkt) (job : Nat) : Queue :=
  { base := fieldAt p 40 8, size := fieldAt p 36 4, tail := 0, head := 0, cqBase := fieldAt p 48 8, cqSize := fieldAt p 56 4,
    cqTail := 0, cqPhase := true, cqHead := 0, reserved := 0, vector := fieldAt p 34 2, depth := byteAt p 33, job }

/-- The job a JOB_OPEN opened or adds a queue to: the header's with ADDQ, else the one of its result. -/
def openedJob (c : Cmd) : Nat := if bitAt (byteAt c.pkt 1) 0 then c.job else leNat (c.result.take 2)

/-- A command in a partition's queue fails before it starts, with the status of the check that is made again (R244). -/
def failQueued (f : Nat) (c : Cmd) (st : Status) (s : State) : State :=
  decide_ c.key st (endResult c st) (abortHuddles f c (unqueue c.key s))

/-- A job leaves its partition. With the last member the partition goes, and what its members, the former ones too, still have in the
queue fails (R243, R244). -/
def quitPart (j : Nat) (s : State) : State :=
  match (partOfJob s j).bind (Tbl.get? s.parts) with
  | none => s
  | some p =>
    leavePart j (if p.members.all (· == j) then
      (p.queue.filterMap (cmdAt s)).foldl (fun a x => if x.done.isNone then failQueued p.first x .noPartition a else a) s else s)

/-- A job's queues, objects, models, requests, serving steps, save set and membership are gone, and the job is closed (R165, R171, R223,
R243, R253, R263, R275). -/
def closeJob (j : Nat) (s : State) : State :=
  let s1 := dropNodesOf j (removeReqsOf j (endSteps j s))
  let s2 := quitPart j s1
  let s3 := (s2.objs.filter fun e => e.2.job == j).foldl (fun a e => dropObj e.1 a) s2
  { s3 with jobs := Tbl.erase s3.jobs j, queues := s3.queues.filter fun e => e.1 == 64 || e.2.job != j,
            images := s3.images.filter fun e => e.2.job != j,
            srv := { s3.srv with images := s3.srv.images.filter (fun e => e.1 / 1024 != j),
                                 turns := s3.srv.turns.filter (fun e => e.1 / 1024 != j),
                                 seqTabs := s3.srv.seqTabs.filter (fun e => e.1 / 1024 != j),
                                 kv := s3.srv.kv.filter fun e => Tbl.has s3.objs e.1 },
            interims := s3.interims.filter fun i => i.queue == 64 || Tbl.has s3.queues i.queue }

/-- A JOB_CLOSE, and another of the same job beside it, completes once no other command of its job is incomplete (R223). -/
def settleClose (j : Nat) (s : State) : State :=
  match (Tbl.get? s.jobs j).bind (·.closing) with
  | none => s
  | some _ =>
    if s.cmds.any (fun c => c.job == j && c.op != 0x09) then s
    else (s.cmds.filter fun c => c.job == j && c.done.isNone).foldl (fun a c => decide_ c.key .ok [] a) s

/-- A job's CTX_SAVE ends without a save set: the job is no longer SAVED, and a suspended RUN is the partition's next command
(R249). -/
def endSave (k : Nat × Nat) (job f : Nat) (s : State) : State :=
  let s1 := onJob job (fun b => { b with saveAsked := false }) s
  let mine := fun (k : Nat × Nat) => ((cmdAt s1 k).map (·.job)) == some job
  onPart f (fun p => { p with saving := p.saving.filter fun v => (v.queue, v.seq) != k, queue := p.suspended.filter mine ++ p.queue,
                              suspended := p.suspended.filter fun k => !mine k }) s1

/-- The slot of a MODEL_STAGE that ends without OK returns to EMPTY, its shards in flight landed (R171, R190). -/
def undoStage (c : Cmd) (s : State) : State :=
  match c.staging with
  | some g =>
    let x := (slotOf (modelAt s c.job g.model) g.slotB).state
    if x = .staging || x = .staged then freeSlot c.job g.model g.slotB s else s
  | none => s

/-- FOX_SPLIT set (R187). -/
def setSplit (v : Nat) (s : State) : State := { s with split := (bitsOf v 0 8, bitsOf v 8 8, bitsOf v 16 8) }

/-- May a decided command complete: its bursts and copies have landed, and a CANCEL after the commands it ended (R190)? -/
def mayFinish (s : State) (c : Cmd) : Bool := landedAll s c.key && !(c.waits.any fun k => (cmdAt s k).isSome)

/-- The RESULT of a RUN ends with its energy (R226). -/
def withEnergy (c : Cmd) : Cmd :=
  if c.op = 0x30 && c.run.isSome && c.done != some .shapeOver then { c with result := sliceB c.result 0 8 ++ leBytes 8 c.energy } else c

/-- SLOTV and SLOT of a RUN or RUN_CHAIN that bound a slot (R210). -/
def withSlot (c : Cmd) : Cmd :=
  match boundSlots c with
  | [] => c
  | x :: _ => if c.op = 0x30 || c.op = 0x31 then { c with slotV := some x.2 } else c

/-- What the completion of a command of an opcode brings (R171, R187, R206, R223, R249): the split of SET_FEATURE, the queue of
JOB_OPEN, the end of the job, of a stage's slot, of the SAVED state. -/
def completed (c : Cmd) (st : Status) (s : State) : State :=
  if c.op = 0x02 && st == .ok && fieldAt c.pkt 32 2 = 1 then setSplit (fieldAt c.pkt 40 8) s
  else if c.op = 0x08 && st == .ok then
    settleClose c.job { s with queues := Tbl.set s.queues (byteAt c.pkt 32) (openedQueue c.pkt (openedJob c)) }
  else if c.op = 0x09 && st == .ok then closeJob c.job s
  else if c.op = 0x09 then onJob c.job (fun b => { b with closing := none }) s
  else if c.op = 0x20 && st != .ok then settleClose c.job (undoStage c s)
  else if c.op = 0x58 && st != .ok && st != .jobLost then settleClose c.job (endSave c.key c.job (c.part.getD 32) s)
  else settleClose c.job s

/-- The final entry of a decided command and all that its completion brings (R208, R209). -/
def finishCmd (k : Nat × Nat) (s : State) : State :=
  match cmdAt s k with
  | none => s
  | some c =>
    match c.done with
    | none => s
    | some st =>
      let s1 := unbindCmd c (finish k (onCmd k (fun c => withSlot (withEnergy c)) s))
      let s2 := completed c st s1
      let s3 := if k.1 = 64 && !s2.qdb.aqEn && !(s2.cmds.any fun x => x.queue == 64) then
          { s2 with qdb := { s2.qdb with aqActive := false } } else s2
      settle (dispatch (sweepObjs s3))

/-- COMMAND_COMPLETE (R209): the final entry of a decided command is posted. -/
def execCommandComplete (q seq : Nat) (s : State) : Out :=
  commit (
    match cmdAt s (q, seq) with
    | some c => if c.done.isSome && mayFinish s c then finishCmd (q, seq) s else s
    | none => s)

/-- INTERIM_ENTRY_POST (R208): the oldest waiting interim entry of the queue takes a free, unreserved entry, if its command has not
reached its outcome. A ROUTE_REPORT starts the 10 s of R141. -/
def execInterimEntryPost (q : Nat) (s : State) : Out :=
  commit (
    match s.interims.find? (fun i => i.queue == q && (cmdAt s (i.queue, i.seq)).any (·.done.isNone)), Tbl.get? s.queues q with
    | some i, some k =>
      if cqFree k = 0 then s
      else
        let job := ((cmdAt s (i.queue, i.seq)).map (·.job)).getD 0
        let s1 := postEntry q i.seq .ok job i.type 0 0 i.result false { s with interims := s.interims.erase i }
        if i.type = 1 then
          onCmd (i.queue, i.seq) (fun c => match curRun c with
            | some r => setRun c { r with hold := r.hold.map fun h => { h with postedAt := some s.clk.rackTime } }
            | none => c) s1
        else s1
    | _, _ => s)

end Sys2Proof.Machine
end

