-- ==== Sys2Proof/Machine/Device.lean ====
section
/-! DEFINITION. Device commands: NOP, IDENTIFY, SET_FEATURE, GET_FEATURE, TRACE_CTL, COUNTER_SNAPSHOT, BUDGET_SET and
BUDGET_QUERY (R220-R222, R229, R233, R234, R268). -/
namespace Sys2Proof.Machine

/-- Bytes written to host memory for a command, which completes OK, or BAD_ADDR where the host rejects the address (R371). -/
def writeOut (k : Nat × Nat) (a : Nat) (b result : List Byte) (s : State) : State :=
  if hostOk s a b.length then decide_ k .ok result (writeHost a b s) else decide_ k .badAddr [] s

/-- The AQ commands that stand alone: no parameters checked beyond their own. -/
def adminSpec (op : Nat) (used : List (Nat × Nat)) (params : State → Nat → Pkt → Option Ref)
    (effect : Cmd → Nat → State → State) : OpSpec :=
  { op, aq := true, sq := false, flags := 0, minUnits := fun _ => 0, queued := false, used := fun _ => used, params,
    state := fun _ _ _ => none, resources := fun _ _ _ => none, effect }

/-- NOP (R220). -/
def nopSpec : OpSpec :=
  { op := 0x00, aq := true, sq := true, flags := 0, minUnits := fun _ => 0, queued := false, used := fun _ => [],
    params := fun _ _ _ => none, state := fun _ _ _ => none, resources := fun _ _ _ => none,
    effect := fun c _ s => decide_ c.key .ok [] s }

/-- Column groups withdrawn, as a mask (R38). -/
def withdrawnMask (s : State) : Nat :=
  ((s.ras.maps.zipIdx).map fun x =>
    if x.1.withdrawn then
      (if x.2 < 4 then 0xF * 2 ^ (4 * x.2) else 0xF * 2 ^ (4 * (11 - x.2))) else 0).sum

def asciiPad (l : String) (n : Nat) : List Byte := sliceB (l.toList.map fun c => BitVec.ofNat 8 c.toNat) 0 n

/-- Units that are not failed, of a list of failure marks. -/
def goodCount (l : List Bool) : Nat := (l.filter (!·)).length

/-- The record of a loaded image (R222). -/
def imageRecord (h : Nat) (e : Image) : List Byte :=
  leBytes 4 h ++ leBytes 2 e.job ++ [BitVec.ofNat 8 (ofBool e.x3), 0] ++ sliceB e.measurement 0 32 ++ leBytes 8 e.len

/-- The IDENTIFY reply (R222). -/
def identifyReply (s : State) : List Byte :=
  let w := withdrawnMask s
  asciiPad "NZ-IX4-640-L" 16 ++ asciiPad "B1" 2
    ++ [BitVec.ofNat 8 s.glb.partId.toNat, BitVec.ofNat 8 (ofBool s.pins.boardPos + 2 * s.pins.trayId.toNat)]
    ++ leBytes 4 s.glb.fwVer.toNat ++ [BitVec.ofNat 8 (ofBool s.boot.image), BitVec.ofNat 8 (devCode s.glb.state), 0, 0]
    ++ leBytes 4 (2 ^ 32 - 1 - w) ++ leBytes 4 w
    ++ [BitVec.ofNat 8 (32 - ((List.range 32).filter (bitAt w ·)).length),
        BitVec.ofNat 8 ((List.range 10).filter (s.ras.bcActive.getLsbD ·)).length,
        BitVec.ofNat 8 (goodCount (s.fox.map (·.failed))), BitVec.ofNat 8 (goodCount (s.tiers.map (·.failed)))]
    ++ leBytes 8 (((List.range 8).map (stackPages s)).sum * pageSize)
    ++ leBytes 8 (8 * s.fwPages * pageSize) ++ leBytes 8 (ddrBytes s) ++ leBytes 4 65536 ++ leBytes 4 65536
    ++ leBytes 2 s.jobs.length ++ leBytes 2 s.images.length ++ List.replicate 52 0
    ++ s.images.flatMap fun e => imageRecord e.1 e.2

/-- IDENTIFY (R222). -/
def identifySpec : OpSpec :=
  adminSpec 0x01 [] (fun _ _ _ => none) fun c _ s => answer c.key (identifyReply s) [] s

/-! ### Features (R221) -/

/-- Is a feature id listed? -/
def isFeature (f : Nat) : Bool := 1 ≤ f && f ≤ 7

/-- VALUE within its range (R187, R221). -/
def featureOk (f v : Nat) : Bool :=
  let b := fun i => bitsOf v (8 * i) 8
  match f with
  | 1 => v < 2 ^ 24 && (List.range 3).all (fun i => b i % 5 = 0 && 10 ≤ b i && b i ≤ 80) && b 0 + b 1 + b 2 = 100
  | 2 => 1 ≤ v && v ≤ 3600
  | 3 => v ≤ 1
  | 4 => v ≤ 3
  | 5 => v < 2 ^ 32 && 1 ≤ bitsOf v 0 16 && bitsOf v 0 16 ≤ 256 && bitsOf v 16 16 ≤ 1000
  | 6 => v ≤ 1
  | 7 => 1 ≤ v && v ≤ 10000
  | _ => false

/-- "Set only in" of R221. -/
def featureState (s : State) (f : Nat) : Bool :=
  match f with
  | 1 => s.glb.state == .ready && s.jobs == []
  | 3 => s.glb.state == .ready && s.jobs == []
  | 4 => s.glb.state == .ready && s.jobs == []
  | 6 => (s.glb.state == .ready || s.glb.state == .service) && s.jobs == []
  | _ => true

/-- A feature set. -/
def setFeature (f v addr : Nat) (s : State) : State :=
  let x := s.features
  match f with
  | 1 => setSplit v s
  | 2 => { s with features := { x with stageTimeout := v } }
  | 3 => { s with features := { x with sigRequired := v = 1 } }
  | 4 => { s with features := { x with keys := Tbl.set x.keys v (readHost s addr 1312) } }
  | 5 => { s with features := { x with irqCount := bitsOf v 0 16, irqTime := bitsOf v 16 16 } }
  | 6 => { s with glb := { s.glb with state := if v = 1 then .service else .ready } }
  | 7 => { s with features := { x with deferMaxWait := v } }
  | _ => s

/-- A feature's VALUE. -/
def featureValue (s : State) (f : Nat) : Nat :=
  match f with
  | 1 => s.split.1 + 256 * s.split.2.1 + 65536 * s.split.2.2
  | 2 => s.features.stageTimeout
  | 3 => ofBool s.features.sigRequired
  | 5 => s.features.irqCount + 65536 * s.features.irqTime
  | 6 => ofBool (s.glb.state == .service)
  | 7 => s.features.deferMaxWait
  | _ => 0

/-- SET_FEATURE (R220, R221). ADDR must be 0 but for IMAGE_KEYS, whose feature block it names. HBM_SPLIT takes effect at the
completion (R187: setSplit in completed). -/
def setFeatureSpec : OpSpec :=
  { op := 0x02, aq := true, sq := false, flags := 0, minUnits := fun _ => 0, queued := false,
    used := fun p => [(32, 2), (40, 8)] ++ (if fieldAt p 32 2 = 4 then [(48, 8)] else [])
    params := fun s _ p =>
      firstRef [refuseIf (!isFeature (fieldAt p 32 2)) .badParam 32,
                refuseIf (!featureOk (fieldAt p 32 2) (fieldAt p 40 8)) .badParam 40,
                refuseIf (fieldAt p 32 2 = 4 && !hostOk s (fieldAt p 48 8) 1312) .badAddr]
    state := fun s q p =>
      if featureState s (fieldAt p 32 2) then none
      else some { st := .stateConflict, result := conflictResult s q p 0xFF 0xFF (fieldAt p 32 2) }
    resources := fun _ _ _ => none
    effect := fun c _ s =>
      decide_ c.key .ok [] (if fieldAt c.pkt 32 2 = 1 then s
        else setFeature (fieldAt c.pkt 32 2) (fieldAt c.pkt 40 8) (fieldAt c.pkt 48 8) s) }

/-- GET_FEATURE (R221): VALUE in RESULT 16-23; for IMAGE_KEYS the keys of slots 0 to 3 go to the reply buffer, an unset one as
zeros (DESIGN CHOICE, log 28: the packet names no slot). -/
def getFeatureSpec : OpSpec :=
  adminSpec 0x03 [(32, 2)] (fun _ _ p => refuseIf (!isFeature (fieldAt p 32 2)) .badParam 32) fun c _ s =>
    let f := fieldAt c.pkt 32 2
    let reply := if f = 4 then (List.range 4).flatMap fun i => sliceB (Tbl.getD s.features.keys i []) 0 1312 else []
    answer c.key reply (leBytes 8 (featureValue s f)) s

/-- TRACE_CTL (R233). -/
def traceCtlSpec : OpSpec :=
  adminSpec 0x60 [(32, 8), (40, 4), (44, 1), (46, 2)]
    (fun _ _ p => firstRef [refuseIf (fieldAt p 40 4 < 4096 || fieldAt p 40 4 > 1048576) .badParam 40,
                            refuseIf (byteAt p 44 > 15) .badParam 44])
    fun c _ s =>
      decide_ c.key .ok [] { s with trace := { base := fieldAt c.pkt 32 8, entries := fieldAt c.pkt 40 4,
                                               sampling := byteAt c.pkt 44, mask := fieldAt c.pkt 46 2 } }

/-! ### Counters (R234) -/

/-- Energy of a partition's column groups in µJ. -/
def partEnergy (s : State) (p : Part) : Nat :=
  ((List.range p.count).map fun i => (Tbl.getD s.nrg.live (0x100 + 8 * (p.first + i)) 0).toNat).sum

/-- The 128 B record of a partition. -/
def snapRecord (s : State) (p : Part) : List Byte :=
  let c := p.counters
  [BitVec.ofNat 8 p.first, BitVec.ofNat 8 (p.first + p.count - 1)] ++ List.replicate 6 0
    ++ ([c.rowsStreamed, c.rowsSkipped, c.spillRows, c.haloWords, c.gateTokens, c.gateDrops, c.refineSkipped, c.huddleLate,
         c.huddleBad, c.fabResidue].flatMap fun w => leBytes 8 w.toNat)
    ++ leBytes 8 (partEnergy s p) ++ List.replicate 32 0

/-- A snapshot of some partitions. -/
def snapshot (s : State) (ps : List Part) : List Byte :=
  leBytes 8 s.clk.rackTime.toNat ++ leBytes 4 ps.length ++ List.replicate 52 0 ++ ps.flatMap (snapRecord s)

/-- COUNTER_SNAPSHOT (R233, R234). -/
def counterSnapshotSpec : OpSpec :=
  { op := 0x61, aq := true, sq := true, flags := 0, minUnits := fun _ => 0, queued := false,
    used := fun _ => [(32, 1), (40, 8), (48, 4)]
    params := fun _ q p => refuseIf (byteAt p 32 > 1 || (q = 64 && byteAt p 32 = 1)) .badParam 32
    state := fun _ _ _ => none
    resources := fun _ _ _ => none
    effect := fun c _ s =>
      let ps := if byteAt c.pkt 32 = 0 then Tbl.vals s.parts
        else match (partOfJob s c.job).bind (Tbl.get? s.parts) with | some p => [p] | none => []
      writeOut c.key (fieldAt c.pkt 40 8) ((snapshot s ps).take (fieldAt c.pkt 48 4)) [] s }

/-! ### Budgets (R229, R268) -/

/-- BUDGET_SET (R268): rate, burst and class; the level is cut to the new burst at once. -/
def budgetSetSpec : OpSpec :=
  adminSpec 0x48 [(32, 2), (34, 1), (36, 4), (40, 4)]
    (fun _ _ p => firstRef [refuseIf (fieldAt p 32 2 > 4095) .badParam 32, refuseIf (byteAt p 34 > 2) .badParam 34])
    fun c _ s =>
      let a := fieldAt c.pkt 32 2
      let x := accountAt s a
      let burst := fieldAt c.pkt 40 4
      decide_ c.key .ok []
        (setAccount a { x with rate := fieldAt c.pkt 36 4, burst, cls := byteAt c.pkt 34,
                               level := min (levelNow s x) (burst * 4 * levelUnit), since := s.clk.rackTime } s)

/-- BUDGET_QUERY (R229): level in whole tokens, rounded down as R271 gives it; refill rate; burst. -/
def budgetQuerySpec : OpSpec :=
  adminSpec 0x49 [(32, 2)] (fun _ _ p => refuseIf (fieldAt p 32 2 > 4095) .badParam 32) fun c _ s =>
    let x := accountAt s (fieldAt c.pkt 32 2)
    decide_ c.key .ok (leBytes 4 (levelNow s x / (4 * levelUnit)) ++ leBytes 4 x.rate ++ leBytes 4 x.burst) s

/-! ### The rows -/

def execNop (q : Nat) (p : Pkt) (pick : Nat) (s : State) : Out := commit (hostCommand nopSpec q p pick s)
def execIdentify (q : Nat) (p : Pkt) (pick : Nat) (s : State) : Out := commit (hostCommand identifySpec q p pick s)
def execSetFeature (q : Nat) (p : Pkt) (pick : Nat) (s : State) : Out := commit (hostCommand setFeatureSpec q p pick s)
def execGetFeature (q : Nat) (p : Pkt) (pick : Nat) (s : State) : Out := commit (hostCommand getFeatureSpec q p pick s)
def execTraceCtl (q : Nat) (p : Pkt) (pick : Nat) (s : State) : Out := commit (hostCommand traceCtlSpec q p pick s)
def execCounterSnapshot (q : Nat) (p : Pkt) (pick : Nat) (s : State) : Out :=
  commit (hostCommand counterSnapshotSpec q p pick s)
def execBudgetSet (q : Nat) (p : Pkt) (pick : Nat) (s : State) : Out := commit (hostCommand budgetSetSpec q p pick s)
def execBudgetQuery (q : Nat) (p : Pkt) (pick : Nat) (s : State) : Out := commit (hostCommand budgetQuerySpec q p pick s)
def execPowerHint (q : Nat) (p : Pkt) (pick : Nat) (s : State) : Out := commit (hostCommand powerHintSpec q p pick s)

end Sys2Proof.Machine
end

