-- ==== Sys2Proof/Machine/Cancel.lean ====
section
/-! DEFINITION. CANCEL, and JOB_OPEN, JOB_CLOSE, PARTITION_ALLOC and PARTITION_FREE (R190, R223, R228, R240-R243, R253). -/
namespace Sys2Proof.Machine

/-- CANCEL of one command whose completion is not decided (R190). Answers whether it ended CANCELLED. -/
def cancelCmd (k : Nat × Nat) (s : State) : Bool × State :=
  match cmdAt s k with
  | none => (false, s)
  | some c =>
    if c.done.isSome || c.op = 0x33 || c.op = 0x09 then (false, s)
    else if c.op = 0x40 || c.op = 0x41 then
      match s.srv.reqs.find? fun r => r.2.state == .deferred && (match r.2.turn with | some t => (t.queue, t.seq) == k | none => false) with
      | some r => (true, cancelTurn r.1 s)
      | none =>
        match s.srv.reqs.find? fun r => (match r.2.held with | some t => (t.queue, t.seq) == k | none => false) with
        | some r => (true, decide_ k .cancelled [] (onReq r.1 (fun q => { q with held := none }) s))
        | none => (true, decide_ k .cancelled [] s)
    else
      match c.part.bind (Tbl.get? s.parts) with
      | some p =>
        if p.running = some k then (true, failRunning k .cancelled s)
        else if p.saving.any (fun v => (v.queue, v.seq) == k) then
          (true, decide_ k .cancelled [] (discardDescs k s))
        else
          (true, decide_ k .cancelled (endResult c .cancelled)
            (abortHuddles p.first c (unqueue k (discardTier k (discardDescs k s)))))
      | none =>
        (true, decide_ k .cancelled (if c.op = 0x20 then slotResult c else []) (discardTier k (discardDescs k s)))

/-- Several commands cancelled; answers those that ended CANCELLED. -/
def cancelAll (ks : List (Nat × Nat)) (s : State) : List (Nat × Nat) × State :=
  ks.foldl (fun a k => let r := cancelCmd k a.2; (if r.1 then a.1 ++ [k] else a.1, r.2)) ([], s)

/-- Incomplete commands of a job on its submission queues, oldest first. -/
def jobCmds (s : State) (j : Nat) : List (Nat × Nat) := (s.cmds.filter fun c => c.job == j && c.queue != 64).map Cmd.key

/-- CANCEL (R190, R228): it completes after the last command it ended. -/
def cancelSpec : OpSpec :=
  { op := 0x33, aq := true, sq := true, flags := 0, minUnits := fun _ => 0, queued := false,
    used := fun _ => [(32, 1), (33, 1), (36, 4), (40, 4)]
    params := fun _ _ p => refuseIf (byteAt p 32 > 2) .badParam 32
    state := fun _ _ _ => none
    resources := fun _ _ _ => none
    effect := fun c _ s =>
      let scope := byteAt c.pkt 32
      let own := fun (k : Nat × Nat) => ((cmdAt s k).map (·.job)) == some c.job
      let (ks, s1) :=
        if scope = 0 then
          let k := (byteAt c.pkt 33, fieldAt c.pkt 36 4)
          if own k then cancelAll [k] s else ([], s)
        else if scope = 1 then cancelAll ((jobCmds s c.job).filter (· != c.key)) s
        else
          match reqAt s (fieldAt c.pkt 40 4) with
          | some q =>
            if q.job = c.job then
              let open_ := fun (t : Option Turn) => match t with
                | some t => if (cmdAt s (t.queue, t.seq)).any (fun x => x.done.isNone) then [(t.queue, t.seq)] else []
                | none => []
              ((if q.state = .deferred then open_ q.turn else []) ++ open_ q.held, cancelTurn (fieldAt c.pkt 40 4) s)
            else ([], s)
          | none => ([], s)
      decide_ c.key .ok (leBytes 4 ks.length) (onCmd c.key (fun x => { x with waits := ks }) s1) }

/-! ### Jobs (R223, R240) -/

/-- Is a submission queue in use, or promised to a JOB_OPEN that has not completed? -/
def queueTaken (s : State) (n : Nat) : Bool :=
  Tbl.has s.queues n || s.cmds.any fun c => c.op == 0x08 && byteAt c.pkt 32 == n

/-- A job id that is free: none that a JOB_CLOSE still names, which completes beside the one that closes the job. -/
def freeJobId (s : State) (pick : Nat) : Option Nat :=
  (pickFree pick 1 65535 (Tbl.keys s.jobs ++ (s.cmds.filter (·.op == 0x09)).map (·.job))).or
    (pickFree pick 1 65535 (Tbl.keys s.jobs))

/-- JOB_OPEN (R223). -/
def jobOpenSpec : OpSpec :=
  { op := 0x08, aq := true, sq := false, flags := 1, minUnits := fun _ => 0, queued := false,
    used := fun _ => [(32, 1), (33, 1), (34, 2), (36, 4), (40, 8), (48, 8), (56, 4), (60, 2), (62, 1)]
    params := fun s _ p =>
      firstRef [refuseIf (!pktFlag p 0 && pktJob p != 0) .badParam 2,
                refuseIf (byteAt p 32 > 63 || queueTaken s (byteAt p 32)) .badParam 32,
                refuseIf (byteAt p 33 = 0 || byteAt p 33 > 64) .badParam 33,
                refuseIf (fieldAt p 34 2 < 2 || fieldAt p 34 2 > 127) .badParam 34,
                refuseIf (!powIn (fieldAt p 36 4) 6 16) .badParam 36,
                refuseIf (fieldAt p 40 8 % 4096 != 0) .badParam 40,
                refuseIf (fieldAt p 48 8 % 4096 != 0) .badParam 48,
                refuseIf (!powIn (fieldAt p 56 4) 6 16) .badParam 56,
                refuseIf (fieldAt p 60 2 > 4095) .badParam 60,
                refuseIf (byteAt p 62 > 2) .badParam 62]
    state := fun s q p =>
      if pktFlag p 0 && !([JobState.opened, .active, .saved].contains (jobStateOf s (pktJob p))) then conflict s q p else none
    resources := fun s _ p => refuseIf (!pktFlag p 0 && s.jobs.length ≥ 64) .refusedBusy
    effect := fun c pick s =>
      if bitAt (byteAt c.pkt 1) 0 then decide_ c.key .ok [] s
      else
        match freeJobId s pick with
        | none => decide_ c.key .refusedBusy [] s
        | some j =>
          let b : Job := { state := .opened, saveAsked := false, account := fieldAt c.pkt 60 2, prio := byteAt c.pkt 62,
                           part := none, bindings := [], models := [], plan := none, hseq := 0, saveSet := none,
                           closing := none }
          decide_ c.key .ok (leBytes 2 j) { s with jobs := Tbl.set s.jobs j b } }

/-- A JOB_CLOSE of a SAVED job cancels its suspended RUN, and what waits behind it, unless a CTX_RESTORE is to come (R253; what waits
DEDUCED: log 29). -/
def closeSaved (job : Nat) (s : State) : State :=
  let mine := fun (k : Nat × Nat) => (cmdAt s k).any fun c => c.job == job && c.done.isNone && c.op != 0x58
  let ks := (Tbl.vals s.parts).flatMap fun p => p.suspended.filter mine
  let waiting := (Tbl.vals s.parts).flatMap fun p => p.queue.filter mine
  let restore := waiting.any fun k => (cmdAt s k).any (·.op == 0x59)
  (cancelAll (if restore then ks else ks ++ waiting) s).2

/-- JOB_CLOSE (R223, R253): with FORCE every incomplete command is cancelled first; of a SAVED job the suspended RUN is
cancelled either way, at the latest when its CTX_SAVE completes. A second JOB_CLOSE, say one with FORCE, is accepted like the first (R218);
both complete together. -/
def jobCloseSpec : OpSpec :=
  { op := 0x09, aq := true, sq := false, flags := 1, minUnits := fun _ => 0, queued := false, used := fun _ => []
    params := fun _ _ _ => none
    state := fun _ _ _ => none
    resources := fun _ _ _ => none
    effect := fun c _ s =>
      let force := bitAt (byteAt c.pkt 1) 0
      let s1 := if force then (cancelAll (jobCmds s c.job) s).2 else if jobSaved s c.job then closeSaved c.job s else s
      settleClose c.job (onJob c.job (fun b => { b with closing := some c.key }) s1) }

/-! ### Partitions (R241, R243) -/

/-- Groups free and not withdrawn. -/
def groupsFree (s : State) (first n : Nat) : Bool :=
  first + n ≤ 32 && (List.range n).all fun i =>
    (partOfGroup s (first + i)).isNone && !bitAt (withdrawnMask s) (first + i)

/-- The outcome of an allocation: a partition to join (left), or the first group of a new one (right); none when there is no
partition. -/
def allocGroups (s : State) (p : Pkt) : Option (Nat ⊕ Nat) :=
  let join := fieldAt p 36 2
  let n := byteAt p 32
  let first := byteAt p 33
  let fmod := byteAt p 34
  if join != 0 then
    match (partOfJob s join).bind (Tbl.get? s.parts) with
    | some t => if t.shared then some (.inl t.first) else none
    | none => none
  else
    let fits := fun f => groupsFree s f n && (fmod = 0xFF || fmod = f % 4)
    if first != 0xFF then (if fits first then some (.inr first) else none)
    else ((List.range 32).find? fits).map .inr

/-- A new partition, its tiles in LOAD. -/
def newPart (s : State) (first n job : Nat) (shared : Bool) : Part :=
  { first, count := n, shared, members := [job], queue := [], running := none, suspended := [], saving := none, slotIdx := 0,
    frame := 1, held := false, stalls := [], huddle := none, lost := none, lastJob := 0, lastDemandEnd := none,
    fill := newFill s 0 0 false, hints := [], counters := Tbl.getD s.counts first PartCounters.reset, pace := none, handed := none }

/-- PARTITION_ALLOC (R241). A new partition takes over the load fill that still falls on its groups (R311). -/
def partitionAllocSpec : OpSpec :=
  { op := 0x10, aq := false, sq := true, flags := 0, minUnits := fun _ => 0, queued := false,
    used := fun _ => [(32, 1), (33, 1), (34, 1), (35, 1), (36, 2)]
    params := fun _ _ p =>
      let n := byteAt p 32
      let first := byteAt p 33
      if fieldAt p 36 2 != 0 then
        firstRef [refuseIf (n != 0) .badParam 32, refuseIf (first != 0) .badParam 33, refuseIf (byteAt p 34 != 0) .badParam 34,
                  refuseIf (byteAt p 35 != 0) .badParam 35]
      else
        firstRef [refuseIf (n = 0 || n > 32) .badParam 32, refuseIf (first != 0xFF && first + n > 32) .badParam 33,
                  refuseIf (byteAt p 34 > 3 && byteAt p 34 != 0xFF) .badParam 34, refuseIf (byteAt p 35 > 1) .badParam 35]
    state := fun s q p => if (partOfJob s (pktJob p)).isSome then conflict s q p else none
    resources := fun s _ p => refuseIf (allocGroups s p).isNone .noPartition
    effect := fun c _ s =>
      match allocGroups s c.pkt with
      | none => decide_ c.key .noPartition [] s
      | some (.inl f) =>
        let n := ((Tbl.get? s.parts f).map (·.count)).getD 0
        decide_ c.key .ok [BitVec.ofNat 8 f, BitVec.ofNat 8 n]
          (onPart f (fun t => { t with members := t.members ++ [c.job] }) (onJob c.job (fun b => { b with part := some f }) s))
      | some (.inr f) =>
        let n := byteAt c.pkt 32
        let t := newPart s f n c.job (bitAt (byteAt c.pkt 35) 0)
        decide_ c.key .ok [BitVec.ofNat 8 f, BitVec.ofNat 8 n]
          (takeLoose f n (onJob c.job (fun b => { b with part := some f }) { s with parts := Tbl.set s.parts f t })) }

/-- PARTITION_FREE (R243, R244): it enters the partition queue; PARTITION_COMMAND_START ends the membership. -/
def partitionFreeSpec : OpSpec :=
  { op := 0x11, aq := false, sq := true, flags := 0, minUnits := fun _ => 0, queued := true, used := fun _ => [],
    params := fun _ _ _ => none
    state := fun s q p => if s.cmds.any (fun c => c.job == pktJob p) then conflict s q p else none
    resources := fun s _ p => refuseIf (partOfJob s (pktJob p)).isNone .noPartition
    effect := fun _ _ s => s }

def execCancel (q : Nat) (p : Pkt) (pick : Nat) (s : State) : Out := commit (hostCommand cancelSpec q p pick s)
def execJobOpen (q : Nat) (p : Pkt) (pick : Nat) (s : State) : Out := commit (hostCommand jobOpenSpec q p pick s)
def execJobClose (q : Nat) (p : Pkt) (pick : Nat) (s : State) : Out := commit (hostCommand jobCloseSpec q p pick s)
def execPartitionAlloc (q : Nat) (p : Pkt) (pick : Nat) (s : State) : Out :=
  commit (hostCommand partitionAllocSpec q p pick s)
def execPartitionFree (q : Nat) (p : Pkt) (pick : Nat) (s : State) : Out := commit (hostCommand partitionFreeSpec q p pick s)

end Sys2Proof.Machine
end

