-- ==== Sys2Proof/Machine/Codec.lean ====
section
/-! DEFINITION. Stored blocks and their codecs (R192-R197). -/
namespace Sys2Proof.Machine

/-- The bits of bytes, from bit 0 of each byte up (R193). -/
def bytesToBits (l : List Byte) : List Bool := l.flatMap fun b => (List.range 8).map fun i => b.getLsbD i

def bitsToByte (l : List Bool) : Byte :=
  BitVec.ofNat 8 ((l.take 8).foldr (fun b n => ofBool b + 2 * n) 0)

def bitsToBytesAux : Nat → List Bool → List Byte
  | 0, _ => []
  | _, [] => []
  | f + 1, l => bitsToByte l :: bitsToBytesAux f (l.drop 8)

def bitsToBytes (l : List Bool) : List Byte := bitsToBytesAux (l.length / 8 + 1) l

/-- The number bits spell, first bit least significant. -/
def bitsNat (l : List Bool) : Nat := l.foldr (fun b n => ofBool b + 2 * n) 0

def natBits (n v : Nat) : List Bool := (List.range n).map (bitAt v ·)

/-- ⌈n / 32⌉ words of bits. -/
def pad32 (l : List Bool) : List Bool := l ++ List.replicate ((32 - l.length % 32) % 32) false

/-- Code length of each of the 16 symbols of a code table (R195). -/
def codeLens (tab : Nat) : List Nat := (List.range 16).map fun i => bitsOf tab (4 * i) 4

/-- Is the sum of 2^(−length) at most 1 (R195)? -/
def codeTabOk (tab : Nat) : Bool := ((codeLens tab).map fun l => if l = 0 then 0 else 2 ^ (15 - l)).sum ≤ 2 ^ 15

/-- (symbol, length, code) of the canonical code, in its order (R195). -/
def codeTable (tab : Nat) : List (Nat × Nat × Nat) :=
  let syms := (span 1 15).flatMap fun l => (List.range 16).filterMap fun s =>
    if (codeLens tab).getD s 0 = l then some (s, l) else none
  (syms.foldl (fun (acc : List (Nat × Nat × Nat)) p =>
    match acc with
    | [] => [(p.1, p.2, 0)]
    | (s, l, c) :: t => (p.1, p.2, (c + 1) * 2 ^ (p.2 - l)) :: (s, l, c) :: t) []).reverse

/-- A symbol's code as bits, most significant first. -/
def codeBits (l c : Nat) : List Bool := ((List.range l).map (bitAt c ·)).reverse

/-- One symbol read from a bitstream, `fuel` bits at most. -/
def readSym (t : List (Nat × Nat × Nat)) : Nat → Nat → Nat → List Bool → Option (Nat × List Bool)
  | 0, _, _, _ => none
  | _, _, _, [] => none
  | f + 1, l, c, b :: bs =>
    let c' := 2 * c + ofBool b
    match t.find? fun e => e.2.1 = l + 1 && e.2.2 = c' with
    | some e => some (e.1, bs)
    | none => readSym t f (l + 1) c' bs

def readSyms (t : List (Nat × Nat × Nat)) : Nat → List Bool → Option (List Nat × List Bool)
  | 0, bs => some ([], bs)
  | n + 1, bs =>
    match readSym t 15 0 0 bs with
    | none => none
    | some (s, bs') =>
      match readSyms t n bs' with
      | none => none
      | some (ss, r) => some (s :: ss, r)

def nibblesToBytes : List Nat → List Byte
  | a :: b :: t => BitVec.ofNat 8 (a + 16 * b) :: nibblesToBytes t
  | _ => []

/-- Exponent bits, mantissa bits and element bytes of an EXP-GROUP format (R194). -/
def expShape : Nat → Option (Nat × Nat × Nat)
  | 0 => some (4, 3, 1) | 1 => some (5, 2, 1) | 2 => some (8, 7, 2) | _ => none

/-- Elements of one EXP-GROUP group, and the bytes after it (R194). -/
def readGroup (ef : Nat) (l : List Byte) : Option (List Byte × List Byte) :=
  match expShape ef with
  | none => none
  | some (eb, mb, sz) =>
    let base := byteAt l 0
    let w := byteAt l 1
    let len := 2 + 4 * (mb + 1) + 4 * w
    if l.length < len || w > eb then none
    else
      let sm := bytesToBits (sliceB l 2 (4 * (mb + 1)))
      let off := bytesToBits (sliceB l (2 + 4 * (mb + 1)) (4 * w))
      let els := (List.range 32).map fun n =>
        let s := bitsNat ((sm.drop (n * (mb + 1))).take (mb + 1))
        let e := base + bitsNat ((off.drop (n * w)).take w)
        (s, e)
      if els.any fun p => p.2 ≥ 2 ^ eb then none
      else some (els.flatMap fun p => leBytes sz (p.1 % 2 ^ mb + p.2 * 2 ^ mb + p.1 / 2 ^ mb * 2 ^ (mb + eb)), l.drop len)

def readGroups (ef : Nat) : Nat → List Byte → Option (List Byte)
  | 0, l => if l = [] then some [] else none
  | n + 1, l =>
    match readGroup ef l with
    | none => none
    | some (els, r) => (readGroups ef n r).map (els ++ ·)

/-- The nonzero elements put in the places the bitmap names. -/
def fillBitmap (sz : Nat) : List Bool → List Byte → List Byte
  | [], _ => []
  | true :: t, vs => vs.take sz ++ fillBitmap sz t (vs.drop sz)
  | false :: t, vs => List.replicate sz 0 ++ fillBitmap sz t vs

/-- What a stored block decodes to: its plane, its plain bytes and whether its CRC matches; none for BAD_CODEC. -/
structure BlockOut where
  plane : Nat
  plain : List Byte
  crcOk : Bool
  deriving DecidableEq, Repr

/-- The payload of a codec decoded to `plen` plain bytes (R193). -/
def decodePayload (codec param plen tab : Nat) (pay : List Byte) : Option (List Byte) :=
  if param ≥ 4 then none
  else match codec with
  | 0 => if param = 0 && pay.length = plen then some pay else none
  | 1 => if param = 0 && pay = [] then some (List.replicate plen 0) else none
  | 2 =>
    if param = 3 then none
    else
      let sz := 2 ^ param
      let n := plen / sz
      let bm := 4 * ceilDiv n 32
      let bits := bytesToBits (pay.take bm)
      let set := ((bits.take n).filter id).length
      let vals := pay.drop bm
      if plen % sz != 0 || pay.length != bm + set * sz || (bits.drop n).any id
        || (chunks sz vals).any allZero then none
      else some (fillBitmap sz (bits.take n) vals)
  | 3 =>
    match expShape param with
    | none => none
    | some (_, _, sz) => if plen % (32 * sz) != 0 then none else readGroups param (plen / (32 * sz)) pay
  | 4 =>
    if param != 0 || tab = 0 then none
    else
      match readSyms (codeTable tab) (2 * plen) (bytesToBits pay) with
      | none => none
      | some (syms, r) => if r.length ≥ 8 || r.any id then none else some (nibblesToBytes syms)
  | _ => none

/-- Are the fields of a header in their ranges (R192)? -/
def storedHeadOk (hdr : List Byte) : Bool :=
  bitsOf (byteAt hdr 0) 0 4 ≤ 4 && bitsOf (byteAt hdr 0) 4 4 ≤ 3 && byteAt hdr 1 == 0 && 1 ≤ fieldAt hdr 2 2
    && fieldAt hdr 2 2 ≤ 4096 && fieldAt hdr 4 2 ≤ 4096 && fieldAt hdr 12 4 == 0

/-- A stored block decoded by R192-R194: `hdr` 16 bytes and its payload; `last` the object's last block. -/
def decodeBlock (tab : Nat) (last : Bool) (hdr pay : List Byte) : Option BlockOut :=
  let codec := bitsOf (byteAt hdr 0) 0 4
  let plane := bitsOf (byteAt hdr 0) 4 4
  let plen := fieldAt hdr 2 2
  let clen := fieldAt hdr 4 2
  if !storedHeadOk hdr || (plen < 4096 && !last) then none
  else
    match decodePayload codec (fieldAt hdr 6 2) plen tab (pay.take clen) with
    | none => none
    | some p => some { plane, plain := p, crcOk := crc32 p == fieldAt hdr 8 4 }

/-- Bytes a stored block takes: header and padded payload (R192). -/
def storedLen (hdr : List Byte) : Nat := 16 + 16 * ceilDiv (fieldAt hdr 4 2) 16

/-- An EXP-GROUP group of 32 elements (R194). -/
def writeGroup (ef : Nat) (els : List Nat) : List Byte :=
  match expShape ef with
  | none => []
  | some (eb, mb, _) =>
    let exps := els.map fun v => bitsOf v mb eb
    let base := (exps.min?).getD 0
    let w := ((exps.map fun e => if e = base then 0 else (e - base).log2 + 1).max?).getD 0
    let sm := els.flatMap fun v => natBits (mb + 1) (v % 2 ^ mb + bitsOf v (mb + eb) 1 * 2 ^ mb)
    let off := exps.flatMap fun e => natBits w (e - base)
    [BitVec.ofNat 8 base, BitVec.ofNat 8 w] ++ bitsToBytes sm ++ bitsToBytes off

/-- A codec's payload for a plain block, where the codec applies (R197). -/
def encodePayload (codec elem tab : Nat) (plain : List Byte) : Option (Nat × List Byte) :=
  match codec with
  | 0 => some (0, plain)
  | 1 => if allZero plain then some (0, []) else none
  | 2 =>
    let p := elem % 4
    let sz := 2 ^ p
    if p = 3 || plain.length % sz != 0 then none
    else
      let els := chunks sz plain
      some (p, bitsToBytes (pad32 (els.map fun e => !allZero e)) ++ (els.filter fun e => !allZero e).flatten)
  | 3 =>
    let p := elem / 4 % 4
    match expShape p with
    | none => none
    | some (_, _, sz) =>
      if plain.length % (32 * sz) != 0 then none
      else some (p, (chunks (32 * sz) plain).flatMap fun g => writeGroup p ((chunks sz g).map leNat))
  | 4 =>
    if tab = 0 then none
    else
      let t := codeTable tab
      let syms := plain.flatMap fun b => [b.toNat % 16, b.toNat / 16]
      let codes := syms.map fun s => (t.find? fun e => e.1 = s).map fun e => codeBits e.2.1 e.2.2
      if codes.any (·.isNone) then none else some (0, bitsToBytes ((codes.filterMap id).flatten))
  | _ => none

/-- A plain block stored: the shortest encoding, the lower CODEC on a tie (R197). -/
def encodeBlock (plane elem tab : Nat) (plain : List Byte) : List Byte :=
  let cands := (List.range 5).filterMap fun c => (encodePayload c elem tab plain).map fun p => (c, p)
  let fit := cands.filter fun c => c.2.2.length ≤ 4096
  let best := fit.foldl (fun (b : Nat × Nat × List Byte) c =>
    if ceilDiv c.2.2.length 16 < ceilDiv b.2.2.length 16 then c else b) (fit.headD (0, 0, plain))
  [BitVec.ofNat 8 (best.1 + 16 * plane), 0] ++ leBytes 2 plain.length ++ leBytes 2 best.2.2.length ++ leBytes 2 best.2.1
    ++ leBytes 4 (crc32 plain) ++ leBytes 4 0 ++ best.2.2
    ++ List.replicate ((16 - best.2.2.length % 16) % 16) 0

end Sys2Proof.Machine
end

