-- ==== Sys2Proof/Machine/Objects.lean ====
section
/-! DEFINITION. Objects and the tier engines: OBJ_PLACE, OBJ_MOVE, the release, OBJ_PIN and the page switch (R159-R167, R181,
R225). -/
namespace Sys2Proof.Machine

/-! ### OBJ_PLACE (R159-R162, R225) -/

/-- Tiers of R225 that a type may be placed in (R159). -/
def typeTier (type tier : Nat) : Bool :=
  if type = 4 || type = 6 then tier ≤ 2 else tier = 1 || tier = 2

/-- Object flags that a type may carry when placed: bits 3-7 are refused, and bit 2 has no effect, since only OBJ_PIN sets PINNED
(R159, R160). -/
def flagsOk (type flags : Nat) : Bool :=
  flags ≤ 7 && (!bitAt flags 0 || type = 1 || type = 2) && (!bitAt flags 1 || type = 2)

/-- ELEM's ranges (R224). -/
def elemOk (e : Nat) : Bool := e < 16 && bitsOf e 0 2 ≤ 2 && bitsOf e 2 2 ≤ 2

/-- A new object with no pages yet. -/
def mkObj (job type flags plane elem codetab len stackMask : Nat) : Obj :=
  { job, type, compressed := bitAt flags 0, cold := bitAt flags 1, pinned := false, plane, elem, codetab, len,
    stackMask := if stackMask = 0 then 0xFF else stackMask, pages := [], bankUnit := none, owner := none, lower := none,
    moving := [], gone := false, pool := false }

/-- 64 KiB units of a bank object. -/
def bankUnits (len : Nat) : Nat := ceilDiv len 65536

/-- The region a bank object would get. -/
def bankFit (s : State) (job len : Nat) : Option Nat :=
  ((partOfJob s job).bind (Tbl.get? s.parts)).bind fun p => fitUnits (usedUnits s p) (bankUnits len)

/-- Space for an object of OBJ_PLACE: a bank unit (left) or pages (right). -/
def placeSpace (s : State) (p : Pkt) (pick : Nat) : Option (Nat ⊕ List Nat) :=
  let len := fieldAt p 40 8
  if byteAt p 34 = 0 then (bankFit s (pktJob p) len).map .inl
  else (allocTier s (byteAt p 34) (byteAt p 35) (pagesOf len) pick).map .inr

def objPlaceSpec : OpSpec :=
  { op := 0x28, aq := false, sq := true, flags := 0, minUnits := fun _ => 0, queued := false,
    used := fun _ => [(32, 6), (40, 8), (48, 8)]
    params := fun _ _ p =>
      firstRef [refuseIf (! [1, 2, 3, 4, 6].contains (byteAt p 32)) .badParam 32,
                refuseIf (!flagsOk (byteAt p 32) (byteAt p 33)) .badParam 33,
                refuseIf (!typeTier (byteAt p 32) (byteAt p 34)) .badParam 34,
                refuseIf (byteAt p 36 > 3) .badParam 36, refuseIf (!elemOk (byteAt p 37)) .badParam 37,
                refuseIf (fieldAt p 40 8 = 0 || fieldAt p 40 8 > 2 ^ 41) .badParam 40,
                refuseIf (!codeTabOk (fieldAt p 48 8)) .badParam 48]
    state := fun s q p => if byteAt p 34 = 0 && jobStateOf s (pktJob p) == .saved then conflict s q p else none
    resources := fun s _ p =>
      firstRef [refuseIf (byteAt p 34 = 0 && (bankFit s (pktJob p) (fieldAt p 40 8)).isNone) .noPartition,
                if objectsFull s 1 || (placeSpace s p 0).isNone
                then some { st := .refusedBusy, reply := freeCounts s } else none]
    effect := fun c pick s =>
      let p := c.pkt
      match chosen (placeSpace s p) pick, pickFree pick 1 (2 ^ 25 - 1) (Tbl.keys s.objs) with
      | some sp, some h =>
        let o := mkObj c.job (byteAt p 32) (byteAt p 33) (byteAt p 36) (byteAt p 37) (fieldAt p 48 8) (fieldAt p 40 8)
          (byteAt p 35)
        let o1 := match sp with
          | .inl u => { o with bankUnit := some u, len := bankUnits o.len * 65536 }
          | .inr l => { o with pages := l }
        decide_ c.key .ok (leBytes 4 h) { s with objs := Tbl.set s.objs h o1 }
      | _, _ => decide_ c.key .refusedBusy [] s }

/-! ### OBJ_MOVE (R163, R167) -/

/-- The range of pages a move names. -/
def moveRange (o : Obj) (p : Pkt) : List Nat :=
  if fieldAt p 44 4 = 0 then List.range o.pages.length else (List.range (fieldAt p 44 4)).map (fieldAt p 40 4 + ·)

/-- Is a page already where it is to go? -/
def inPlace (a tier mask p : Nat) : Bool :=
  if tier = 2 then inDdr a else inHbm a && (a - hbmBase) / stackSize == stackFor mask p

/-- Pages that have to move. -/
def toMove (o : Obj) (p : Pkt) : List Nat :=
  (moveRange o p).filter fun i => !inPlace (o.pages.getD i 0) (byteAt p 36) (byteAt p 37) i

/-- Is there room for the pages of a move: in DDR5, or on each stack? -/
def moveFits (s : State) (o : Obj) (p : Pkt) : Bool :=
  let l := toMove o p
  if byteAt p 36 = 2 then ddrBytes s != 0 && l.length ≤ ddrFree s
  else (List.range 8).all fun k => (l.filter fun i => stackFor (byteAt p 37) i == k).length ≤ stackFree s k

/-- Objects that OBJ_MOVE never takes: IMAGE, bank (but for a release), a slot's, pinned, with pages in motion. -/
def fixedObj (o : Obj) (range : List Nat) : Bool :=
  o.type == 5 || o.owner.isSome || o.pinned || range.any fun i => o.moving.contains i

def objMoveSpec : OpSpec :=
  { op := 0x29, aq := false, sq := true, flags := 0, minUnits := fun _ => 0, queued := false,
    used := fun _ => [(32, 6), (40, 8)]
    params := fun s _ p =>
      firstRef [match liveObj s (fieldAt p 32 4) with
                | some o => refuseIf (o.job == pktJob p && (o.bankUnit.isSome || fixedObj o (moveRange o p))) .badParam 32
                | none => none,
                refuseIf (byteAt p 36 != 1 && byteAt p 36 != 2) .badParam 36,
                match liveObj s (fieldAt p 32 4) with
                | some o => refuseIf (o.job == pktJob p && fieldAt p 44 4 != 0
                    && fieldAt p 40 4 + fieldAt p 44 4 > o.pages.length) .badParam 40
                | none => none]
    state := fun _ _ _ => none
    resources := fun s _ p =>
      firstRef [nameObj s (pktJob p) (fieldAt p 32 4),
                match liveObj s (fieldAt p 32 4) with
                | some o => refuseIf (!moveFits s o p) .refusedBusy
                | none => none]
    effect := fun c _ s =>
      let h := fieldAt c.pkt 32 4
      match liveObj s h with
      | none => decide_ c.key .objectGone [] s
      | some o =>
        let l := toMove o c.pkt
        let mask := if byteAt c.pkt 37 = 0 then 0xFF else byteAt c.pkt 37
        let whole := (moveRange o c.pkt).length = o.pages.length && byteAt c.pkt 36 = 1
        let s1 := onObj h (fun o => { o with moving := o.moving ++ l, stackMask := if whole then mask else o.stackMask }) s
        if l = [] then decide_ c.key .ok [] s1
        else
          let js := l.map fun i => { mkTier .move c.key h i with dst := byteAt c.pkt 36, mask := mask }
          dispatch { s1 with tierQueue := s1.tierQueue ++ js } }

/-- Raw addresses and writes in flight follow a page from its old place to its new one (R163). -/
def followPage (old dst : Nat) (s : State) : State :=
  let from_ := old / pageSize
  let new_ := dst / pageSize
  let lead := fun (t : Tbl Nat) =>
    let t1 := t.map fun e => if e.2 = from_ then (e.1, new_) else e
    if Tbl.has t1 from_ then t1 else Tbl.set t1 from_ new_
  let land := fun (w : Nat × List Byte) => if old ≤ w.1 && w.1 < old + pageSize then (dst + (w.1 - old), w.2) else w
  { s with
    descs := s.descs.map fun e =>
      if e.2.handle = 0 && !e.2.done then (e.1, { e.2 with redirect := lead e.2.redirect }) else e
    fox := s.fox.map fun e => { e with bursts := e.bursts.map fun b => { b with out := b.out.map land } } }

/-- The stored block of a COMPRESSED object that holds offset `x`: where it starts, and its length. -/
def blockHolding (rd : Nat → Nat → List Byte) (x : Nat) : Nat → Nat → Nat × Nat
  | 0, a => (a, 16)
  | f + 1, a => let m := storedLen (rd a 16); if x < a + m then (a, m) else blockHolding rd x f (a + m)

/-- The stored bytes of a range of an object, unchecked. -/
def storedBytes (s : State) (o : Obj) (x n : Nat) : List Byte := (objSpans s o x n).flatMap fun p => readMem s p.1 p.2

/-- The stored block of an object that holds offset `x`: a block of a COMPRESSED object, else 4 KiB (R178, R205). -/
def badStored (o : Obj) (x : Nat) (s : State) : Nat × Nat :=
  if o.compressed then blockHolding (storedBytes s o) x (x / 16 + 1) 0
  else (x / 4096 * 4096, min 4096 (o.len - x / 4096 * 4096))

/-- Is the block that ends at stored offset `x` of an object its last: no other header fits, or none follows (R192; DEDUCED, log 27:
the stored length of a COMPRESSED object is a capacity)? -/
def lastBlock (o : Obj) (rd : Nat → Nat → List Byte) (x : Nat) : Bool :=
  decide (x + 16 > o.len) || (o.compressed && !storedHeadOk (rd x 16))

/-- A stored block read again from a lower copy, and checked by decoding it (R205): whether it is sound, and the read. -/
def lowerRead (o : Obj) (off len : Nat) (s : State) : Bool × EccRead :=
  let r := objRead o off len s
  let decoded := decodeBlock o.codetab (lastBlock o (storedBytes s o) (off + len)) (r.bytes.take 16) (r.bytes.drop 16)
  (r.ue = [] && (!o.compressed || (decoded.map (·.crcOk)).getD false), r)

/-- One uncorrectable word of page `i` re-streamed from the lower copy `low`: the block is written back, or the command fails. -/
def mendWord (k : Nat × Nat) (job : Nat) (o low : Obj) (i : Nat) (x : Bool × State) (e : ErrWord) : Bool × State :=
  if !x.1 then x
  else
    let sp := badStored o (i * pageSize + e.addr % pageSize) x.2
    let (ok, r) := lowerRead low sp.1 sp.2 x.2
    if ok then (true, objWrite o sp.1 r.bytes (postUe [e] false 0 none job r.st))
    else (false, failRunning k .uncorrectable (postUe (e :: r.ue) false 1 none job r.st))

/-- A page read by the tier engine that copies it for command `k` (R321, R322): may it be copied? An uncorrectable word is re-streamed from
a lower copy; without one the command fails UNCORRECTABLE for WEIGHTS, EXPERT and IMAGE data, other data is a job fault (R178). -/
def pageSound (k : Nat × Nat) (o : Obj) (i : Nat) (s : State) : Bool × State :=
  if s.mctl.errs = [] then (true, s)
  else
    let c := cmdAt s k
    let job := (c.map (·.job)).getD o.job
    let r := eccReadAt (o.pages.getD i 0) pageSize s
    if r.ue = [] then (true, r.st)
    else
      match (o.lower.filter fun l => (liveObj s l).isSome).bind (Tbl.get? s.objs) with
      | some low => r.ue.foldl (mendWord k job o low i) (true, r.st)
      | none =>
        if o.type = 1 || o.type = 2 || o.type = 5 then (false, failRunning k .uncorrectable (postUe r.ue false 1 none job r.st))
        else (false, ueFault r.ue 4 (c.bind (·.part)) none job r.st)

/-- The copy of a page of a range, its mapping switched, the old page freed. -/
def switchPage (h i dst : Nat) (s : State) : State :=
  match Tbl.get? s.objs h with
  | none => s
  | some o =>
    let old := o.pages.getD i 0
    followPage old dst (onObj h (fun o => { o with pages := modAt o.pages i fun _ => dst, moving := o.moving.erase i })
      (pasteMem dst pageSize (Mem.slice s.mem old pageSize) s))

/-- Work that found no free page goes back to the queue; a page of PAGE_WAIT resolution is no longer in motion (R188). -/
def requeueTier (j : Nat) (t : TierJob) (s : State) : State :=
  let s1 := if t.kind == .pageWait then onObj t.handle (fun o => { o with moving := o.moving.erase t.idx }) s else s
  popEngine j { s1 with tierQueue := s1.tierQueue ++ [t] }

/-- PAGE_SWITCH (R163, R167, R188): tier engine `j` has copied the page it works on; its mapping switches. The last page of an
OBJ_MOVE completes it. A re-streaming that was overtaken by its descriptor's end is over (R190, R205). -/
def execPageSwitch (j pick : Nat) (s : State) : Out :=
  commit (
    match engineJob s j with
    | none => s
    | some t =>
      if t.kind == .restream && t.void then popEngine j s
      else if t.kind != .move && t.kind != .pageWait || s.dump.fault.isSome then s
      else
        match Tbl.get? s.objs t.handle with
        | none => popEngine j s
        | some o =>
          if t.void then popEngine j (onObj t.handle (fun o => { o with moving := o.moving.erase t.idx }) s)
          else
            let page :=
              if t.kind = .move && t.dst = 2 then allocDdr s 1 pick
              else allocHbm s (2 ^ stackFor (if t.kind = .move then t.mask else o.stackMask) t.idx) 1 pick
            match page with
            | some (a :: _) =>
              let k := (t.queue, t.seq)
              match pageSound k o t.idx s with
              | (false, s1) => popEngine j (onObj t.handle (fun o => { o with moving := o.moving.erase t.idx }) s1)
              | (true, s1) =>
                let s2 := popEngine j (noteMoved k pageSize 0 (switchPage t.handle t.idx a s1))
                let more := s2.tierQueue.any (fun x => x.kind == .move && (x.queue, x.seq) == k)
                  || s2.tiers.any fun e => e.work.any fun x => x.kind == .move && (x.queue, x.seq) == k
                if t.kind = .move && !more then settle (decide_ k .ok [] s2) else s2
            | _ => requeueTier j t s)

/-! ### Release and pin (R164, R165) -/

/-- Commands with a halted descriptor on a released object fail with OBJECT_GONE (R188). -/
def failHalted (h : Nat) (s : State) : State :=
  ((Tbl.vals s.descs).filter fun d => d.handle == h && d.halted.isSome && !d.done && !d.withdrawn).foldl
    (fun a d => failDesc d .objectGone a) s

/-- Does an OBJ_MOVE move pages of the object? A page that PAGE_WAIT resolution moves keeps no release back (R165, R188). -/
def underMove (s : State) (h : Nat) : Bool :=
  (s.tierQueue ++ s.tiers.flatMap (·.work)).any fun j => j.kind == .move && j.handle == h

def objReleaseSpec : OpSpec :=
  { op := 0x29, aq := false, sq := true, flags := 0, minUnits := fun _ => 0, queued := false,
    used := fun _ => [(32, 6), (40, 8)]
    params := fun s _ p =>
      firstRef [match liveObj s (fieldAt p 32 4) with
                | some o => refuseIf (o.job == pktJob p && (fixedObj o [] || underMove s (fieldAt p 32 4))) .badParam 32
                | none => none,
                refuseIf (byteAt p 37 != 0) .badParam 37, refuseIf (fieldAt p 40 4 != 0) .badParam 40,
                refuseIf (fieldAt p 44 4 != 0) .badParam 44]
    state := fun s q p =>
      match liveObj s (fieldAt p 32 4) with
      | some o => if o.bankUnit.isSome && o.job == pktJob p && jobStateOf s (pktJob p) == .saved then conflict s q p else none
      | none => none
    resources := fun s _ p => nameObj s (pktJob p) (fieldAt p 32 4)
    effect := fun c _ s =>
      let h := fieldAt c.pkt 32 4
      dispatch (decide_ c.key .ok [] (failHalted h (releaseObj h s))) }

def objPinSpec : OpSpec :=
  { op := 0x2A, aq := false, sq := true, flags := 0, minUnits := fun _ => 0, queued := false,
    used := fun _ => [(32, 5)]
    params := fun s _ p =>
      firstRef [match liveObj s (fieldAt p 32 4) with
                | some o => refuseIf (o.job == pktJob p && o.bankUnit.isSome) .badParam 32
                | none => none,
                refuseIf (byteAt p 36 > 1) .badParam 36]
    state := fun _ _ _ => none
    resources := fun s _ p => nameObj s (pktJob p) (fieldAt p 32 4)
    effect := fun c _ s =>
      if byteAt c.pkt 36 = 1 then settlePins s
      else dispatch (decide_ c.key .ok [] (onObj (fieldAt c.pkt 32 4) (fun o => { o with pinned := false }) s)) }

/-! ### Unit failure (R330) -/

/-- A tier engine fails: its work goes back to the queue and restarts, a cold fetch by its own row; void work is dropped. -/
def failTier (i : Nat) (t : TierEng) (s : State) : State :=
  let still := fun (j : TierJob) => !(j.kind == .pageWait || (j.kind == .move && j.void))
  let s1 := (t.work.filter fun j => !still j).foldl
    (fun a j => onObj j.handle (fun o => { o with moving := o.moving.erase j.idx }) a) s
  dispatch (sweepObjs { s1 with
    tiers := modAt s1.tiers i fun _ => { work := [], failed := true }
    tierQueue := (t.work.filter fun j => !j.void && j.kind != .cold) ++ s1.tierQueue
    cold := s1.cold.filter fun e => e.landed || !(t.work.any fun j => j.kind == .cold && j.handle == e.expert) })

/-- UNIT_FAILURE (R330): a Badger core (1), Fox engine (2) or tier engine (3) fails in service. A Fox engine's bursts pass to
its pair-mate. -/
def execUnitFailure (code n : Nat) (s : State) : Out :=
  commit (
    if s.glb.state == .off then s
    else match code with
    | 1 =>
      let m := ~~~(BitVec.ofNat 10 (2 ^ n))
      if n < 10 then { s with ras := { s.ras with bcGood := s.ras.bcGood &&& m, bcActive := s.ras.bcActive &&& m } } else s
    | 2 =>
      match s.fox[n]? with
      | none => s
      | some f =>
        let mate := if n % 2 = 0 then n + 1 else n - 1
        { s with fox := modAt (modAt s.fox n fun x => { x with failed := true, bursts := [] }) mate fun x =>
            { x with bursts := x.bursts ++ f.bursts } }
    | 3 =>
      match s.tiers[n]? with
      | none => s
      | some t => failTier n t s
    | _ => s)

def execObjPlace (q : Nat) (p : Pkt) (pick : Nat) (s : State) : Out := commit (hostCommand objPlaceSpec q p pick s)

/-- OBJ_MOVE with a tier other than NONE. -/
def execObjMove (q : Nat) (p : Pkt) (pick : Nat) (s : State) : Out :=
  commit (if byteAt p 36 = 0xFF then s else hostCommand objMoveSpec q p pick s)

def execObjPin (q : Nat) (p : Pkt) (pick : Nat) (s : State) : Out := commit (hostCommand objPinSpec q p pick s)

end Sys2Proof.Machine
end

