-- ==== Sys2Proof/Machine/Models.lean ====
section
/-! DEFINITION. Model slots: MODEL_STAGE and its resupply, the copying of shards, the staging timeout, MODEL_COMMIT and
MODEL_EVICT (R170-R174, R202-R204, R224). -/
namespace Sys2Proof.Machine

/-! ### Member tables (R224) -/

/-- The 64 B entries of a member table. -/
def memberEntries (s : State) (addr n : Nat) : List (List Byte) := (List.range n).map fun i => readHost s (addr + 64 * i) 64

/-- A member entry's own fields: it names a buffer symbol of the image and has that symbol's object type (R81, R224: log 28). -/
def memberOk (b : List Byte) (e : List Byte) : Bool :=
  (match symOf b (fieldAt e 0 2) with | some y => y.kind == 1 && y.objType == byteAt e 2 | none => false)
    && (byteAt e 2 = 1 || byteAt e 2 = 2) && flagsOk (byteAt e 2) (byteAt e 3) && byteAt e 4 ≤ 1 && byteAt e 6 ≤ 3
    && elemOk (byteAt e 7) && fieldAt e 16 8 != 0 && fieldAt e 24 8 != 0 && fieldAt e 16 8 ≤ 2 ^ 41
    && (bitAt (byteAt e 3) 0 || fieldAt e 16 8 = fieldAt e 24 8) && codeTabOk (fieldAt e 40 8) && allZero (sliceB e 48 16)

/-- Does some symbol have two member entries? A member is named by its symbol (R224: log 28). -/
def memberTwice (es : List (List Byte)) : Bool := !decide (es.map (fieldAt · 0 2)).Nodup

/-- A DDR5 source in the member's stored form and long enough (R202). -/
def sourceOk (o : Obj) (e : List Byte) : Bool :=
  o.compressed == bitAt (byteAt e 3) 0 && o.bankUnit.isNone && o.pages.all inDdr && fieldAt e 16 8 ≤ o.len

/-- The slot a MODEL_STAGE acts on (R171). -/
def stageTarget (m : Model) : Bool :=
  match liveSlot m with
  | some b => !b
  | none => m.a.state == .retiring

def stageConflict (m : Model) : Bool :=
  let t := stageTarget m
  (slotOf m t).state != .empty || (slotOf m (!t)).state == .staging || (slotOf m (!t)).state == .staged

/-- STATE_CONFLICT of a model command carries both slots' states (R219). -/
def modelConflict (s : State) (q : Nat) (p : Pkt) (m : Model) : Option Ref :=
  some { st := .stateConflict, result := conflictResult s q p (slotCode m.a.state) (slotCode m.b.state) 0 }

/-- The image handle a command names: its outcome when it is not the job's (R165, R166). -/
def nameImage (s : State) (job h : Nat) : Option Ref :=
  match Tbl.get? s.images h with
  | none => some { st := .objectGone }
  | some i => if i.job = job then none else some { st := .badAddr }

/-! ### Shards (R202) -/

def shardSize : Nat := 4194304

def shardCount (plain : Nat) : Nat := ceilDiv plain shardSize

/-- Stored bytes of `n` blocks from an offset, walking the block headers. -/
def walkBlocks (rd : Nat → Nat → List Byte) : Nat → Nat → Nat
  | 0, off => off
  | n + 1, off => walkBlocks rd n (off + storedLen (rd off 16))

/-- Stored offset and length of shard `i` of a member, read through `rd`. -/
def shardSpan (rd : Nat → Nat → List Byte) (compressed : Bool) (stored plain i : Nat) : Nat × Nat :=
  if compressed then
    let a := walkBlocks rd (1024 * i) 0
    let left := ceilDiv (plain - shardSize * i) 4096
    let b := walkBlocks rd (min 1024 left) a
    (min a stored, min b stored - min a stored)
  else (shardSize * i, min shardSize (stored - shardSize * i))

/-- Bytes of a member's source. -/
def sourceRead (s : State) (m : Member) (off n : Nat) : List Byte :=
  if m.source = 1 then readHost s (m.srcAddr + off) n
  else match Tbl.get? s.objs m.srcAddr with
    | some o => (objSpans s o off n).flatMap fun x => readMem s x.1 x.2
    | none => List.replicate n 0

/-- The checked read of a shard's source: corrected words are counted; an uncorrectable word is reported, and the digest then
cannot match (R203, R328). -/
def sourceCheck (m : Member) (off n job : Nat) (s : State) : Bool × State :=
  if m.source = 1 then (true, s)
  else match Tbl.get? s.objs m.srcAddr with
    | some o =>
      let r := objRead o off n s
      (r.ue = [], postUe r.ue false 3 none job r.st)
    | none => (true, s)

def memberSpan (s : State) (m : Member) (i : Nat) : Nat × Nat :=
  let c := ((Tbl.get? s.objs m.handle).map (·.compressed)).getD false
  shardSpan (sourceRead s m) c m.len m.plain i

/-- The digest a shard must have. -/
def shardDigest (s : State) (m : Member) (i : Nat) : List Byte := readHost s (m.digests + 32 * i) 32

/-- SHARD_BAD (R204). -/
def shardBadEvent (g : StageJob) (job cause member shard : Nat) (s : State) : State :=
  postEvent 0x0402 0x00 job
    (leBytes 2 g.model ++ [BitVec.ofNat 8 (ofBool g.slotB), BitVec.ofNat 8 cause] ++ leBytes 2 member ++ leBytes 4 shard
      ++ List.replicate 6 0) s

/-- A MODEL_STAGE fails: its shards not yet started are discarded. Its completion returns the slot to EMPTY (R171). -/
def failStage (k : Nat × Nat) (st : Status) (s : State) : State :=
  match cmdAt s k with
  | none => s
  | some c => settle (decide_ k st (slotResult c) (discardTier k s))

/-! ### MODEL_STAGE -/

/-- One member's object, with its pages; none when they do not fit. -/
def stageMember (job model pick : Nat) (slotB : Bool) (acc : Option (List Member × State)) (e : List Byte) :
    Option (List Member × State) :=
  acc.bind fun a =>
    let s := a.2
    match allocHbm s (byteAt e 5) (pagesOf (fieldAt e 16 8)) pick, pickFree (pick + a.1.length) 1 (2 ^ 25 - 1) (Tbl.keys s.objs) with
    | some pages, some h =>
      let o := { mkObj job (byteAt e 2) (byteAt e 3) (byteAt e 6) (byteAt e 7) (fieldAt e 40 8) (fieldAt e 16 8) (byteAt e 5) with
        pages := pages, owner := some (model, slotB), lower := if byteAt e 4 = 0 then some (fieldAt e 8 8) else none }
      let m : Member := { sym := fieldAt e 0 2, handle := h, source := byteAt e 4, srcAddr := fieldAt e 8 8,
                          len := fieldAt e 16 8, plain := fieldAt e 24 8, digests := fieldAt e 32 8,
                          shards := List.replicate (shardCount (fieldAt e 24 8)) 0, badAt := [] }
      some (a.1 ++ [m], { s with objs := Tbl.set s.objs h o })
    | _, _ => none

/-- All members of a stage, with their pages; none when they do not all fit. -/
def stageMembers (job model : Nat) (slotB : Bool) (es : List (List Byte)) (s : State) (pick : Nat) : Option (List Member × State) :=
  es.foldl (stageMember job model pick slotB) (some ([], s))

def modelStageSpec : OpSpec :=
  { op := 0x20, aq := false, sq := true, flags := 1, minUnits := fun _ => 0, queued := false,
    used := fun _ => [(32, 2), (36, 4), (40, 8), (48, 4), (52, 1), (54, 2), (56, 4)]
    params := fun s _ p =>
      let es := memberEntries s (fieldAt p 40 8) (fieldAt p 48 4)
      firstRef [refuseIf (fieldAt p 32 2 > 1023) .badParam 32,
                refuseIf (fieldAt p 48 4 = 0 || fieldAt p 48 4 > 4096) .badParam 48,
                refuseIf (byteAt p 52 != 0) .badParam 52, refuseIf (fieldAt p 54 2 != 0) .badParam 54,
                refuseIf (fieldAt p 56 4 != 0) .badParam 56,
                refuseIf (!hostOk s (fieldAt p 40 8) (64 * fieldAt p 48 4)) .badAddr,
                if (nameImage s (pktJob p) (fieldAt p 36 4)).isSome then none
                else refuseIf (memberTwice es || es.any fun e => !memberOk (imgOf s (fieldAt p 36 4)) e) .badParam noLoc,
                refuseIf (es.any fun e => byteAt e 4 = 0 && match liveObj s (fieldAt e 8 8) with
                  | some o => o.job == pktJob p && !sourceOk o e
                  | none => false) .badParam noLoc]
    state := fun s q p =>
      let m := modelAt s (pktJob p) (fieldAt p 32 2)
      if stageConflict m then modelConflict s q p m else none
    resources := fun s _ p =>
      let es := memberEntries s (fieldAt p 40 8) (fieldAt p 48 4)
      firstRef [nameImage s (pktJob p) (fieldAt p 36 4),
                es.findSome? fun e => if byteAt e 4 = 0 then nameObj s (pktJob p) (fieldAt e 8 8) else none,
                if objectsFull s es.length || (stageMembers (pktJob p) (fieldAt p 32 2)
                    (stageTarget (modelAt s (pktJob p) (fieldAt p 32 2))) es s 0).isNone then some { st := .refusedBusy, reply := freeCounts s } else none]
    effect := fun c pick s =>
      let model := fieldAt c.pkt 32 2
      let m := modelAt s c.job model
      let t := stageTarget m
      let es := memberEntries s (fieldAt c.pkt 40 8) (fieldAt c.pkt 48 4)
      match chosen (stageMembers c.job model t es s) pick with
      | none => decide_ c.key .refusedBusy [] s
      | some (ms, s1) =>
        let s2 := setModel c.job model (setSlot m t { state := .staging, members := ms.map fun x => (x.sym, x.handle), bound := 0 }) s1
        let js := (ms.zipIdx).flatMap fun x => (List.range x.1.shards.length).map fun i =>
          { mkTier .shard c.key x.1.handle i with member := x.2 }
        dispatch (onCmd c.key (fun c => { c with staging := some { model, slotB := t, members := ms }, started := true })
          { s2 with tierQueue := s2.tierQueue ++ js }) }

/-- The MODEL_STAGE that builds a slot. -/
def stagingCmd (s : State) (job model : Nat) (slotB : Bool) : Option Cmd :=
  s.cmds.find? fun c => c.job == job && c.done.isNone && (match c.staging with
    | some g => g.model == model && g.slotB == slotB
    | none => false)

/-- Is a shard awaited from the host (R203)? -/
def awaited (s : State) (p : Pkt) : Bool :=
  match stagingCmd s (pktJob p) (fieldAt p 32 2) (byteAt p 52 = 1) with
  | some c => (((c.staging.map (·.members)).getD [])[fieldAt p 54 2]?).any fun m => m.shards[fieldAt p 56 4]? == some 3
  | none => false

/-- MODEL_STAGE with RESUPPLY (R203): the stored bytes of an awaited shard, which a tier engine hashes. -/
def resupplySpec : OpSpec :=
  { modelStageSpec with
    params := fun s _ p =>
      firstRef [refuseIf (fieldAt p 32 2 > 1023) .badParam 32, refuseIf (byteAt p 52 > 1) .badParam 52,
                refuseIf (!awaited s p) .badParam 56, refuseIf (!hostOk s (fieldAt p 40 8) (fieldAt p 48 4)) .badAddr]
    state := fun _ _ _ => none
    resources := fun _ _ _ => none
    effect := fun c _ s =>
      let h := match stagingCmd s c.job (fieldAt c.pkt 32 2) (byteAt c.pkt 52 = 1) with
        | some g => ((((g.staging.map (·.members)).getD [])[fieldAt c.pkt 54 2]?).map (·.handle)).getD 0
        | none => 0
      let j := { mkTier .shard c.key h (fieldAt c.pkt 56 4) with
        member := fieldAt c.pkt 54 2, supply := some (fieldAt c.pkt 40 8, fieldAt c.pkt 48 4) }
      dispatch (onCmd c.key (fun c => { c with started := true }) { s with tierQueue := s.tierQueue ++ [j] }) }

/-- A member of a stage changed. -/
def onMember (k : Nat × Nat) (i : Nat) (f : Member → Member) (s : State) : State :=
  onCmd k (fun c => { c with staging := c.staging.map fun g => { g with members := modAt g.members i f } }) s

/-- When every shard has passed, the slot is STAGED and MODEL_STAGE completes OK (R171). -/
def stageDone (k : Nat × Nat) (s : State) : State :=
  match cmdAt s k with
  | none => s
  | some c =>
    match c.staging with
    | none => s
    | some g =>
      if g.members.all fun m => m.shards.all (· == 2) then
        let m := modelAt s c.job g.model
        settle (decide_ k .ok [BitVec.ofNat 8 (ofBool g.slotB)]
          (setModel c.job g.model (setSlot m g.slotB { slotOf m g.slotB with state := .staged }) s))
      else s

/-- A copied shard's bytes put into the object that is built. -/
def putShard (h off : Nat) (b : List Byte) (s : State) : State :=
  match Tbl.get? s.objs h with
  | some o => objWrite o off (b.take (o.len - off)) s
  | none => s

/-- Can the host's bytes for shard `i` of a member be read: its digest, and its data where the host is the source (R371)? -/
def shardReached (s : State) (m : Member) (i : Nat) : Bool :=
  let sp := memberSpan s m i
  hostOk s (m.digests + 32 * i) 32 && (m.source != 1 || hostOk s (m.srcAddr + sp.1) sp.2)

/-- SHARD_COPIED (R202, R203): tier engine `j` has copied and hashed the shard it works on. -/
def execShardCopied (j : Nat) (s : State) : Out :=
  commit (
    match engineJob s j with
    | none => s
    | some t =>
      if t.kind != .shard || s.dump.fault.isSome then s
      else if t.void then popEngine j s
      else
        match t.supply with
        | none =>
          let k := (t.queue, t.seq)
          match (cmdAt s k).bind (·.staging) with
          | none => popEngine j s
          | some g =>
            match g.members[t.member]? with
            | none => popEngine j s
            | some m =>
              if !shardReached s m t.idx then popEngine j (failStage k .badAddr s)
              else
              let sp := memberSpan s m t.idx
              let b := sourceRead s m sp.1 sp.2
              let job := ((cmdAt s k).map (·.job)).getD 0
              let (sound, s0) := sourceCheck m sp.1 sp.2 job (noteMoved k sp.2 0 s)
              let s1 := putShard m.handle sp.1 b s0
              let s2 :=
                if sound && sha3 b = shardDigest s m t.idx then
                  stageDone k (onMember k t.member (fun m => { m with shards := modAt m.shards t.idx fun _ => 2 }) s1)
                else
                  shardBadEvent g job 0 t.member t.idx
                    (onMember k t.member (fun m => { m with shards := modAt m.shards t.idx fun _ => 3,
                                                            badAt := Tbl.set m.badAt t.idx s.clk.rackTime }) s1)
              popEngine j s2
        | some (a, n) =>
          let rk := (t.queue, t.seq)
          match cmdAt s rk with
          | none => popEngine j s
          | some c =>
            match stagingCmd s c.job (fieldAt c.pkt 32 2) (byteAt c.pkt 52 = 1) with
            | none => popEngine j (decide_ rk .shardBad (slotResult c) s)
            | some gc =>
              match gc.staging.bind fun g => (g.members[t.member]?).map fun m => (g, m) with
              | none => popEngine j (decide_ rk .shardBad (slotResult c) s)
              | some (g, m) =>
                let b := readHost s a n
                let off := (memberSpan s m t.idx).1
                let res := [BitVec.ofNat 8 (ofBool g.slotB)]
                if !hostOk s a n || !hostOk s (m.digests + 32 * t.idx) 32 then popEngine j (decide_ rk .badAddr res s)
                else if sha3 b = shardDigest s m t.idx then
                  let s1 := putShard m.handle off b (noteMoved rk n 0 s)
                  let s2 := if m.source = 0 then putShard m.srcAddr off b s1 else s1
                  popEngine j (decide_ rk .ok res (stageDone gc.key
                    (onMember gc.key t.member (fun m => { m with shards := modAt m.shards t.idx fun _ => 2 }) s2)))
                else popEngine j (decide_ rk .shardBad res (shardBadEvent g c.job 1 t.member t.idx (noteMoved rk n 0 s))))

/-- STAGE_TIMEOUT (R203): an awaited shard did not arrive in time, and MODEL_STAGE completes SHARD_BAD. -/
def execStageTimeout (q seq : Nat) (s : State) : Out :=
  commit (
    match cmdAt s (q, seq) with
    | none => s
    | some c =>
      match c.staging with
      | none => s
      | some g =>
        if c.done.isSome then s
        else
          let late := (g.members.zipIdx).findSome? fun m => (m.1.badAt.find? fun e =>
            m.1.shards[e.1]? == some 3 && passed s e.2 (s.features.stageTimeout * 400000000)).map fun e => (m.2, e.1)
          match late with
          | none => s
          | some (i, sh) => failStage c.key .shardBad (shardBadEvent g c.job 2 i sh s))

/-! ### MODEL_COMMIT and MODEL_EVICT (R171, R172) -/

def stagedSlot (m : Model) : Option Bool :=
  if m.a.state = .staged then some false else if m.b.state = .staged then some true else none

def modelCommitSpec : OpSpec :=
  { op := 0x21, aq := false, sq := true, flags := 0, minUnits := fun _ => 0, queued := false,
    used := fun _ => [(32, 2)]
    params := fun _ _ p => refuseIf (fieldAt p 32 2 > 1023) .badParam 32
    state := fun s q p =>
      let m := modelAt s (pktJob p) (fieldAt p 32 2)
      if (stagedSlot m).isNone then modelConflict s q p m else none
    resources := fun _ _ _ => none
    effect := fun c _ s =>
      let id := fieldAt c.pkt 32 2
      let m := modelAt s c.job id
      match stagedSlot m with
      | none => decide_ c.key .stateConflict [] s
      | some b =>
        let s1 := match liveSlot m with | some l => retireSlot c.job id l s | none => s
        let m1 := modelAt s1 c.job id
        let s2 := setModel c.job id { setSlot m1 b { slotOf m1 b with state := .live } with epoch := m1.epoch + 1 } s1
        decide_ c.key .ok [BitVec.ofNat 8 (ofBool b)] (staleNodes c.job id m.epoch s2) }

def modelEvictSpec : OpSpec :=
  { op := 0x22, aq := false, sq := true, flags := 0, minUnits := fun _ => 0, queued := false,
    used := fun _ => [(32, 2), (34, 1)]
    params := fun _ _ p => firstRef [refuseIf (fieldAt p 32 2 > 1023) .badParam 32, refuseIf (byteAt p 34 > 1) .badParam 34]
    state := fun s q p =>
      let m := modelAt s (pktJob p) (fieldAt p 32 2)
      let st := (slotOf m (byteAt p 34 = 1)).state
      if st == .empty || st == .retiring then modelConflict s q p m else none
    resources := fun _ _ _ => none
    effect := fun c _ s =>
      let id := fieldAt c.pkt 32 2
      let b := byteAt c.pkt 34 = 1
      let s1 := match (slotOf (modelAt s c.job id) b).state with
        | .staging => match stagingCmd s c.job id b with
          | some g => (cancelCmd g.key s).2
          | none => s
        | .staged => freeSlot c.job id b s
        | .live => retireSlot c.job id b s
        | _ => s
      decide_ c.key .ok [BitVec.ofNat 8 (ofBool b)] s1 }

/-- OBJ_MOVE with TIER NONE: the release (R165). -/
def execObjRelease (q : Nat) (p : Pkt) (pick : Nat) (s : State) : Out :=
  commit (if byteAt p 36 = 0xFF then hostCommand objReleaseSpec q p pick s else s)

/-- MODEL_STAGE without RESUPPLY. -/
def execModelStage (q : Nat) (p : Pkt) (pick : Nat) (s : State) : Out :=
  commit (if bitAt (byteAt p 1) 0 then s else hostCommand modelStageSpec q p pick s)

/-- MODEL_STAGE with RESUPPLY. -/
def execModelStageResupply (q : Nat) (p : Pkt) (pick : Nat) (s : State) : Out :=
  commit (if bitAt (byteAt p 1) 0 then hostCommand resupplySpec q p pick s else s)

def execModelCommit (q : Nat) (p : Pkt) (pick : Nat) (s : State) : Out := commit (hostCommand modelCommitSpec q p pick s)
def execModelEvict (q : Nat) (p : Pkt) (pick : Nat) (s : State) : Out := commit (hostCommand modelEvictSpec q p pick s)

end Sys2Proof.Machine
end

