-- ==== Sys2Proof/Machine/ImageLoad.lean ====
section
/-! DEFINITION. IMAGE_LOAD: the structure, digests and signature of an image (R78-R83, R105, R224). -/
namespace Sys2Proof.Machine

/-- The first mismatch of MAGIC, VERSION or HDRLEN. -/
def magicOk (b : List Byte) : Bool :=
  fieldAt b 0 4 == 0x344E5956 && (fieldAt b 4 2 == 4 || fieldAt b 4 2 == 3) && fieldAt b 6 2 == 128

def isX3 (b : List Byte) : Bool := fieldAt b 4 2 == 3

/-- Header ranges and reserved fields of R78. -/
def headerOk (b : List Byte) : Bool :=
  imgFlags b < 32 && 2 ≤ imgNsect b && imgNsect b ≤ 16 && 1 ≤ imgNcg b && imgNcg b ≤ 32 && imgCgf b ≤ 31
    && imgCgf b + imgNcg b ≤ 32 && 1 ≤ imgNcfg b && imgNcfg b ≤ 64 && 1 ≤ imgAccNeed b && imgAccNeed b ≤ 32
    && allZero (sliceB b 64 64)

/-- SECTOFF and the section table (R78). -/
def tableOk (b : List Byte) : Bool :=
  imgSectOff b % 64 == 0 && 128 ≤ imgSectOff b && imgSectOff b + 32 * imgNsect b ≤ fieldAt b 8 8

/-- Spans that may not overlap: header, section table and sections. -/
def imgSpans (b : List Byte) : List (Nat × Nat) :=
  (0, 128) :: (imgSectOff b, 32 * imgNsect b) :: (imgSects b).map fun s => (s.off, s.len)

def disjointSpans : List (Nat × Nat) → Bool
  | [] => true
  | a :: t => t.all (fun x => a.2 = 0 || x.2 = 0 || a.1 + a.2 ≤ x.1 || x.1 + x.2 ≤ a.1) && disjointSpans t

def sectionsOk (b : List Byte) : Bool :=
  (imgSects b).all (fun s => s.res == 0 && s.off % 64 == 0 && s.off + s.len ≤ fieldAt b 8 8) && disjointSpans (imgSpans b)

/-- Section types and their counts (R79). -/
def typesOk (b : List Byte) : Bool :=
  let n := fun t => ((imgSects b).filter (·.type == t)).length
  let native := !isX3 b
  let one := fun t => n t == 1
  let none_ := fun t => n t == 0
  (imgSects b).all (fun s => [1, 2, 3, 4, 5, 6, 0xF0, 0xF1].contains s.type)
    && (if native then one 1 && one 2 && one 3 && one 5 && none_ 6 else none_ 1 && none_ 2 && none_ 3 && none_ 5 && one 6)
    && one 4 && one 0xF0 && (if imgFlag b 4 then one 0xF1 else none_ 0xF1)

/-- Sections of fixed-size entries hold their COUNT; TILE_MAP and MANIFEST hold the right one (R83). -/
def countsOk (b : List Byte) : Bool :=
  ([(2, 4), (3, 16), (4, 32), (5, 64)].all fun e =>
    (imgSects b).all fun s => s.type != e.1 || s.count * e.2 ≤ s.len)
    && (isX3 b || (imgSect b 2).count == imgNcfg b * 48 * imgNcg b)
    && (let m := imgSect b 0xF0
        let d := ((imgSects b).filter fun s => s.type != 0xF0 && s.type != 0xF1).length
        fieldAt b m.off 4 == 1 + d && fieldAt b (m.off + 4) 4 == 0 && 8 + 32 * (1 + d) ≤ m.len)

/-- Symbols: KIND, reserved fields and ranges; an id stands for one symbol (R81; that it is refused twice is DEDUCED: log 29).
One whose id, MAX, OBJTYPE or FMT lies outside R81's ranges is refused with BAD_PARAM: DESIGN CHOICE (log 29), R81 and R83 give no
outcome. -/
def symbolsOk (b : List Byte) : Bool :=
  ((imgSyms b).map (·.id)).eraseDups.length == (imgSyms b).length && (imgSyms b).all fun y => y.res == 0
    && (if y.kind = 0 then y.id ≤ 255 && y.max != 0 && y.objType == 0 && y.fmt == 0
        else y.kind == 1 && 256 ≤ y.id && y.id ≤ 4095 && y.max == 0)

/-- The reserved bytes of SIGNATURE (R82). -/
def signatureFieldsOk (b : List Byte) : Bool := !imgFlag b 4 || fieldAt b ((imgSect b 0xF1).off + 4) 4 == 0

/-- Structure of an image (R83): the rows that give BAD_PARAM. -/
def structureOk (b : List Byte) (len : Nat) : Bool :=
  magicOk b && fieldAt b 8 8 == len && headerOk b && tableOk b && sectionsOk b && typesOk b && countsOk b && symbolsOk b
    && signatureFieldsOk b

/-- The measurement: the digest of the whole MANIFEST (R82). -/
def measurementOf (b : List Byte) : List Byte := let m := imgSect b 0xF0; sha3 (sliceB b m.off m.len)

/-- Every digest equals its bytes (R82, R83). -/
def digestsOk (b : List Byte) : Bool :=
  let m := imgSect b 0xF0
  let d := fun (i : Nat) => sliceB b (m.off + 8 + 32 * i) 32
  let ss := (imgSects b).filter fun s => s.type != 0xF0 && s.type != 0xF1
  sha3 (sliceB b 0 128) == d 0 && (ss.zipIdx).all fun x => sha3 (sliceB b x.1.off x.1.len) == d (x.2 + 1)

/-- The signature passes under the key of its index, or the image may go without one (R82). A SIGNATURE section
shorter than its 2,428 bytes is read on past its LENGTH: DESIGN CHOICE (log 29), R82 gives no outcome. -/
def signatureOk (s : State) (b : List Byte) : Bool :=
  if imgFlag b 4 then
    let g := (imgSect b 0xF1).off
    fieldAt b g 2 == 1 && fieldAt b (g + 2) 2 ≤ 3
      && (match Tbl.get? s.features.keys (fieldAt b (g + 2) 2) with
          | some k => mldsaVerify k (measurementOf b) (sliceB b (g + 8) 2420)
          | none => false)
  else !s.features.sigRequired

/-- A halo step can be formed (R120): 1 to 16 rows, two CIDs of its own among those free at every router it crosses, chunks, and room for
every tile's part (DESIGN CHOICE: log 10). -/
def haloOk (b : List Byte) (h : Config.HaloStep) : Bool :=
  1 ≤ h.rows && h.rows ≤ 16 && h.cids.length == 2 && h.cids.eraseDups.length == 2 && h.cids.all (fun c => c < 16 && h.free.contains c)
    && 1 ≤ h.chunk && h.tiles.all (haloFits b h)

/-- A placement on both sides of the fold, in rows 0-11 and rows 12-23 (R8). -/
def spansFold (b : List Byte) : Bool := imgCgf b ≤ 15 && 16 < imgCgf b + imgNcg b

/-- Can an X3 container be translated (R105), with its halo configurations (R120)? -/
def translates (b : List Byte) : Bool :=
  !isX3 b || (match Config.x3Translate b with
    | none => false
    | some x => x.halos.all (haloOk x.image) && (x.halos.isEmpty || !(spansFold b || spansFold x.image)))

/-- IMAGE_LOAD (R83, R224). -/
def imageLoadSpec : OpSpec :=
  { op := 0x18, aq := false, sq := true, flags := 0, minUnits := fun _ => 0, queued := false,
    used := fun _ => [(32, 8), (40, 8)]
    params := fun s _ p =>
      let len := fieldAt p 40 8
      let b := readHost s (fieldAt p 32 8) len
      firstRef [refuseIf (!hostOk s (fieldAt p 32 8) len) .badAddr, refuseIf (len < 128) .badParam 40,
                refuseIf (!structureOk b len) .badParam noLoc, refuseIf (!translates b) .badParam noLoc]
    state := fun _ _ _ => none
    resources := fun s _ p =>
      let b := readHost s (fieldAt p 32 8) (fieldAt p 40 8)
      firstRef [refuseIf (!digestsOk b || !signatureOk s b) .authFail,
                if objectsFull s 1 || (allocHbm s 0xFF (pagesOf (fieldAt p 40 8)) 0).isNone
                then some { st := .refusedBusy, reply := freeCounts s } else none]
    effect := fun c pick s =>
      let len := fieldAt c.pkt 40 8
      let b := readHost s (fieldAt c.pkt 32 8) len
      match chosen (allocHbm s 0xFF (pagesOf len)) pick, pickFree pick 1 (2 ^ 25 - 1) (Tbl.keys s.objs) with
      | some pages, some h =>
        let o := { mkObj c.job 5 0 0 0 0 len 0xFF with pages := pages }
        let s1 := { s with objs := Tbl.set s.objs h o,
                           images := Tbl.set s.images h { job := c.job, len, x3 := isX3 b, measurement := measurementOf b } }
        decide_ c.key .ok (leBytes 4 h ++ [BitVec.ofNat 8 (ofBool (isX3 b))]) (objWrite o 0 b s1)
      | _, _ => decide_ c.key .refusedBusy [] s }

def execImageLoad (q : Nat) (p : Pkt) (pick : Nat) (s : State) : Out := commit (hostCommand imageLoadSpec q p pick s)

end Sys2Proof.Machine
end

