-- ==== Sys2Proof/Machine/Micro.lean ====
section
/-! DEFINITION. The fields of a tile block and of the micro-ops (R84-R97, R108), the shapes of the array's modes (R39, R61),
and what every micro-op shares: its tile's context, addresses, spans and failures (R87, R114). -/
namespace Sys2Proof.Machine

/-! ### The block (R84-R86) -/

/-- Bytes as cells. -/
def memOfBytes (l : List Byte) : Mem := (l.zipIdx).filterMap fun x => if x.1 = 0 then none else some (x.2, x.1)

def blkLen (m : Mem) : Nat := Mem.field m 0 2
def blkFrame (m : Mem) : Nat := Mem.field m 2 1
def blkAcct (m : Mem) : Nat := Mem.field m 3 1
def blkSeed (m : Mem) : Nat := Mem.field m 4 4
def blkNops (m : Mem) : Nat := Mem.field m 8 2
def blkPreLen (m : Mem) : Nat := Mem.field m 10 2
def blkPreBase (m : Mem) : Nat := Mem.field m 12 2
def blkInitPhase (m : Mem) : Nat := Mem.field m 14 1
def blkGroup (m : Mem) : Nat := Mem.field m 15 1
/-- Endpoint code of a CID (R85). -/
def blkEndpoint (m : Mem) (cid : Nat) : Nat := bitsOf (Mem.field m 16 8) (4 * cid) 4
def blkSpillBase (m : Mem) : Nat := bitsOf (Mem.field m 24 4) 0 18
/-- Slot table entry (R16). -/
def slotEntry (m : Mem) (i : Nat) : Nat := Mem.field m (0x40 + 8 * i) 8
/-- SRC and CID of an output of an entry; outputs N, E, S, W, Local are 0 to 4. -/
def outSrc (e o : Nat) : Nat := bitsOf e (7 * o + 4) 3
def outCid (e o : Nat) : Nat := bitsOf e (7 * o) 4
/-- Reservation of a CID at an input (R20). -/
def blkResv (m : Mem) (inp cid : Nat) : Nat := Mem.field m (0xC0 + 16 * inp + cid) 1
/-- Output table entry of a steering unit (R32). -/
def steerEntry (m : Mem) (u i : Nat) : Nat := Mem.field m (0x140 + 64 * u + 8 * i) 8
/-- ADV0 (j = 0) and ADV1 (j = 1) of an advance table entry. -/
def blkAdv (m : Mem) (e j : Nat) : Int := toSigned 32 (Mem.field m (0x1C0 + 8 * e + 4 * j) 4)
/-- A stream profile (R86), 128 bits. -/
def blkProfile (m : Mem) (p : Nat) : Nat := Mem.field m (0x200 + 16 * p) 16
/-- A mask register field (R108). -/
def blkMask (m : Mem) (off n : Nat) : Nat := Mem.field m (0x300 + off) n
/-- Micro-op `pc` (R84). -/
def blkOp (m : Mem) (pc : Nat) : Nat := Mem.field m (0x400 + 8 * pc) 8

/-! ### Stream profiles (R86) -/

def profAfmt (p : Nat) : Nat := bitsOf p 0 4
def profOfmt (p : Nat) : Nat := bitsOf p 4 4
def profSr (p : Nat) : Bool := bitAt p 8
def profEighth (p : Nat) : Bool := bitAt p 9
def profSkipz (p : Nat) : Bool := bitAt p 10
def profConv (p : Nat) : Bool := bitAt p 11
def profCont (p : Nat) : Bool := bitAt p 12
def profOcid (p : Nat) : Nat := bitsOf p 16 4
/-- g. -/
def profChan (p : Nat) : Nat := 2 ^ bitsOf p 20 2
/-- k, s and d of conv-hold (R48). -/
def profKlen (p : Nat) : Nat := bitsOf p 24 6 + 1
def profStride (p : Nat) : Nat := bitsOf p 30 2 + 1
def profDil (p : Nat) : Nat := bitsOf p 32 3 + 1
def profAstride (p : Nat) : Nat := bitsOf p 48 16
def profSvec (p : Nat) : Nat := bitsOf p 64 18

/-! ### Micro-op fields (R88-R97) -/

def opCode (w : Nat) : Nat := bitsOf w 59 5
def opAdvsel (w : Nat) : Nat := bitsOf w 18 2
def opAddr (w : Nat) : Nat := bitsOf w 0 18

/-- A count field: its own value, or with DYN the RUN's value of the dimension its low 8 bits name (R87). -/
def dynCount (dims : Tbl Nat) (dyn : Bool) (field : Nat) : Nat := if dyn then Tbl.getD dims (field % 256) 0 else field

/-- END with LOOP = 1: its level and target (R97). -/
def isLoop (w : Nat) : Bool := opCode w = 0 && bitAt w 58
def loopLvl (w : Nat) : Nat := bitsOf w 57 1
def loopTo (w : Nat) : Nat := bitsOf w 49 8

/-- The innermost level-`lvl` loop that encloses micro-op `pc`: the index of its END. -/
def loopEnd (m : Mem) (lvl pc : Nat) : Option Nat :=
  (List.range (blkNops m)).find? fun e =>
    pc < e && isLoop (blkOp m e) && loopLvl (blkOp m e) == lvl && decide (loopTo (blkOp m e) ≤ pc)

/-- COUNT of the END at `e`. -/
def loopCount (m : Mem) (dims : Tbl Nat) (e : Nat) : Nat :=
  let w := blkOp m e
  dynCount dims (bitAt w 48) (bitsOf w 32 16)

/-! ### Formats and modes (R39, R56, R61) -/

/-- Roles of R56. -/
def weightFmt (c : Nat) : Bool := 1 ≤ c && c ≤ 0xD
def operandFmt (c : Nat) : Bool := 1 ≤ c && c ≤ 0xC
def outputFmt (c : Nat) : Bool := c ≤ 0xC
def vectorFmt (c : Nat) : Bool := c ≤ 4 || c = 0xB || c = 0xC

/-- Width of a mode in bits: 8, 4 or 16 (R39). -/
def modeBits (f : Fmt) : Nat :=
  match f with
  | .mxe2m1 => 4 | .int4 => 4 | .refine => 4 | .bf16 => 16 | .fp16 => 16 | _ => 8

/-- Does the mode admit the A format (R61)? -/
def modeAdmits (mode : Nat) (a : Fmt) : Bool :=
  match a with
  | .bf16 => mode == 16 | .fp16 => mode == 16 | .fp32 => false | .refine => false | _ => mode != 16

/-- Effective K of a block, and its stored rows. -/
def modeK (mode : Nat) (sparse : Bool) : Nat := (if mode = 16 then 32 else 64) * (if sparse then 2 else 1)
def storedK (mode : Nat) : Nat := if mode = 16 then 32 else 64

/-- Element, index and scale bytes of a block (R39, R40). -/
def elemBytes (mode : Nat) : Nat := if mode = 4 then 2048 else 4096
def indexBytes (mode : Nat) (sparse : Bool) : Nat := if sparse then (if mode = 16 then 512 else 1024) else 0
def scaleBytes (f : Fmt) (sparse : Bool) : Nat := if isMx f then (if sparse then 256 else 128) else 0

/-- Bytes of a block as LOADW reads it. -/
def blockLen (f : Fmt) (sparse : Bool) : Nat :=
  elemBytes (modeBits f) + indexBytes (modeBits f) sparse + scaleBytes f sparse

/-- Elements of a row of A, its bytes, and elements in a 64 B word. -/
def rowElems (mode : Nat) (sparse : Bool) : Nat := modeK mode sparse
def rowBytes (a : Fmt) (elems : Nat) : Nat := elems * fmtBits a / 8
def wordElems (a : Fmt) : Nat := 512 / fmtBits a

/-- P of R49: priming words of a conv-hold STREAM. -/
def primeWords (p : Nat) (a : Fmt) : Nat := ceilDiv (profChan p * ((profKlen p - 1) * profDil p + 1)) (wordElems a)

/-- Does a micro-op with these row counts reach words `x ≤ …`: units an A source of `n` rows spans from its address (R46). -/
def srcUnits (p : Nat) (a : Fmt) (elems n : Nat) : Nat :=
  if n = 0 then 0
  else
    let rb := rowBytes a elems
    let st := profAstride p
    if rb < 64 then (n - 1) / 2 * st + 1 else (n - 1) * st + ceilDiv rb 64

/-- Units of a conv-hold source. -/
def convUnits (p : Nat) (a : Fmt) (n : Nat) : Nat :=
  let words := (if profCont p then 0 else primeWords p a) + ceilDiv (n * profChan p * profStride p) (wordElems a)
  if n = 0 || words = 0 then 0 else (words - 1) * profAstride p + 1

/-- 64 B units of a converted row's elements (R90), and of the scale vector of `n` such rows. -/
def outRowUnits (f : Fmt) : Nat := ceilDiv (8 * fmtBits f) 64
def outScaleUnits (f : Fmt) (n : Nat) : Nat := if isMx f then ceilDiv (2 * n) 64 else 0

/-! ### A tile at work -/

/-- What a micro-op of a tile acts in. -/
structure Ctx where
  c : Nat
  r : Nat
  /-- Tile number. -/
  t : Nat
  part : Part
  cmd : Cmd
  run : RunInfo
  bind : Binding
  /-- The block of the configuration in use. -/
  blk : Mem

/-- The RUN that runs on a partition, in an inning: its command and its RUN. -/
def runningRun (s : State) (f : Nat) : Option (Part × Cmd × RunInfo) :=
  match Tbl.get? s.parts f with
  | none => none
  | some p =>
    match p.running.bind (cmdAt s) with
    | none => none
    | some c => if c.done.isSome then none else (curRun c).map fun r => (p, c, r)

/-- The context of a tile whose partition is in an inning. -/
def ctxOf (s : State) (c r : Nat) : Option Ctx :=
  if !isTile c r then none
  else
    match (partAt s c r).bind (runningRun s) with
    | none => none
    | some (p, cmd, run) =>
      if !run.inInning then none
      else (bindingOf s cmd.job run.image).map fun b =>
        let t := tileAt s (tileNo c r)
        { c, r, t := tileNo c r, part := p, cmd, run, bind := b,
          blk := ((t.slots[t.slot]?).map (·.mem)).getD [] }

/-- The context of a tile that works on an inning. -/
def ctxAt (s : State) (c r : Nat) : Option Ctx := if running s then ctxOf s c r else none

/-- The context in which a tile issues its next micro-op, and the micro-op's word: nothing holds the sequencer, and the
opcode is the one named. A micro-op other than WAITPH, PHASE and END issues in COMPUTE alone (R11, R87). -/
def nextOp (s : State) (c r op : Nat) : Option (Ctx × Nat) :=
  match ctxAt s c r with
  | none => none
  | some x =>
    let t := tileAt s x.t
    let w := blkOp x.blk t.pc
    if t.wait = .none && !t.ended && t.pc < blkNops x.blk && opCode w = op
        && (t.phase = .compute || op = 0x00 || op = 0x0B || op = 0x0C) then some (x, w) else none

/-- Where the next micro-op of a tile stands in its config store, as the addresses of words in error have it. -/
def opWordAt (s : State) (i : Nat) : Nat := i * 2 ^ 20 + 32768 * (tileAt s i).slot + 0x400 + 8 * (tileAt s i).pc

/-- A micro-op that issues: its word of the config store can be read (R321, R322). -/
def issueCtx (s : State) (c r op : Nat) : Option (Ctx × Nat) :=
  match nextOp s c r op with
  | none => none
  | some (x, w) => if (errsIn s .configStore (opWordAt s x.t) 8).any (·.syms ≥ 2) then none else some (x, w)

/-- An effective address (R87). -/
def effAddr (x : Ctx) (t : Tile) (sel addr : Nat) : Int :=
  (addr : Int) + (t.i0 : Int) * blkAdv x.blk sel 0 + (t.i1 : Int) * blkAdv x.blk sel 1

/-- An access of a micro-op: the register file or the bank, its first 64 B unit and their number. -/
structure Access where
  bank : Bool
  lo : Int
  n : Nat
  write : Bool
  deriving DecidableEq, Repr

/-- Inside the data area or the 64 KiB register file (R87)? -/
def accessOk (x : Ctx) (a : Access) : Bool :=
  a.n = 0 || (decide (0 ≤ a.lo) && decide (a.lo + a.n ≤ (if a.bank then (x.bind.dataUnits : Int) else 1024)))

/-- A span in the numbering of State: register-file units from 0, bank units from 1,024 (R114). -/
def Access.span (a : Access) : List (Nat × Nat) :=
  if a.n = 0 then [] else let b := a.lo.toNat + (if a.bank then 1024 else 0); [(b, b + a.n - 1)]

def overlaps (a b : List (Nat × Nat)) : Bool := a.any fun x => b.any fun y => decide (x.1 ≤ y.2) && decide (y.1 ≤ x.2)

/-- Bank windows of armed steering units, as spans (R32, R114). -/
def armedWindows (x : Ctx) (t : Tile) : List (Nat × Nat) :=
  (t.steer.zipIdx).flatMap fun u =>
    if u.1.armed = 0 then []
    else (List.range 8).filterMap fun i =>
      let e := steerEntry x.blk u.2 i
      if bitsOf e 62 2 = 2 then
        let lim := if bitsOf e 0 15 = 0 then 32768 else bitsOf e 0 15
        let b := bitsOf e 32 18 + 1024
        some (b, b + (lim - 1) * bitsOf e 24 8)
      else none

/-- May a micro-op with these spans start (R114)? -/
def spansFree (x : Ctx) (t : Tile) (rd wr : List (Nat × Nat)) : Bool :=
  let jr := t.inprog.flatMap (·.rd) ++ t.streams.flatMap (·.rd)
  let jw := t.inprog.flatMap (·.wr) ++ t.streams.flatMap (·.wr)
  !overlaps (rd ++ wr) jw && !overlaps wr jr && !overlaps rd (armedWindows x t)
    && ((rd = [] && wr = [])
        || decide ((t.inprog.filter fun j => j.rd != [] || j.wr != []).length
            + (t.streams.filter fun j => j.rd != [] || j.wr != []).length < 8))

/-! ### Tile memory -/

/-- Chip address of a unit of the tile's bank region. -/
def bankUnit (x : Ctx) (u : Nat) : Nat := bankBase x.t + 64 * (x.bind.base.getD 0 + u)

/-- Bytes of the register file or of the bank, from a unit up, `off` bytes in. -/
def unitRead (x : Ctx) (s : State) (bank : Bool) (u off n : Nat) : List Byte :=
  if bank then readMem s (bankUnit x u + off) n else Mem.read (tileAt s x.t).rf (64 * u + off) n

def unitWrite (x : Ctx) (bank : Bool) (u off : Nat) (b : List Byte) (s : State) : State :=
  if bank then writeMem (bankUnit x u + off) b s
  else eccRewrite .regFile x.t (64 * u + off) b.length (onTile x.t (fun t => { t with rf := Mem.write t.rf (64 * u + off) b }) s)

/-- What a micro-op reads is checked by the symbol codes (R321, R322): the uncorrectable words among those it reads. `acc` are
accumulator rows. -/
def checkReads (x : Ctx) (accs : List Access) (acc : List Nat) (s : State) : List ErrWord × State :=
  let r1 := (accs.filter fun a => !a.write && a.n != 0).foldl (fun (r : List ErrWord × State) a =>
    let e := if a.bank then eccRead .bank (bankUnit x a.lo.toNat) (64 * a.n) r.2
      else eccRead .regFile (x.t * 2 ^ 20 + 64 * a.lo.toNat) (64 * a.n) r.2
    (r.1 ++ e.ue, e.st)) ([], s)
  acc.foldl (fun r a =>
    let e := eccRead .accum (x.t * 2 ^ 20 + 256 * a) 256 r.2
    (r.1 ++ e.ue, e.st)) r1

/-- The command of a tile's partition fails (R87). -/
def failTile (x : Ctx) (st : Status) (s : State) : State := failRunning x.cmd.key st s

/-- A job fault for the uncorrectable words a tile read: cause 3 for a bank, 5 for a tile memory, by the first (R256). -/
def tileUeFault (x : Ctx) (es : List ErrWord) (s : State) : State :=
  ueFault es (if inBank (es.take 1) then 3 else 5) (some x.part.first) (some (x.c, x.r)) x.cmd.job s

/-- A micro-op that does not issue: an uncorrectable word of the config store under it is a job fault (R322). -/
def opFault (s : State) (c r op : Nat) : State :=
  match nextOp s c r op with
  | none => s
  | some (x, _) =>
    tileUeFault x ((errsIn s .configStore (opWordAt s x.t) 8).filter (·.syms ≥ 2)) s

/-- A micro-op issued in `s` has come to `s1`: where it has issued and not waits, its word has been read, and a symbol corrected in it
counts (R321). -/
def opRead (x : Ctx) (s s1 : State) : State :=
  let t := tileAt s x.t
  let u := tileAt s1 x.t
  if errsIn s .configStore (opWordAt s x.t) 8 = [] || (u.pc = t.pc && u.wait = t.wait) then s1
  else (eccRead .configStore (opWordAt s x.t) 8 s1).st

/-- From the first to the last unit of some spans (R114). -/
def hull : List (Nat × Nat) → List (Nat × Nat)
  | [] => []
  | a :: l => [l.foldl (fun m b => (min m.1 b.1, max m.2 b.2)) a]

/-- One span of the register file and one of the bank: the units of the two memories are numbered apart (DEDUCED: log 24). -/
def hulls (l : List (Nat × Nat)) : List (Nat × Nat) := hull (l.filter (·.1 < 1024)) ++ hull (l.filter (1024 ≤ ·.1))

/-- The read and the write span of accesses. -/
def readSpans (accs : List Access) : List (Nat × Nat) := hulls ((accs.filter fun a => !a.write).flatMap Access.span)
def writeSpans (accs : List Access) : List (Nat × Nat) := hulls ((accs.filter (·.write)).flatMap Access.span)

/-- A micro-op whose addresses and spans allow it: it fails the command with BAD_ADDR, waits (no effect), faults on an
uncorrectable word among `reads` and the accumulator rows `acc`, or has its effect; then the sequencer goes on. -/
def withReads (x : Ctx) (accs reads : List Access) (acc : List Nat) (s : State) (act : State → State) : State :=
  if !(accs.all (accessOk x)) then failTile x .badAddr s
  else if !spansFree x (tileAt s x.t) (readSpans accs) (writeSpans accs) then s
  else
    match checkReads x reads acc s with
    | (e :: es, s1) => tileUeFault x (e :: es) s1
    | ([], s1) => act s1

/-- The same where every unit of a read span is read. -/
def withAccess (x : Ctx) (accs : List Access) (acc : List Nat) (s : State) (act : State → State) : State :=
  withReads x accs accs acc s act

/-- The sequencer goes to the next micro-op (R54). -/
def advance (x : Ctx) (s : State) : State := onTile x.t (fun t => { t with pc := t.pc + 1 }) s

/-- Counters of a tile's partition. -/
def bumpPart (x : Ctx) (f : PartCounters → PartCounters) (s : State) : State :=
  onPart x.part.first (fun p => { p with counters := f p.counters }) s

/-- The 64 B of a line, and a line of bytes. -/
def lineBytes (w : Line) : List Byte := leBytes 64 w.toNat
def toLine (b : List Byte) : Line := BitVec.ofNat 512 (leNat (sliceB b 0 64))

end Sys2Proof.Machine
end

