-- ==== Sys2Proof/Machine/Array.lean ====
section
/-! DEFINITION. The matrix array (R39-R55, R59-R65, R107-R111): masks, pass sums, the rows of a STREAM, conv-hold, and the
accumulator rows they go to. -/
namespace Sys2Proof.Machine

/-! ### Masks (R108-R111) -/

/-- Does an edge mask of this selector apply to the micro-op at the program counter? -/
def edgeApplies (x : Ctx) (t : Tile) (sel : Nat) : Bool :=
  if sel = 1 then
    match loopEnd x.blk 0 t.pc with | some e => t.i0 + 1 == loopCount x.blk x.run.dims e | none => false
  else if sel = 2 then
    match loopEnd x.blk 1 t.pc with | some e => t.i1 + 1 == loopCount x.blk x.run.dims e | none => false
  else false

/-- Masked output columns, COLEDGE included where it applies. -/
def colMaskOf (x : Ctx) (t : Tile) : Nat :=
  blkMask x.blk 0 8 ||| (if edgeApplies x t (bitsOf (blkMask x.blk 53 1) 0 2) then blkMask x.blk 8 8 else 0)

/-- Masked K rows. -/
def kMaskOf (x : Ctx) (t : Tile) : Nat :=
  blkMask x.blk 16 16 ||| (if edgeApplies x t (bitsOf (blkMask x.blk 53 1) 2 2) then blkMask x.blk 32 16 else 0)

/-- Is row `i` of a STREAM enabled (R109)? -/
def rowEnabled (x : Ctx) (t : Tile) (i : Nat) : Bool :=
  let d := Tbl.getD x.run.dims (blkMask x.blk 52 1) 0
  let lo := blkMask x.blk 48 2
  let hi := blkMask x.blk 50 2
  match bitsOf (blkMask x.blk 53 1) 4 2 with
  | 0 => lo ≤ i && i < (if hi = 0 then 65536 else hi)
  | 1 => lo ≤ i && i < min d 65536
  | _ => (if (loopEnd x.blk 0 t.pc).isSome then t.i0 else 0) * hi + i < d

/-! ### Blocks and pass sums (R40, R50, R59, R62-R64) -/

/-- A block cut from its bytes: elements, index data, scales. A refinement block keeps the scales of the active block. -/
def blockOf (f : Fmt) (sparse : Bool) (active : WBlock) (b : List Byte) : WBlock :=
  let e := elemBytes (modeBits f)
  let i := indexBytes (modeBits f) sparse
  { fmt := f, sparse, elems := b.take e, index := (b.drop e).take i,
    scales := if f = .refine then active.scales else (b.drop (e + i)).take (scaleBytes f sparse) }

/-- Effective K row of stored row `j`, column `n` (R50). -/
def effK (b : WBlock) (j n : Nat) : Nat :=
  if b.sparse then
    let x := j * 64 + n
    4 * (j / 2) + bitsOf (byteAt b.index (x / 4)) (2 * (x % 4)) 2
  else j

/-- Stored weights of a block, row by row, with their effective K rows. -/
def blockRows (b : WBlock) : List (List (Nat × Num)) :=
  (List.range (storedK (modeBits b.fmt))).map fun j =>
    (List.range 64).map fun n => (effK b j n, decodeElem b.fmt (elemAt b.fmt b.elems (64 * j + n)))

/-- Scale j of column n of a weight block; 1 without scales (R59, R64). -/
def weightScale (b : WBlock) (j n : Nat) : Num :=
  if b.scales = [] then .fin false 1 0 else scaleNum (byteAt b.scales (64 * j + n))

/-- The pairwise tree of the BF16 modes (R64): products in, FP32 after every addition; masked products take no part. A product outside
the range of FP32 stays exact into its first addition, and a result × 1/8 below the normal range is rounded to nearest even: DESIGN
CHOICE (log 24), R64 calls both exact. -/
def treeSum : Nat → List (Option Num) → Option Num
  | 0, l => l.headD none
  | f + 1, l =>
    let pair := fun (i : Nat) =>
      match l.getD (2 * i) none, l.getD (2 * i + 1) none with
      | some a, some b => some (ofFp32 (toFp32 (Num.add a b)))
      | some a, none => some a
      | none, y => y
    if l.length ≤ 1 then l.headD none else treeSum f ((List.range (ceilDiv l.length 2)).map pair)

/-- PSCALE applied (R63). -/
def pscale (eighth : Bool) (x : Num) : Num := if eighth then Num.scale (-3) x else x

/-- Is it an integer format? -/
def intFmt (f : Fmt) : Bool := (fpShape f).isNone

/-- The exact product of a weight element and an A element. In the integer modes a product is an integer and no zero is negative
(R64); where one operand alone is an integer, its 0 counts as +0 and the sign of a zero product is the XOR of the signs: DESIGN CHOICE
(log 24). -/
def product (w a : Fmt) (x y : Num) : Num :=
  match Num.mul x y with
  | .fin s m e => .fin (s && !(m == 0 && intFmt w && intFmt a)) m e
  | z => z

/-- The pass sum of one column (R64): `ps` its stored products with their effective K. The empty positions of a 2:4 group form no
product: DESIGN CHOICE (log 24). -/
def columnSum (b : WBlock) (eighth : Bool) (kMask : Nat) (ascales : List Nat) (n : Nat) (ps : List (Nat × Num)) : W32 :=
  if modeBits b.fmt = 16 then
    let leaves := ps.map fun p => if bitAt kMask p.1 then none else some p.2
    toFp32 (pscale eighth (ofFp32 (toFp32 ((treeSum 7 leaves).getD (.fin false 0 0)))))
  else
    let groups := (List.range (modeK (modeBits b.fmt) b.sparse / 32)).map fun g =>
      let mine := (ps.filter fun p => p.1 / 32 = g && !bitAt kMask p.1).map (·.2)
      let sc := Num.mul (weightScale b g n) (match ascales[g]? with | some e => scaleNum e | none => .fin false 1 0)
      if mine = [] then (0 : W32) else toFp32 (pscale eighth (Num.mul (Num.sum mine) sc))
    match groups with
    | [] => 0
    | g :: gs => gs.foldl fadd g

/-- The 64 pass sums of a row of A (R64). -/
def passSums (b : WBlock) (a : Fmt) (eighth : Bool) (kMask : Nat) (elems ascales : List Nat) : List W32 :=
  let rows := blockRows b
  let av := elems.map (decodeElem a)
  (List.range 64).map fun n =>
    columnSum b eighth kMask ascales n
      (rows.map fun r =>
        let w := r.getD n (0, .fin false 0 0)
        (w.1, product b.fmt a w.2 (av.getD w.1 (.fin false 0 0))))

/-! ### Accumulator rows (R53, R65, R103) -/

def words32 (b : List Byte) : List W32 := (List.range (b.length / 4)).map fun i => BitVec.ofNat 32 (fieldAt b (4 * i) 4)

def bytes32 (l : List W32) : List Byte := l.flatMap fun w => leBytes 4 w.toNat

/-- First unit of a spill row (R103). -/
def spillUnit (x : Ctx) (a : Nat) : Nat := blkSpillBase x.blk + 4 * a

/-- An accumulator row, or a spill row, as it is committed. -/
def accRowAt (x : Ctx) (s : State) (vacc : Bool) (a : Nat) : List W32 :=
  words32 (if vacc then readMem s (bankUnit x (spillUnit x a)) 256 else Mem.read (tileAt s x.t).acc (256 * a) 256)

def setAccRow (x : Ctx) (vacc : Bool) (a : Nat) (row : List W32) (s : State) : State :=
  if vacc then writeMem (bankUnit x (spillUnit x a)) (bytes32 row) s
  else eccRewrite .accum x.t (256 * a) 256 (onTile x.t (fun t => { t with acc := Mem.write t.acc (256 * a) (bytes32 row) }) s)

/-- What the results of a row make of its accumulator row (R65, R110). -/
def addRow (j : StreamJob) (old sums : List W32) : List W32 :=
  (List.range 64).map fun n =>
    if j.colMask.getLsbD n then old.getD n 0
    else if j.dst = 1 then sums.getD n 0
    else fadd (old.getD n 0) (sums.getD n 0)

/-- An accumulator row with the results of the STREAMs in flight added, in their order. -/
def accView (x : Ctx) (s : State) (vacc : Bool) (a : Nat) : List W32 :=
  (tileAt s x.t).streams.foldl (fun row j =>
    if j.dst = 2 || j.vacc != vacc then row
    else j.res.foldl (fun r e => if j.accRow + e.i = a then addRow j r e.sums else r) row) (accRowAt x s vacc a)

/-- Accumulator tiles of rows, spill tiles from 16 on (R53, R54). -/
def accTiles (vacc : Bool) (a n : Nat) : List Nat :=
  if n = 0 then [] else (span (a / 64) ((a + n - 1) / 64)).map fun k => k + (if vacc then 16 else 0)

/-- Accumulator tiles that STREAMs in flight write. -/
def streamTiles (t : Tile) : List Nat :=
  t.streams.flatMap fun j => if j.dst = 2 then [] else accTiles j.vacc j.accRow j.rows

/-- The rows of a STREAM commit (R65, R103). -/
def commitRows (x : Ctx) (j : StreamJob) (s : State) : State :=
  if j.dst = 2 then s
  else
    let s1 := j.res.foldl (fun a e =>
      setAccRow x j.vacc (j.accRow + e.i) (addRow j (accRowAt x a j.vacc (j.accRow + e.i)) e.sums) a) s
    if j.vacc then bumpPart x (fun c => { c with spillRows := c.spillRows + BitVec.ofNat 64 j.res.length }) s1 else s1

/-! ### Rows of a STREAM -/

/-- The STREAM whose input or rows are being handled, with the state. -/
abbrev Flow := StreamJob × State

/-- Words queued for the Local input of a tile. -/
def inject (x : Ctx) (tag : Nat) (ws : List FWord) (s : State) : State :=
  onTile x.t (fun t => { t with outbox := t.outbox ++ ws.map fun w => (tag, w) }) s

/-- The words of a forwarded row: all but the last that the STREAM has so far go on their way, with END = 0 (R46). -/
def forwardWords (x : Ctx) (cid : Nat) (b : List Byte) (f : Flow) : Flow :=
  let ws := (chunks 64 b).map fun c => ({ cid, data := toLine c, last := false } : FWord)
  let all := f.1.lastWord.toList ++ ws
  let out := all.take (all.length - 1)
  ({ f.1 with lastWord := all.getLast?, left := f.1.left + ws.length }, inject x 2 out f.2)

/-- The input of a STREAM has ended: its last word carries END = 1 (R46). -/
def closeStream (x : Ctx) (f : Flow) : Flow :=
  ({ f.1 with lastWord := none, todo := [] }, inject x 2 (f.1.lastWord.toList.map fun w => { w with last := true }) f.2)

/-- The first row of a STREAM promotes the pending block it was issued behind (R41). -/
def enterArray (x : Ctx) (f : Flow) : Flow :=
  if f.1.entered then f
  else ({ f.1 with entered := true },
        if f.1.promotes then onTile x.t (fun t => { t with active := f.1.block, pending := none }) f.2 else f.2)

/-- One row's results: they wait for their commit, and under FWD and ACCFWD are converted and sent (R65, R46, R110). -/
def emitRow (x : Ctx) (i : Nat) (elems ascales : List Nat) (f0 : Flow) : Flow :=
  let f := enterArray x f0
  let j := f.1
  let sums := passSums j.block ((fmtOf (profAfmt j.prof)).getD .fp32) (profEighth j.prof) j.kMask elems ascales
  let s1 := bumpPart x (fun c => { c with rowsStreamed := c.rowsStreamed + 1 }) f.2
  let out := if j.dst = 2 then sums else addRow j (accView x s1 j.vacc (j.accRow + i)) sums
  let j1 := if j.dst = 2 then j else { j with res := j.res ++ [{ i, sums }] }
  if j.dst < 2 then (j1, s1)
  else
    let t := tileAt s1 x.t
    let row := (List.range 64).map fun n => if j.colMask.getLsbD n then none else some (out.getD n 0)
    let (b, _, lanes) := convRow ((fmtOf (profOfmt j.prof)).getD .fp32) (profSr j.prof) t.srArray row
    forwardWords x (profOcid j.prof) b (j1, setTile x.t { t with srArray := lanes } s1)

/-- Rows counted as skipped: all-zero ones and masked ones (R43, R52). -/
def countSkipped (x : Ctx) (n : Nat) (s : State) : State :=
  bumpPart x (fun c => { c with rowsSkipped := c.rowsSkipped + BitVec.ofNat 64 n }) s

/-- Elements of a row's or word's bytes. -/
def elemsOf (a : Fmt) (n : Nat) (b : List Byte) : List Nat := (List.range n).map (elemAt a b)

/-- One window from the conv-hold register (R48): its A row, zero beyond row g × k. -/
def convWindow (p : Nat) (k : Nat) (held : List Nat) : List Nat :=
  let g := profChan p
  (List.range k).map fun r => if r < g * profKlen p then held.getD (r / g * profDil p * g + r % g) 0 else 0

/-- Windows are produced while the register holds enough elements; each shifts in g × s (R48, R49). Over a 2:4 block, which only an
earlier configuration can have left, a window runs as any row of that block does: DESIGN CHOICE (log 24), R48 gives no effect. A masked
window enters and takes its step (R109), so windows that are all masked promote the pending block too: DESIGN CHOICE (log 24), for R52
keeps the block where no row enters. -/
def convWindows (x : Ctx) : Nat → Flow → Flow
  | 0, f => f
  | n + 1, f =>
    let p := f.1.prof
    let a := (fmtOf (profAfmt p)).getD .fp32
    let t := tileAt f.2 x.t
    match f.1.todo with
    | [] => f
    | (i, enabled) :: rest =>
      if t.conv.elems.length < primeWords p a * wordElems a then f
      else
        let f1 := enterArray x f
        let k := modeK (modeBits f1.1.block.fmt) f1.1.block.sparse
        let f2 : Flow := if enabled then emitRow x i (convWindow p k t.conv.elems) [] f1
          else (f1.1, countSkipped x 1 f1.2)
        let s3 := onTile x.t (fun t =>
          { t with conv := { t.conv with elems := t.conv.elems.drop (profChan p * profStride p) } }) f2.2
        convWindows x n ({ f2.1 with todo := rest }, s3)

/-- A word shifted into the conv-hold register, and the windows it completes. -/
def convWord (x : Ctx) (b : List Byte) (f : Flow) : Flow :=
  let a := (fmtOf (profAfmt f.1.prof)).getD .fp32
  let s1 := onTile x.t (fun t => { t with conv := { t.conv with elems := t.conv.elems ++ elemsOf a (wordElems a) b } }) f.2
  convWindows x (f.1.todo.length + 1) (f.1, s1)

/-- Words of a row that arrives over the fabric: one, or two for a 2:4 row (R46, R109). -/
def fabricWords (b : WBlock) : Nat := if b.sparse then 2 else 1

/-- The elements of such a row: each word carries its share from its first byte on (DEDUCED: log 24). -/
def fabricElems (b : WBlock) (a : Fmt) (ws : List Line) : List Nat :=
  ws.flatMap fun w => elemsOf a (rowElems (modeBits b.fmt) b.sparse / fabricWords b) (lineBytes w)

/-- A word from the A-operand endpoint taken by a STREAM (R46, R52, R109). SKIPZ drops a row of two words when both are zero, and one zero
word beside another enters with its row: DESIGN CHOICE (log 24), R52 speaks of words. -/
def fabricWord (x : Ctx) (w : Line) (f0 : Flow) : Flow :=
  let f : Flow := ({ f0.1 with words := f0.1.words - 1 }, f0.2)
  let p := f.1.prof
  let a := (fmtOf (profAfmt p)).getD .fp32
  if profConv p then convWord x (lineBytes w) f
  else
    let b := f.1.block
    let ws := f.1.part ++ [w]
    if ws.length < fabricWords b then ({ f.1 with part := ws }, f.2)
    else
      let bytes := ws.flatMap lineBytes
      let g : Flow := ({ f.1 with part := [], todo := f.1.todo.drop 1 }, f.2)
      if profSkipz p && allZero bytes then (g.1, countSkipped x 1 g.2)
      else emitRow x ((f.1.todo.map (·.1)).headD 0) (fabricElems b a ws) [] g

/-- The first unit of row `i` of a bank or register-file source, and their number (R46). -/
def rowUnits (lo p : Nat) (a : Fmt) (elems i : Nat) : Nat × Nat :=
  let rb := rowBytes a elems
  (if rb < 64 then lo + i / 2 * profAstride p else lo + i * profAstride p, ceilDiv rb 64)

/-- The bytes and scale codes of row `i` of a bank or register-file source, and whether all its units are zero (R46, R52,
R60). `lo` is its first unit. The flag of a unit follows its contents, so one that nothing has written since the banks were zeroed
counts as zero: DESIGN CHOICE (log 24), R52 names no first flag. -/
def sourceRow (x : Ctx) (s : State) (bank : Bool) (lo p : Nat) (a : Fmt) (elems i : Nat) : List Byte × List Nat × Bool :=
  let rb := rowBytes a elems
  let u := (rowUnits lo p a elems i).1
  let b := unitRead x s bank u (if rb < 64 then 32 * (i % 2) else 0) rb
  let ns := ceilDiv elems 32
  let sc := if isMx a then (unitRead x s bank (profSvec p) (ns * i) ns).map (·.toNat) else []
  (b, sc, allZero (unitRead x s bank u 0 (64 * ceilDiv rb 64)))

/-- The rows of a bank or register-file STREAM that enter the array: those of `todo` that SKIPZ leaves. -/
def liveRows (x : Ctx) (s : State) (bank : Bool) (lo p : Nat) (a : Fmt) (elems : Nat) (rows : List Nat) : List Nat :=
  if profSkipz p then rows.filter fun i => !(sourceRow x s bank lo p a elems i).2.2 else rows

end Sys2Proof.Machine
end

