-- ==== Sys2Proof/Machine/Flow.lean ====
section
/-! DEFINITION. What moves inside a tile by itself: injection at the Local input, delivery from the endpoints to RECV, STREAM and
ACCWR, and a GATE's tokens and words into the steering FIFOs (R23, R31, R46, R93, R134). -/
namespace Sys2Proof.Machine

/-- Words of a CID in an input queue. -/
def queued (t : Tile) (inp cid : Nat) : Nat := ((t.queues.getD inp []).filter (·.cid == cid)).length

/-- Credits of a CID at the Local input: its reservation less the words held (R20, R21). -/
def localCredit (m : Mem) (t : Tile) (cid : Nat) : Nat := blkResv m 4 cid - queued t 4 cid

def enqueueWord (inp : Nat) (w : FWord) (t : Tile) : Tile :=
  { t with queues := modAt t.queues inp (· ++ [w]) }

/-- A word of the tile's own has entered the Local input: its SEND, ACCRD or STREAM has one less to send. -/
def creditSender (tag cid : Nat) (t : Tile) : Tile :=
  if tag = 2 then
    match t.streams.findIdx? fun j => j.left != 0 with
    | some i => { t with streams := modAt t.streams i fun j => { j with left := j.left - 1 } }
    | none => t
  else
    match t.inprog.findIdx? fun j => j.kind == .send && j.cid == cid && j.left != 0 with
    | some i =>
      { t with inprog := (modAt t.inprog i fun j => { j with left := j.left - 1 }).filter fun j => !(j.kind == .send && j.left == 0) }
    | none => t

/-- Words enter the Local input: in order within each connection, and in order among the words of STREAMs, whose array stops
when a connection has no credit (R46). In DRAIN and LOAD only words of STREAMs enter (R11). -/
def injectWords (m : Mem) : List (Nat × FWord) → List Nat → Bool → Tile → Tile
  | [], _, _, t => t
  | (tag, w) :: rest, stuck, halted, t =>
    if stuck.contains w.cid || (tag = 2 && halted) || (tag != 2 && t.phase != .compute) || localCredit m t w.cid = 0 then
      injectWords m rest (w.cid :: stuck) (halted || tag = 2) { t with outbox := t.outbox ++ [(tag, w)] }
    else injectWords m rest stuck halted (creditSender tag w.cid (enqueueWord 4 w t))

def injectAll (m : Mem) (t : Tile) : Tile := injectWords m t.outbox [] false { t with outbox := [] }

/-- A GATE fills its unit's FIFOs; it completes when its last token and word are in them (R31, R134). -/
def gateFill (t : Tile) : Tile :=
  match t.gateRun with
  | [] => t
  | g :: rest =>
    let u := t.steer.getD g.unit SteerU.reset
    let nc := 8 - u.ctl.length
    let nd := 8 - u.data.length
    let u1 := { u with ctl := u.ctl ++ g.toks.take nc, data := u.data ++ g.words.take nd,
                       ctlCid := u.ctlCid ++ (g.toks.take nc).map fun _ => 16,
                       dataCid := u.dataCid ++ (g.words.take nd).map fun _ => 16 }
    let g1 := { g with toks := g.toks.drop nc, words := g.words.drop nd }
    let t1 := { t with steer := modAt t.steer g.unit fun _ => u1 }
    if g1.toks = [] && g1.words = [] then
      { t1 with gateRun := rest, inprog := t1.inprog.eraseP fun j => j.kind == .gate && j.cid == g.unit }
    else { t1 with gateRun := g1 :: rest }

def gateFills (n : Nat) (t : Tile) : Tile := (List.range n).foldl (fun a _ =>
  let b := gateFill a
  match b.gateRun with | g :: r => { b with gateRun := r ++ [g] } | [] => b) t

/-- CIDs bound to an endpoint code. -/
def boundCids (m : Mem) (code : Nat) : List Nat := (List.range 16).filter fun c => blkEndpoint m c == code

def endWords (t : Tile) (cid : Nat) : List FWord := Tbl.getD t.endpoint cid []

/-- The head word of an endpoint taken. -/
def takeEnd (cid : Nat) (t : Tile) : Tile := { t with endpoint := Tbl.set t.endpoint cid ((endWords t cid).drop 1) }

/-- The RECV that takes the next word of its CID: the register-file unit it writes, and the tile after it (R93). -/
def feedRecv (t : Tile) : Option (Nat × Tile) :=
  match t.inprog.findIdx? fun j => j.kind == .recv && endWords t j.cid != [] with
  | none => none
  | some i =>
    match t.inprog[i]? with
    | none => none
    | some j =>
      match endWords t j.cid with
      | [] => none
      | w :: _ =>
        let t1 := takeEnd j.cid { t with rf := Mem.write t.rf (64 * j.addr) (lineBytes w.data) }
        let step := fun (j : InProg) => { j with left := j.left - 1, addr := j.addr + 1 }
        some (j.addr, { t1 with inprog := (modAt t1.inprog i step).filter fun j => !(j.kind == .recv && j.left == 0) })

/-- Elements of a row converted exactly to FP32 (R90); FP32 is copied. -/
def toAccRow (fmt : Nat) (b : List Byte) : List W32 :=
  match fmtOf fmt with
  | some .fp32 => words32 (sliceB b 0 256)
  | some f => (elemsOf f 64 b).map fun e => toFp32 (decodeElem f e)
  | none => words32 (sliceB b 0 256)

/-- The ACCWR from the accumulator endpoint takes a word; a whole row is written (R54, R90). -/
def feedAccwr (x : Ctx) (s : State) : Option State :=
  let t := tileAt s x.t
  match t.inprog.findIdx? (·.kind == .accwr), (boundCids x.blk 3).find? fun c => endWords t c != [] with
  | some i, some cid =>
    match t.inprog[i]?, endWords t cid with
    | some j, w :: _ =>
      let ws := j.part ++ [w.data]
      let full := ws.length * 64 ≥ 64 * ((fmtOf j.fmt).map outRowUnits).getD 4
      let s1 := if full then setAccRow x j.vacc j.addr (toAccRow j.fmt (ws.flatMap lineBytes)) s else s
      some (onTile x.t (fun t =>
        let t1 := takeEnd cid t
        let upd := fun (j : InProg) =>
          { j with left := j.left - 1, part := if full then [] else ws, addr := if full then j.addr + 1 else j.addr }
        { t1 with inprog := (modAt t1.inprog i upd).filter fun j => !(j.kind == .accwr && j.left == 0) }) s1)
    | _, _ => none
  | _, _ => none

/-- The STREAM whose source is the fabric takes a word, unless the array stands still behind a forwarded row (R46). A row
whose block's mode does not admit its format fails the command (R61). -/
def feedStream (x : Ctx) (s : State) : Option State :=
  let t := tileAt s x.t
  match t.streams.findIdx? fun j => j.words != 0, (boundCids x.blk 2).find? fun c => endWords t c != [] with
  | some i, some cid =>
    match t.streams[i]?, endWords t cid with
    | some j, w :: _ =>
      if t.outbox.any (·.1 == 2) then none
      else
        let a := (fmtOf (profAfmt j.prof)).getD .fp32
        let admits := modeAdmits (modeBits j.block.fmt) a
        let skips := profSkipz j.prof && allZero (lineBytes w.data)
        let s1 := onTile x.t (takeEnd cid) s
        if !admits && !skips then some (failTile x .badParam s1)
        else
          let f := fabricWord x w.data (j, s1)
          let g := if f.1.words = 0 then closeStream x f else f
          some (onTile x.t (fun t => { t with streams := modAt t.streams i fun _ => g.1 }) g.2)
    | _, _ => none
  | _, _ => none

/-- One round: injection, a GATE's FIFOs, and one word taken from an endpoint, where there is one. -/
def pumpOnce (x : Ctx) (s : State) : Option State :=
  let s1 := onTile x.t (fun t => gateFills t.gateRun.length (injectAll x.blk t)) s
  let t := tileAt s1 x.t
  match (if t.phase = .compute then feedRecv t else none) with
  | some (u, t1) => some (eccRewrite .regFile x.t (64 * u) 64 (setTile x.t t1 s1))
  | none =>
    match (if t.phase = .compute then feedAccwr x s1 else none) with
    | some s2 => some s2
    | none => if t.phase = .compute then feedStream x s1 else none

/-- The tile moves what it can; `fuel` bounds the words taken. -/
def pumpTile (x : Ctx) : Nat → State → State
  | 0, s => onTile x.t (fun t => gateFills t.gateRun.length (injectAll x.blk t)) s
  | n + 1, s =>
    match pumpOnce x s with
    | some s1 => pumpTile x n s1
    | none => onTile x.t (fun t => gateFills t.gateRun.length (injectAll x.blk t)) s

/-- The number of words in a tile's endpoint buffers. -/
def endCount (t : Tile) : Nat := (t.endpoint.map fun e => e.2.length).sum

/-! ### Connections (R17, R27, R28) -/

/-- The block of the configuration a tile has in use. -/
def blkOf (s : State) (i : Nat) : Mem :=
  let t := tileAt s i
  ((t.slots[t.slot]?).map (·.mem)).getD []

/-- The tile that output `o` of a tile leads to; a word enters it at the facing input. -/
def neighbour (c r o : Nat) : Option (Nat × Nat) :=
  match o with
  | 0 => if r = 0 then none else some (c, r - 1)
  | 1 => if c ≥ 63 then none else some (c + 1, r)
  | 2 => if r ≥ 23 then none else some (c, r + 1)
  | 3 => if c = 0 then none else some (c - 1, r)
  | _ => none

/-- N and S, E and W face each other. -/
def facing (o : Nat) : Nat := (o + 2) % 4

/-- The slot entries in use (R15). -/
def slotEntries (m : Mem) : List Nat := (List.range (blkFrame m)).map (slotEntry m)

/-- The input whose queue for a CID supplies an output (R17: one for all slots). -/
def outSource (m : Mem) (o cid : Nat) : Option Nat :=
  (slotEntries m).findSome? fun e => if outSrc e o != 0 && outCid e o == cid then some (outSrc e o - 1) else none

/-- Outputs that an input drives with a CID. -/
def outsFrom (m : Mem) (inp cid : Nat) : List Nat := (List.range 5).filter fun o => outSource m o cid == some inp

/-- The tile at which the words that reach an input of a tile are injected: `fuel` hops upstream at most. -/
def originOf (s : State) : Nat → Nat → Nat → Nat → Nat → Nat
  | 0, c, r, _, _ => tileNo c r
  | n + 1, c, r, inp, cid =>
    if inp = 4 then tileNo c r
    else
      match neighbour c r inp with
      | none => tileNo c r
      | some (c1, r1) =>
        match outSource (blkOf s (tileNo c1 r1)) (facing inp) cid with
        | none => tileNo c r
        | some i => originOf s n c1 r1 i cid

/-- A router and the input at which a word waits in it. -/
abbrev Hop := Nat × Nat × Nat

/-- The hops a word goes to next. -/
def nextHops (s : State) (cid : Nat) (h : Hop) : List Hop :=
  ((outsFrom (blkOf s (tileNo h.1 h.2.1)) h.2.2 cid).filter (· < 4)).filterMap fun o =>
    (neighbour h.1 h.2.1 o).map fun n => (n.1, n.2, facing o)

/-- The hops reached from some, in the order met, each once: `fuel` of them at most. -/
def hopsReached (s : State) (cid : Nat) : Nat → List Hop → List Hop → List Hop
  | 0, _, seen => seen
  | _, [], seen => seen
  | n + 1, h :: l, seen =>
    if seen.contains h then hopsReached s cid n l seen else hopsReached s cid n (nextHops s cid h ++ l) (seen ++ [h])

/-- Every hop on the way of a word of a CID that waits at a hop. -/
def hopsFrom (s : State) (cid : Nat) (h : Hop) : List Hop := hopsReached s cid 40000 [h] []

/-- Where the words at a hop end: the tile that takes them on OUT_L, or, past the tiles, an input that no slot entry drains. -/
def hopEnd (s : State) (cid : Nat) (h : Hop) : List Nat :=
  match outsFrom (blkOf s (tileNo h.1 h.2.1)) h.2.2 cid with
  | [] => [1536 + 5 * tileNo h.1 h.2.1 + h.2.2]
  | l => if l.contains 4 then [tileNo h.1 h.2.1] else []

/-- A connection's name: the tile where it ends, the tile where it is injected, its CID. The branches of a fork are connections of
their own (R17: from a sending endpoint to a receiving endpoint). -/
def connName (dest origin cid : Nat) : Nat := 16 * (1536 * dest + origin) + cid

/-- The connections that cross a hop with a CID. -/
def connKeys (s : State) (c r inp cid : Nat) : List Nat :=
  let o := originOf s 1536 c r inp cid
  ((hopsFrom s cid (c, r, inp)).flatMap (hopEnd s cid)).map fun d => connName d o cid

/-- The connection that ends at the endpoint of a CID on OUT_L. -/
def endConn (s : State) (c r cid : Nat) : Option Nat :=
  (outSource (blkOf s (tileNo c r)) 4 cid).map fun i => connName (tileNo c r) (originOf s 1536 c r i cid) cid

/-- Words in the endpoint or steering FIFO that a CID is delivered to. -/
def endHeld (m : Mem) (t : Tile) (cid : Nat) : Nat :=
  let code := blkEndpoint m cid
  if code < 4 then (endWords t cid).length
  else
    let u := t.steer.getD ((code - 4) / 2) SteerU.reset
    if code % 2 = 0 then u.ctl.length else u.data.length

/-- Words of a CID among those `endHeld` counts. -/
def endOwn (m : Mem) (t : Tile) (cid : Nat) : Nat :=
  let code := blkEndpoint m cid
  if code < 4 then (endWords t cid).length
  else
    let u := t.steer.getD ((code - 4) / 2) SteerU.reset
    ((if code % 2 = 0 then u.ctlCid else u.dataCid).filter (· == cid)).length

/-- The connections of a tile whose words entered its Local input or left an endpoint between two states: they made
progress (R27). -/
def movedConns (x : Ctx) (a b : State) : List Nat :=
  let t := tileAt a x.t
  let u := tileAt b x.t
  (List.range 16).flatMap fun cid =>
    (if queued t 4 cid = queued u 4 cid then [] else connKeys a x.c x.r 4 cid)
      ++ (if endOwn x.blk t cid = endOwn x.blk u cid then [] else (endConn a x.c x.r cid).toList)

/-- Connections that made progress count from 0 again (R28). -/
def resetStalls (x : Ctx) (ks : List Nat) (s : State) : State :=
  onPart x.part.first (fun p => { p with stalls := p.stalls.filter fun e => !ks.contains e.1 }) s

/-- A tile moves what it can, where its partition still runs. -/
def pump_ (c r : Nat) (s : State) : State :=
  match ctxAt s c r with
  | some x =>
    let s1 := pumpTile x (endCount (tileAt s x.t)) s
    resetStalls x (movedConns x s s1) s1
  | none => s

end Sys2Proof.Machine
end

