-- ==== Sys2Proof/Machine/ArrayRows.lean ====
section
/-! DEFINITION. The micro-ops of the matrix array: LOADW, STREAM, ACCRD, ACCWR, and the completion of a STREAM (R39-R55,
R60-R68, R88-R90, R103, R199). -/
namespace Sys2Proof.Machine

/-! ### LOADW (R40-R42, R88, R199) -/

/-- Does a block at unit `u` of `n` bytes overlap a void 4 KiB unit of the bank (R198)? -/
def hitsVoid (x : Ctx) (t : Tile) (u n : Nat) : Bool :=
  let a := 64 * (x.bind.base.getD 0 + u)
  t.voids.any fun v => decide (a / 4096 ≤ v) && decide (v ≤ (a + n - 1) / 4096)

/-- The scales a refinement block keeps, made up to the size of its own block with free bytes where the active block has
fewer (log 12). -/
def keptScales (k : Nat) (active : WBlock) (sparse : Bool) : List Byte :=
  let need := if sparse then 256 else 128
  if active.scales = [] then [] else active.scales ++ freeBytes k (need - active.scales.length)

def loadBlock (x : Ctx) (w : Nat) (lo n : Nat) (s : State) : State :=
  let bank := !bitAt w 58
  let f := (fmtOf (bitsOf w 54 4)).getD .e4m3
  let t := tileAt s x.t
  if bitAt w 52 && bank && hitsVoid x t lo n then
    bumpPart x (fun c => { c with refineSkipped := c.refineSkipped + 1 })
      (onTile x.t (fun t => { t with pc := t.pc + 1, refineSkipped := true }) s)
  else
    let b := blockOf f (bitAt w 53) t.active (unitRead x s bank lo 0 n)
    let b1 := if f = .refine then { b with scales := keptScales s.fresh t.active (bitAt w 53) } else b
    onTile x.t (fun t => { t with pc := t.pc + 1, pending := some b1, refineSkipped := false })
      { s with fresh := s.fresh + 1 }

/-- LOADW (R88): the block goes to the pending block; with one already there it waits (R41). -/
def execLoadw (c r : Nat) (s : State) : Out :=
  commit (
    match issueCtx s c r 0x01 with
    | none => opFault s c r 0x01
    | some (x, w) => opRead x s <|
      let t := tileAt s x.t
      if t.pending.isSome then s
      else
        let n := blockLen ((fmtOf (bitsOf w 54 4)).getD .e4m3) (bitAt w 53)
        let lo := effAddr x t (opAdvsel w) (opAddr w)
        withAccess x [{ bank := !bitAt w 58, lo, n := ceilDiv n 64, write := false }] [] s (loadBlock x w lo.toNat n))

/-! ### STREAM (R43-R52, R89) -/

/-- The operands of a STREAM. -/
structure StreamOps where
  prof : Nat
  a : Fmt
  n : Nat
  src : Nat
  dst : Nat
  vacc : Bool
  accRow : Nat
  lo : Int
  block : WBlock
  elems : Nat

def streamOps (x : Ctx) (t : Tile) (w : Nat) : StreamOps :=
  let p := blkProfile x.blk (bitsOf w 55 4)
  let b := t.pending.getD t.active
  { prof := p, a := (fmtOf (profAfmt p)).getD .fp32, n := dynCount x.run.dims (bitAt w 39) (bitsOf w 23 16),
    src := bitsOf w 53 2, dst := bitsOf w 51 2, vacc := bitAt w 50, accRow := bitsOf w 40 10,
    lo := effAddr x t (opAdvsel w) (opAddr w), block := b, elems := rowElems (modeBits b.fmt) b.sparse }

/-- What a STREAM reads and writes of the register file and the bank (R46, R60, R103, R114). -/
def streamAccess (x : Ctx) (o : StreamOps) : List Access :=
  let bank := o.src = 0
  (if o.src = 2 then []
   else { bank, lo := o.lo, n := if profConv o.prof then convUnits o.prof o.a o.n else srcUnits o.prof o.a o.elems o.n,
          write := false }
     :: (if isMx o.a && !profConv o.prof then
           [{ bank, lo := profSvec o.prof, n := ceilDiv (o.n * ceilDiv o.elems 32) 64, write := false }] else []))
    ++ (if o.vacc && o.dst != 2 then
          [{ bank := true, lo := spillUnit x o.accRow, n := 4 * o.n, write := false },
           { bank := true, lo := spillUnit x o.accRow, n := 4 * o.n, write := true }] else [])

/-- The conv-hold register as a STREAM finds it (R48, R49, R55). Cleared to zero, it holds as many zeros as the span of one window
takes, so that the first window ends just before the first new element: DESIGN CHOICE (log 24). -/
def convStart (t : Tile) (o : StreamOps) : Conv :=
  let p := o.prof
  let key := (profKlen p, profStride p, profDil p, profChan p)
  if !profConv p then { t.conv with params := none }
  else if !profCont p then { elems := [], params := some key }
  else if t.conv.params = some key then t.conv
  else { elems := List.replicate (primeWords p o.a * wordElems o.a) 0, params := some key }

/-- Words a conv-hold STREAM reads: until the register holds P words again behind its last window (R49). -/
def convReads (o : StreamOps) (held : Nat) : Nat :=
  let e := wordElems o.a
  ceilDiv (primeWords o.prof o.a * e + o.n * profChan o.prof * profStride o.prof - held) e

/-- The rows of a STREAM that are read: enabled, and not skipped by SKIPZ (R52, R109). -/
def streamRows (x : Ctx) (s : State) (o : StreamOps) : List Nat :=
  let on := (List.range o.n).filter (rowEnabled x (tileAt s x.t))
  if o.src = 2 || profConv o.prof then on else liveRows x s (o.src = 0) o.lo.toNat o.prof o.a o.elems on

/-- What a STREAM reads of it: the words of conv-hold, or the units and scales of the rows read, not the rest of their strides; and the
spill rows it adds to (R46, R60, R103, R109). -/
def streamReads (x : Ctx) (s : State) (o : StreamOps) : List Access :=
  let bank := o.src = 0
  let lo := o.lo.toNat
  let one := fun (u n : Nat) => ({ bank := bank, lo := u, n, write := false } : Access)
  let rows := streamRows x s o
  (if o.src = 2 then []
   else if profConv o.prof then
     (List.range (convReads o (convStart (tileAt s x.t) o).elems.length)).map fun i => one (lo + i * profAstride o.prof) 1
   else rows.flatMap fun i =>
     let u := rowUnits lo o.prof o.a o.elems i
     let ns := ceilDiv o.elems 32
     one u.1 u.2 :: (if isMx o.a then [one (profSvec o.prof + ns * i / 64) ((ns * i + ns - 1) / 64 - ns * i / 64 + 1)] else []))
    ++ (if o.vacc && o.dst != 2 then rows.map fun i => { bank := true, lo := spillUnit x (o.accRow + i), n := 4, write := false } else [])

def newStream (x : Ctx) (t : Tile) (o : StreamOps) (todo : List (Nat × Bool)) (words : Nat) : StreamJob :=
  { dst := o.dst, vacc := o.vacc, accRow := o.accRow, rows := o.n, res := [], todo, words, part := [], prof := o.prof,
    colMask := BitVec.ofNat 64 (colMaskOf x t), entered := false, promotes := t.pending.isSome, block := o.block,
    kMask := kMaskOf x t, lastWord := none, left := 0, rd := readSpans (streamAccess x o),
    wr := writeSpans (streamAccess x o) }

/-- A STREAM stands in flight, its input read as far as `f` says. -/
def putStream (x : Ctx) (f : Flow) : State :=
  onTile x.t (fun t => { t with pc := t.pc + 1, streams := t.streams ++ [f.1] }) f.2

/-- A STREAM from the bank or register file reads all its input (R46, R48, R52). -/
def streamMemory (x : Ctx) (o : StreamOps) (s : State) : State :=
  let t := tileAt s x.t
  let bank := o.src = 0
  let lo := o.lo.toNat
  let rows := (List.range o.n).map fun i => (i, rowEnabled x t i)
  let admits := modeAdmits (modeBits o.block.fmt) o.a
  let s0 := onTile x.t (fun t => { t with conv := convStart t o }) s
  if profConv o.prof then
    if !admits then failTile x .badParam s
    else
      let f := (List.range (convReads o (convStart t o).elems.length)).foldl (fun f i =>
        convWord x (unitRead x f.2 bank (lo + i * profAstride o.prof) 0 64) f) (convWindows x (o.n + 1) (newStream x t o rows 0, s0))
      putStream x (closeStream x f)
  else
    let on := (rows.filter (·.2)).map (·.1)
    let live := liveRows x s bank lo o.prof o.a o.elems on
    let s1 := countSkipped x (o.n - live.length) s0
    if live = [] then advance x s1
    else if !admits then failTile x .badParam s
    else
      let f := live.foldl (fun f i =>
        let q := sourceRow x f.2 bank lo o.prof o.a o.elems i
        emitRow x i (elemsOf o.a o.elems q.1) q.2.1 f) (newStream x t o [] 0, s1)
      putStream x (closeStream x f)

/-- A STREAM from the fabric waits for its words (R46, R109). A conv-hold STREAM first produces the windows its register already
holds (R49). -/
def streamFabric (x : Ctx) (o : StreamOps) (s : State) : State :=
  let t := tileAt s x.t
  let rows := (List.range o.n).map fun i => (i, rowEnabled x t i)
  let s0 := onTile x.t (fun t => { t with conv := convStart t o }) s
  pump_ x.c x.r (
    if profConv o.prof then
      if !modeAdmits (modeBits o.block.fmt) o.a then failTile x .badParam s
      else
        let f := convWindows x (o.n + 1) (newStream x t o rows (convReads o (convStart t o).elems.length), s0)
        putStream x (if f.1.words = 0 then closeStream x f else f)
    else
      let on := rows.filter (·.2)
      let j := newStream x t o on (on.length * fabricWords o.block)
      let s1 := countSkipped x (o.n - j.todo.length) s0
      if j.words = 0 then advance x s1 else putStream x (j, s1))

/-- STREAM (R89): a STREAM of no rows completes at once (R47); one behind a skipped refinement block reads nothing (R199);
otherwise it waits for earlier input and for the accumulator tiles it writes (R44, R54). -/
def execStream (c r : Nat) (s : State) : Out :=
  commit (
    match issueCtx s c r 0x02 with
    | none => opFault s c r 0x02
    | some (x, w) => opRead x s <|
      let t := tileAt s x.t
      let o := streamOps x t w
      let tiles := if o.dst = 2 then [] else accTiles o.vacc o.accRow o.n
      if o.n = 0 then advance x s
      else if t.refineSkipped then onTile x.t (fun t => { t with pc := t.pc + 1, refineSkipped := false }) s
      else if t.streams.any (·.words != 0) || t.inprog.any (fun j => j.tiles.any tiles.contains) then s
      else
        let acc := if !o.vacc && (o.dst = 0 || o.dst = 3) then (streamRows x s o).map (o.accRow + ·) else []
        withReads x (streamAccess x o) (streamReads x s o) acc s (fun s =>
          if o.src = 2 then streamFabric x o s else pump_ x.c x.r (streamMemory x o s)))

/-- STREAM_COMPLETE (R44, R65): the oldest STREAM has read its input and sent its words; its rows commit. -/
def execStreamComplete (c r : Nat) (s : State) : Out :=
  commit (
    match ctxAt s c r with
    | none => s
    | some x =>
      match (tileAt s x.t).streams with
      | [] => s
      | j :: rest =>
        if j.words != 0 || j.left != 0 then s
        else commitRows x j (onTile x.t (fun t => { t with streams := rest }) s))

/-! ### ACCRD and ACCWR (R54, R90) -/

/-- Rows of an ACCRD or ACCWR. -/
def accCount (x : Ctx) (w : Nat) : Nat := dynCount x.run.dims (bitAt w 40) (bitsOf w 29 11)

/-- May an ACCRD or ACCWR of these accumulator tiles start (R54)? -/
def accFree (t : Tile) (tiles : List Nat) : Bool :=
  !(streamTiles t).any tiles.contains && !(t.inprog.any fun j => j.tiles.any tiles.contains)

/-- The rows of an ACCRD converted in order (R66-R68, R110): element bytes and scale bytes of each. -/
def convertRows (x : Ctx) (f : Fmt) (sr vacc : Bool) (mask : Nat) : List Nat → State → List (List Byte × List Byte) × State
  | [], s => ([], s)
  | a :: rest, s =>
    let t := tileAt s x.t
    let v := accRowAt x s vacc a
    let (b, sc, lanes) := convRow f sr t.srArray ((List.range 64).map fun n => if bitAt mask n then none else some (v.getD n 0))
    let (out, s1) := convertRows x f sr vacc mask rest (setTile x.t { t with srArray := lanes } s)
    ((b, sc) :: out, s1)

/-- Where an ACCRD's rows go. -/
def accrdOut (x : Ctx) (w : Nat) (f : Fmt) (lo n : Nat) (tiles : List Nat) (rd : List (Nat × Nat))
    (rows : List (List Byte × List Byte)) (s : State) : State :=
  let dst := bitsOf w 57 2
  let pitch := outRowUnits f
  if dst < 2 then
    let bank := dst = 1
    let s1 := (rows.zipIdx).foldl (fun a e => unitWrite x bank (lo + e.2 * pitch) 0 e.1.1 a) s
    let s2 := if isMx f then unitWrite x bank (lo + n * pitch) 0 (rows.flatMap (·.2)) s1 else s1
    advance x s2
  else if dst = 2 then
    let cid := bitsOf w 25 4
    let ws := rows.flatMap fun e => (chunks 64 e.1).map toLine
    let fw := (ws.zipIdx).map fun e => ({ cid, data := e.1, last := e.2 + 1 = ws.length } : FWord)
    let j : InProg := { kind := .send, cid, left := ws.length, addr := 0, part := [], fmt := 0, vacc := false, tiles, rd, wr := [] }
    pump_ x.c x.r (inject x 1 fw (onTile x.t (fun t => { t with pc := t.pc + 1, inprog := t.inprog ++ [j] }) s))
  else onTile x.t (fun t => { t with pc := t.pc + 1, vqueue := t.vqueue ++ rows.map (·.1) }) s

/-- ACCRD (R90). A stochastic conversion waits for the input of an earlier STREAM whose results are converted so (R68). -/
def execAccrd (c r : Nat) (s : State) : Out :=
  commit (
    match issueCtx s c r 0x03 with
    | none => opFault s c r 0x03
    | some (x, w) => opRead x s <|
      let t := tileAt s x.t
      let n := accCount x w
      let row := bitsOf w 41 10
      let vacc := bitAt w 51
      let f := (fmtOf (bitsOf w 53 4)).getD .fp32
      let dst := bitsOf w 57 2
      let tiles := accTiles vacc row n
      let lo := effAddr x t (opAdvsel w) (opAddr w)
      if n = 0 then advance x s
      else if !accFree t tiles || (bitAt w 52 && t.streams.any fun j => j.words != 0 && decide (j.dst ≥ 2) && profSr j.prof) then s
      else
        let spill : List Access := if vacc then [{ bank := true, lo := spillUnit x row, n := 4 * n, write := false }] else []
        let out : List Access :=
          if dst < 2 then [{ bank := dst = 1, lo, n := n * outRowUnits f + outScaleUnits f n, write := true }] else []
        let rows := (List.range n).map (row + ·)
        withAccess x (spill ++ out) (if vacc then [] else rows) s (fun s =>
          let (b, s1) := convertRows x f (bitAt w 52) vacc (colMaskOf x t) rows s
          accrdOut x w f lo.toNat n tiles (readSpans spill) b s1))

/-- ACCWR (R90): rows from the register file, the bank or zero, or, word by word, from the accumulator endpoint. -/
def execAccwr (c r : Nat) (s : State) : Out :=
  commit (
    match issueCtx s c r 0x04 with
    | none => opFault s c r 0x04
    | some (x, w) => opRead x s <|
      let t := tileAt s x.t
      let n := accCount x w
      let row := bitsOf w 41 10
      let vacc := bitAt w 51
      let fc := bitsOf w 53 4
      let f := (fmtOf fc).getD .fp32
      let src := bitsOf w 57 2
      let tiles := accTiles vacc row n
      let lo := effAddr x t (opAdvsel w) (opAddr w)
      let pitch := outRowUnits f
      if n = 0 then advance x s
      else if !accFree t tiles then s
      else
        let spill : List Access := if vacc then [{ bank := true, lo := spillUnit x row, n := 4 * n, write := true }] else []
        let inp : List Access := if src < 2 then [{ bank := src = 1, lo, n := n * pitch, write := false }] else []
        withAccess x (spill ++ inp) [] s (fun s =>
          if src = 2 then
            let j : InProg := { kind := .accwr, cid := 0, left := n * pitch, addr := row, part := [], fmt := fc, vacc, tiles,
                                rd := [], wr := writeSpans spill }
            pump_ x.c x.r (onTile x.t (fun t => { t with pc := t.pc + 1, inprog := t.inprog ++ [j] }) s)
          else
            advance x ((List.range n).foldl (fun a i =>
              let v := if src = 3 then List.replicate 64 0
                else toAccRow fc (unitRead x a (src = 1) (lo.toNat + i * pitch) 0 (64 * pitch))
              setAccRow x vacc (row + i) v a) s)))

end Sys2Proof.Machine
end

