-- ==== Sys2Proof/Machine/VectorRows.lean ====
section
/-! DEFINITION. The vector ALU's micro-ops VOP and SCAN, and SEND and RECV (R69-R72, R91-R93). -/
namespace Sys2Proof.Machine

/-! ### Lanes (R69-R71) -/

/-- A Bool as a lane mask. -/
def laneMask (b : Bool) : W32 := if b then 0xFFFFFFFF else 0

/-- a × b + c rounded once; NaNs by R69. -/
def fma32 (vfn : Nat) (a b c : W32) : W32 :=
  vResult vfn [a, b, c] (Num.add (Num.mul (ofFp32 a) (ofFp32 b)) (ofFp32 c))

/-- A one-operand result whose input may be a NaN: the NaN quieted (R69). -/
def unary32 (a r : W32) : W32 := (firstNan [a]).getD r

/-- A NaN with its quiet bit set; any other pattern as it is (R69). -/
def quiet32 (a : W32) : W32 := unary32 a a

/-- The FP32 functions by VFN (R69, R70, R91). The select's c is its condition alone: a NaN there counts as not equal to 0, and the NaN
that R69 quiets is the operand selected (DEDUCED: log 25). -/
def fpLane (vfn : Nat) (a b c : W32) : W32 :=
  match vfn with
  | 0x00 => vResult vfn [a, b] (Num.add (ofFp32 a) (ofFp32 b))
  | 0x01 => vResult vfn [a, b] (Num.add (ofFp32 a) (ofFp32 (b ^^^ 0x80000000)))
  | 0x02 => vResult vfn [a, b] (Num.mul (ofFp32 a) (ofFp32 b))
  | 0x03 => fma32 vfn a b c
  | 0x04 => fmin32 a b
  | 0x05 => fmax32 a b
  | 0x06 => unary32 a (a &&& 0x7FFFFFFF)
  | 0x07 => unary32 a (a ^^^ 0x80000000)
  | 0x08 => laneMask (flt32 a b)
  | 0x09 => laneMask (feq32 a b)
  | 0x0A => laneMask (!feq32 a b)
  | 0x0B => quiet32 (if feq32 c 0 then b else a)
  | 0x0C => exp2F a
  | _ => log2F a

/-- A comparison function: its lanes are masks and are not converted. -/
def isCompareFn (vfn : Nat) : Bool := 0x08 ≤ vfn && vfn ≤ 0x0A

/-- A BF16 lane widened to FP32. -/
def widen16 (h : Nat) : W32 := BitVec.ofNat 32 (h * 65536)

/-- A BF16 lane: computed in FP32 and converted by R66, a selected operand too; masks pass as they are. -/
def bf16Lane (vfn a b c : Nat) : Nat :=
  let r := fpLane vfn (widen16 a) (widen16 b) (widen16 c)
  if isCompareFn vfn then r.toNat / 65536 else encodeElem .bf16 .rne (ofFp32 r)

/-- The INT32 functions (R91); a shift by more than 31 is free (log 8). -/
def intLane (vfn : Nat) (a b : W32) : W32 :=
  match vfn with
  | 0x10 => a + b
  | 0x11 => a - b
  | 0x12 => laneMask (a.slt b)
  | 0x13 => if b.toNat < 32 then a <<< b.toNat else shiftOver vfn a b
  | 0x14 => if b.toNat < 32 then a.sshiftRight b.toNat else shiftOver vfn a b
  | 0x15 => a &&& b
  | 0x16 => a ||| b
  | _ => a ^^^ b

/-- Does key x rank before or with key y, x first (R71): NaN last, ±0 equal? -/
def rankLe (x y : W32) : Bool := !(!isNan32 y && (isNan32 x || flt32 x y))

/-- Keys with payloads in the order of R71, stable. -/
def laneSort (l : List (W32 × Nat)) : List (W32 × Nat) := l.mergeSort fun x y => rankLe x.1 y.1

/-- Four groups of eight sorted. -/
def sortGroups (keys : List W32) (pay : List Nat) : List (W32 × Nat) :=
  (List.range 4).flatMap fun g => laneSort (((keys.drop (8 * g)).take 8).zip ((pay.drop (8 * g)).take 8))

/-- The top eight of each pair of groups (R71). -/
def mergeGroups (a b : List (W32 × Nat)) : List (W32 × Nat) :=
  (List.range 4).flatMap fun g => (laneSort ((a.drop (8 * g)).take 8 ++ (b.drop (8 * g)).take 8)).take 8

/-- FP32 from a code of a format; a NaN keeps its sign and payload, quieted (R69, R91). -/
def toFp32Code (f : Fmt) (code : Nat) : W32 :=
  match decodeElem f code, fpShape f with
  | .nan s, some (_, mb, _) =>
    BitVec.ofNat 32 (2 ^ 31 * ofBool s + 255 * 2 ^ 23 + (code % 2 ^ mb * 2 ^ (23 - mb)) % 2 ^ 23) ||| 0x00400000
  | x, _ => toFp32 x

/-! ### VOP (R91) -/

/-- Functions that read b, and c. -/
def usesB (vfn : Nat) : Bool := vfn ≤ 0x05 || (0x08 ≤ vfn && vfn ≤ 0x0B) || (0x10 ≤ vfn && vfn ≤ 0x17) || vfn = 0x28 || vfn = 0x29
def usesC (vfn : Nat) : Bool := vfn = 0x03 || vfn = 0x0B

/-- A vector's results of an elementwise function: bytes to be written from its place. A conversion takes each vector of 32 values as a
row of its own, so that it uses lanes 0 to 31 of the generator: DESIGN CHOICE (log 25). Of a 128 B vector of a 16-, 8- or 4-bit
format the first 32
elements become the 32 FP32 lanes: DESIGN CHOICE (log 25), R70 and R91 name no elements. One to FP32 quiets a NaN (R69). -/
def vopVector (vfn fmt : Nat) (lanes : List W32) (a b c : List Byte) : List Byte × List W32 :=
  if vfn ≤ 0x0D then
    if fmt = 1 then
      ((List.range 64).flatMap fun i =>
        leBytes 2 (bf16Lane vfn (fieldAt a (2 * i) 2) (fieldAt b (2 * i) 2) (fieldAt c (2 * i) 2)), lanes)
    else
      (bytes32 ((List.range 32).map fun i =>
        fpLane vfn ((words32 a).getD i 0) ((words32 b).getD i 0) ((words32 c).getD i 0)), lanes)
  else if vfn = 0x20 || vfn = 0x21 then
    let (out, _, l) := convRow ((fmtOf fmt).getD .fp32) (vfn = 0x21) lanes
      ((words32 a).map fun v => some (if fmt = 0 then quiet32 v else v))
    (out, l)
  else if vfn = 0x22 then
    let f := (fmtOf fmt).getD .fp32
    (bytes32 ((elemsOf f 32 a).map (toFp32Code f)), lanes)
  else
    (bytes32 ((List.range 32).map fun i => intLane vfn ((words32 a).getD i 0) ((words32 b).getD i 0)), lanes)

/-- COUNT of a VOP, and T of a SCAN. -/
def vopCount (f : Nat) : Nat := if f = 0 then 256 else f

/-- A 128 B vector of the register file. -/
def vecAtUnit (x : Ctx) (s : State) (u : Nat) : List Byte := unitRead x s false u 0 128

/-- Operand a from the vector ALU queue (R90, AQ): vectors from its head, for a merge one of keys and one of payloads each; past its end
bytes are free (log 12). -/
def takeQueue (x : Ctx) (n : Nat) (s : State) : List Byte × State :=
  let q := (tileAt s x.t).vqueue.flatten
  let got := q.take (128 * n)
  let rest := q.drop (128 * n)
  (got ++ freeBytes s.fresh (128 * n - got.length),
   onTile x.t (fun t => { t with vqueue := if rest = [] then [] else [rest] }) { s with fresh := s.fresh + 1 })

/-- The elementwise functions over COUNT vectors. -/
def vopEach (x : Ctx) (vfn fmt d aa ba ca : Nat) (aq : Option (List Byte)) : Nat → Nat → State → State
  | 0, _, s => s
  | n + 1, i, s =>
    let a := match aq with | some q => sliceB q (128 * i) 128 | none => vecAtUnit x s (aa + 2 * i)
    let b := if usesB vfn then vecAtUnit x s (ba + 2 * i) else []
    let c := if usesC vfn then vecAtUnit x s (ca + 2 * i) else []
    let (out, l) := vopVector vfn fmt (tileAt s x.t).srVector a b c
    vopEach x vfn fmt d aa ba ca aq n (i + 1)
      (unitWrite x false (d + 2 * i) 0 out (onTile x.t (fun t => { t with srVector := l }) s))

/-- Sorted or merged keys and their payloads written, keys at DADDR and payloads 2 units on. Bits [31:16] of a payload lane are 0: DESIGN
CHOICE (log 25), R71 gives payloads in bits [15:0] only. -/
def putSorted (x : Ctx) (u : Nat) (l : List (W32 × Nat)) (s : State) : State :=
  unitWrite x false (u + 2) 0 (l.flatMap fun e => leBytes 4 e.2) (unitWrite x false u 0 (bytes32 (l.map (·.1))) s)

/-- Keys and payloads as 0x28 leaves them: a vector of each. -/
def sortedOf (b : List Byte) : List (W32 × Nat) :=
  (words32 (sliceB b 0 128)).zip ((words32 (sliceB b 128 128)).map fun w => w.toNat % 65536)

def sortedAt (x : Ctx) (s : State) (u : Nat) : List (W32 × Nat) := sortedOf (unitRead x s false u 0 256)

/-- Lane sort and merge over COUNT vectors. -/
def vopSort (x : Ctx) (vfn d aa ba : Nat) (aq : Option (List Byte)) : Nat → Nat → State → State
  | 0, _, s => s
  | n + 1, i, s =>
    let out :=
      if vfn = 0x28 then
        sortGroups (words32 (match aq with | some q => sliceB q (128 * i) 128 | none => vecAtUnit x s (aa + 2 * i)))
          ((words32 (vecAtUnit x s (ba + 2 * i))).map fun w => w.toNat % 65536)
      else mergeGroups (match aq with | some q => sortedOf (sliceB q (256 * i) 256) | none => sortedAt x s (aa + 4 * i))
        (sortedAt x s (ba + 4 * i))
    vopSort x vfn d aa ba aq n (i + 1) (putSorted x (d + 4 * i) out s)

/-- What a VOP reads and writes. -/
def vopAccess (w : Nat) : List Access :=
  let vfn := bitsOf w 53 6
  let n := vopCount (bitsOf w 41 8)
  let rf := fun (u k : Nat) (wr : Bool) => ({ bank := false, lo := u, n := k, write := wr } : Access)
  let d := bitsOf w 31 10
  if vfn = 0x30 then [{ bank := true, lo := bitsOf w 13 18, n := 2 * n, write := false }, rf d (2 * n) true]
  else if vfn = 0x31 then [rf d (2 * n) false, { bank := true, lo := bitsOf w 13 18, n := 2 * n, write := true }]
  else
    let k := if vfn = 0x29 then 4 * n else 2 * n
    (if bitAt w 0 then [] else [rf (bitsOf w 1 10) k false])
      ++ (if usesB vfn then [rf (bitsOf w 11 10) k false] else [])
      ++ (if usesC vfn then [rf (bitsOf w 21 10) k false] else [])
      ++ [rf d (if vfn = 0x28 || vfn = 0x29 then 4 * n else 2 * n) true]

/-- The effect of a VOP. -/
def vopEffect (x : Ctx) (w : Nat) (s : State) : State :=
  let vfn := bitsOf w 53 6
  let n := vopCount (bitsOf w 41 8)
  let d := bitsOf w 31 10
  if vfn = 0x30 then unitWrite x false d 0 (unitRead x s true (bitsOf w 13 18) 0 (128 * n)) s
  else if vfn = 0x31 then unitWrite x true (bitsOf w 13 18) 0 (unitRead x s false d 0 (128 * n)) s
  else
    let (aq, s1) := if bitAt w 0 then (let r := takeQueue x (if vfn = 0x29 then 2 * n else n) s; (some r.1, r.2)) else (none, s)
    if vfn = 0x28 || vfn = 0x29 then vopSort x vfn d (bitsOf w 1 10) (bitsOf w 11 10) aq n 0 s1
    else vopEach x vfn (bitsOf w 49 4) d (bitsOf w 1 10) (bitsOf w 11 10) (bitsOf w 21 10) aq n 0 s1

/-- Vector micro-ops wait while a STREAM adds to spill rows (R103). -/
def vectorBusy (t : Tile) : Bool := t.streams.any (·.vacc)

/-- VOP (R91). -/
def execVop (c r : Nat) (s : State) : Out :=
  commit (
    match issueCtx s c r 0x05 with
    | none => opFault s c r 0x05
    | some (x, w) => opRead x s <|
      if vectorBusy (tileAt s x.t) then s
      else withAccess x (vopAccess w) [] s (fun s => advance x (vopEffect x w s)))

/-! ### SCAN (R72, R92) -/

/-- 32 lanes of an input vector: FP32, or BF16 from its first 64 B. -/
def scanLanes (fmt : Nat) (b : List Byte) : List W32 :=
  if fmt = 1 then (List.range 32).map fun i => widen16 (fieldAt b (2 * i) 2) else words32 b

/-- h_t = a_t × h_{t−1} + b_t, in order of t; every h is written. -/
def scanSteps (x : Ctx) (fmt aa ba oa : Nat) : Nat → Nat → List W32 → State → List W32 × State
  | 0, _, h, s => (h, s)
  | n + 1, t, h, s =>
    let a := scanLanes fmt (vecAtUnit x s (aa + 2 * t))
    let b := scanLanes fmt (vecAtUnit x s (ba + 2 * t))
    let h1 := (List.range 32).map fun i => fma32 0x03 (a.getD i 0) (h.getD i 0) (b.getD i 0)
    scanSteps x fmt aa ba oa n (t + 1) h1 (unitWrite x false (oa + 2 * t) 0 (bytes32 h1) s)

/-- SCAN (R92). -/
def execScan (c r : Nat) (s : State) : Out :=
  commit (
    match issueCtx s c r 0x06 with
    | none => opFault s c r 0x06
    | some (x, w) => opRead x s <|
      let n := vopCount (bitsOf w 47 8)
      let ha := bitsOf w 37 10
      let rf := fun (u k : Nat) (wr : Bool) => ({ bank := false, lo := u, n := k, write := wr } : Access)
      if vectorBusy (tileAt s x.t) then s
      else
        withAccess x
          [rf ha 2 false, rf (bitsOf w 27 10) (2 * n) false, rf (bitsOf w 17 10) (2 * n) false,
           rf (bitsOf w 7 10) (2 * n) true, rf ha 2 true] [] s
          (fun s =>
            let (h, s1) := scanSteps x (bitsOf w 55 4) (bitsOf w 27 10) (bitsOf w 17 10) (bitsOf w 7 10) n 0
              (words32 (vecAtUnit x s ha)) s
            advance x (unitWrite x false ha 0 (bytes32 h) s1)))

/-! ### SEND and RECV (R93) -/

/-- Is a CID of the tile's configuration one its halo step runs on? The X3 image leaves it free, so nothing else does (R120). -/
def onHalo (x : Ctx) (cid : Nat) (s : State) : Bool :=
  let t := tileAt s x.t
  let tag := (t.slots[t.slot]?).bind (·.tag)
  (haloSteps s x.run.image).any fun h => tag == some (x.run.image, h.cfg) && h.cids.contains cid

/-- The words a halo step's SENDs put on its connections count (R121; log 13). -/
def countHalo (x : Ctx) (cid n : Nat) (s : State) : State :=
  if onHalo x cid s then
    bumpPart x (fun c => { c with haloWords := c.haloWords + BitVec.ofNat 64 n }) s
  else s

/-- SEND (R93). -/
def execSend (c r : Nat) (s : State) : Out :=
  commit (
    match issueCtx s c r 0x07 with
    | none => opFault s c r 0x07
    | some (x, w) => opRead x s <|
      let t := tileAt s x.t
      let n := bitsOf w 36 16
      let sel := bitsOf w 34 2
      let rfa := effAddr x t sel (bitsOf w 18 10)
      let ba := effAddr x t sel (opAddr w)
      let bank := bitAt w 54
      let own := bitAt w 53
      let src : Access := if bank then { bank := true, lo := ba, n, write := false } else { bank := false, lo := rfa, n, write := false }
      let accs := if own then [src, { bank := true, lo := ba, n, write := true }] else [src]
      withAccess x accs [] s (fun s =>
        let b := unitRead x s bank (if bank then ba.toNat else rfa.toNat) 0 (64 * n)
        if own then advance x (unitWrite x true ba.toNat 0 b s)
        else
          let cid := bitsOf w 55 4
          let ws := (chunks 64 b).map toLine
          let fw := (ws.zipIdx).map fun e => ({ cid, data := e.1, last := bitAt w 52 && e.2 + 1 = ws.length } : FWord)
          let j : InProg := { kind := .send, cid, left := n, addr := 0, part := [], fmt := 0, vacc := false, tiles := [],
                              rd := readSpans accs, wr := [] }
          let s1 := onTile x.t (fun t => { t with pc := t.pc + 1, inprog := t.inprog ++ [j] }) s
          pump_ x.c x.r (inject x 1 fw (countHalo x cid n s1))))

/-- RECV (R93): it waits while an earlier RECV of its CID is in progress, and completes after NWORDS words. -/
def execRecv (c r : Nat) (s : State) : Out :=
  commit (
    match issueCtx s c r 0x08 with
    | none => opFault s c r 0x08
    | some (x, w) => opRead x s <|
      let t := tileAt s x.t
      let n := bitsOf w 36 16
      let cid := bitsOf w 55 4
      let lo := effAddr x t (bitsOf w 34 2) (bitsOf w 18 10)
      let accs : List Access := [{ bank := false, lo, n, write := true }]
      if t.inprog.any fun j => j.kind == .recv && j.cid == cid then s
      else
        withAccess x accs [] s (fun s =>
          let j : InProg := { kind := .recv, cid, left := n, addr := lo.toNat, part := [], fmt := 0, vacc := false, tiles := [],
                              rd := [], wr := writeSpans accs }
          pump_ x.c x.r (onTile x.t (fun t => { t with pc := t.pc + 1, inprog := t.inprog ++ [j] }) s)))

end Sys2Proof.Machine
end

