-- ==== Sys2Proof/Machine/Fabric.lean ====
section
/-! DEFINITION. The fabric: routers, credits, the stall watchdog and the steering units (R13-R34). -/
namespace Sys2Proof.Machine

/-! ### Routers (R19, R21, R23, R24) -/

/-- May a word of a CID be delivered on OUT_L: its endpoint grants a credit (R23), and the tile is in COMPUTE (R11)? -/
def localTakes (m : Mem) (t : Tile) (cid : Nat) : Bool :=
  let code := blkEndpoint m cid
  t.phase = .compute && (if code = 0 || code > 7 then false else endHeld m t cid < (if code < 4 then 4 else 8))

/-- Credits of a CID at an output: the counter of R21, or what the endpoint grants. -/
def outCredit (m : Mem) (t : Tile) (o cid : Nat) : Nat :=
  if o < 4 then Tbl.getD t.credits (16 * o + cid) 0
  else
    let code := blkEndpoint m cid
    if code = 0 || code > 7 then 0 else (if code < 4 then 4 else 8) - endHeld m t cid

/-- A word delivered on OUT_L: to the endpoint of its CID, or into a steering FIFO (R23, R30). -/
def deliverLocal (m : Mem) (w : FWord) (t : Tile) : Tile :=
  let code := blkEndpoint m w.cid
  if code < 4 then { t with endpoint := Tbl.set t.endpoint w.cid (endWords t w.cid ++ [w]) }
  else
    let tok := BitVec.ofNat 32 w.data.toNat
    let upd := fun (u : SteerU) =>
      if code % 2 = 0 then { u with ctl := u.ctl ++ [tok], ctlCid := u.ctlCid ++ [w.cid] }
      else { u with data := u.data ++ [(w.data, w.last)], dataCid := u.dataCid ++ [w.cid] }
    { t with steer := modAt t.steer ((code - 4) / 2) upd }

/-- The outputs that the current slot gives to an input and CID. -/
def slotOuts (x : Ctx) (inp cid : Nat) : List Nat :=
  let e := slotEntry x.blk x.part.slotIdx
  (List.range 5).filter fun o => outSrc e o == inp + 1 && outCid e o == cid

/-- A new word comes in at an input: the failures in a row of a word before it there are over (R324). -/
def passBridge (i inp : Nat) (s : State) : State :=
  let key := 16 * i + inp
  if (Tbl.get? s.lnk.bridgeFails key).isSome then
    { s with lnk := { s.lnk with bridgeFails := Tbl.erase s.lnk.bridgeFails key } }
  else s

/-- A word sent on one output. -/
def sendOut (x : Ctx) (w : FWord) (o : Nat) (s : State) : State :=
  if o < 4 then
    let s1 := onTile x.t (fun t => { t with credits := Tbl.set t.credits (16 * o + w.cid) (Tbl.getD t.credits (16 * o + w.cid) 0 - 1) }) s
    match neighbour x.c x.r o with
    | some (c1, r1) => onTile (tileNo c1 r1) (enqueueWord (facing o) w) (passBridge (tileNo c1 r1) (facing o) s1)
    | none => s1
  else onTile x.t (deliverLocal x.blk w) s

/-- The credit of a word that left an input goes back to the router upstream (R21). -/
def owedCredit (x : Ctx) (inp cid : Nat) (s : State) : State :=
  if inp = 4 then s
  else
    match neighbour x.c x.r inp with
    | some (c1, r1) => onTile (tileNo c1 r1) (fun t => { t with creditsDue := Tbl.bump t.creditsDue (16 * facing inp + cid) 1 }) s
    | none => s

/-- ROUTER_FORWARD (R19, R21, R24): the head word of a CID at an input leaves on every output of the current slot that its
connection owns, if every branch has a credit. -/
def execRouterForward (c r : Nat) (inp : Port) (cid : Nat) (s : State) : Out :=
  commit (
    match ctxAt s c r with
    | none => s
    | some x =>
      let i := portIdx inp
      let t := tileAt s x.t
      let outs := slotOuts x i cid
      match (t.queues.getD i []).find? (·.cid == cid) with
      | none => s
      | some w =>
        if outs = [] || !(outs.all fun o => outCredit x.blk t o cid ≥ 1 && (o != 4 || localTakes x.blk t cid)) then s
        else
          let s1 := onTile x.t (fun t => { t with queues := modAt t.queues i fun l => l.eraseP (·.cid == cid) }) s
          let s2 := owedCredit x i cid (outs.foldl (fun a o => sendOut x w o a) s1)
          pump_ c r (resetStalls x (connKeys s c r i cid) s2))

/-- CREDIT_RETURN (R21): a credit on its way back reaches its counter. -/
def execCreditReturn (c r : Nat) (out : Port) (cid : Nat) (s : State) : Out :=
  commit (
    match ctxAt s c r with
    | none => s
    | some x =>
      let k := 16 * portIdx out + cid
      let n := Tbl.getD (tileAt s x.t).creditsDue k 0
      if n = 0 then s
      else onTile x.t (fun t => { t with credits := Tbl.bump t.credits k 1, creditsDue := Tbl.set t.creditsDue k (n - 1) }) s)

/-! ### The stall watchdog (R27-R29, R358) -/

/-- The limit in FCLK; none when LIMIT = 0. -/
def stallLimit (s : State) : Option Nat := if s.wdog = 0 then none else some (2 ^ max 10 s.wdog.toNat)

/-- The hops of a connection by its name: those on the way from its origin from which its end is reached. -/
def connHops (s : State) (k : Nat) : List Hop :=
  let cid := k % 16
  let origin := k / 16 % 1536
  let dest := k / 16 / 1536
  (hopsFrom s cid (origin % 64, origin / 64, 4)).filter fun h => ((hopsFrom s cid h).flatMap (hopEnd s cid)).contains dest

/-- Does an endpoint of a CID wait for a word (R27)? -/
def endWaits (m : Mem) (t : Tile) (cid : Nat) : Bool :=
  let code := blkEndpoint m cid
  if code = 1 then t.inprog.any fun j => j.kind == .recv && j.cid == cid
  else if code = 2 then t.streams.any (·.words != 0)
  else if code = 3 then t.inprog.any (·.kind == .accwr)
  else if code ≤ 7 && code ≥ 4 then
    let u := t.steer.getD ((code - 4) / 2) SteerU.reset
    u.armed != 0 && !u.stopped && endHeld m t cid == 0
  else false

/-- Connections that a steering unit's waiting pair needs (R33). -/
def pairNeeds (m : Mem) (t : Tile) (u : Nat) : List Nat :=
  let q := t.steer.getD u SteerU.reset
  match q.ctl, q.data with
  | tok :: _, _ :: _ =>
    let e := steerEntry m u (bitsOf tok.toNat 27 3)
    if q.armed != 0 && bitAt tok.toNat 31 && bitsOf e 62 2 = 1 then
      bitsOf e 57 4 :: (if bitAt e 61 then [bitsOf e 53 4] else []) else []
  | _, _ => []

/-- Connections of a tile that hold a word or wait for one. -/
def tileConns (s : State) (c r : Nat) : List Nat :=
  let t := tileAt s (tileNo c r)
  let m := blkOf s (tileNo c r)
  ((t.queues.zipIdx).flatMap fun q => ((q.1.map (·.cid)).eraseDups).flatMap fun cid => connKeys s c r q.2 cid)
    ++ (((t.outbox.map (·.2.cid)) ++ ((pairNeeds m t 0 ++ pairNeeds m t 1).filter fun cid => localCredit m t cid == 0)).eraseDups).flatMap
        (connKeys s c r 4)
    ++ (List.range 16).flatMap fun cid =>
      if endWaits m t cid || (endOwn m t cid != 0 && blkEndpoint m cid != 0) then (endConn s c r cid).toList else []

/-- Live connections of a partition: something is held or awaited, and every tile of the connection is in COMPUTE (R27). -/
def liveConns (s : State) (p : Part) : List Nat :=
  (((partTiles p).filter fun t => Tbl.has s.tiles (tileNo t.1 t.2)).flatMap fun t => tileConns s t.1 t.2).eraseDups.filter fun k =>
    (connHops s k).all fun h => (tileAt s (tileNo h.1 h.2.1)).phase == .compute

/-- One FCLK of the counts of R28. -/
def countStalls (s : State) (p : Part) : Tbl Nat :=
  if p.held then p.stalls else (liveConns s p).foldl (fun t k => Tbl.bump t k 1) p.stalls

/-- Does an output of a hop lead to the end of a connection? -/
def leadsTo (s : State) (k : Nat) (h : Hop) (o : Nat) : Bool :=
  let dest := k / 16 / 1536
  if o = 4 then dest == tileNo h.1 h.2.1
  else match neighbour h.1 h.2.1 o with
    | some n => ((hopsFrom s (k % 16) (n.1, n.2, facing o)).flatMap (hopEnd s (k % 16))).contains dest
    | none => false

/-- The port R29 reports at a hop of connection `k`: the output by which the connection leaves, else 0x80 + the input. -/
def stallDetail (s : State) (p : Part) (h : Hop) (k : Nat) : List Byte :=
  let t := tileAt s (tileNo h.1 h.2.1)
  let m := blkOf s (tileNo h.1 h.2.1)
  let cid := k % 16
  let n := queued t h.2.2 cid
  let (port, cr) := match (outsFrom m h.2.2 cid).filter (leadsTo s k h) with
    | o :: _ => (o, outCredit m t o cid)
    | [] => (0x80 + h.2.2, 0xFF)
  [BitVec.ofNat 8 h.1, BitVec.ofNat 8 h.2.1, BitVec.ofNat 8 port, BitVec.ofNat 8 cid, BitVec.ofNat 8 n, BitVec.ofNat 8 cr,
   BitVec.ofNat 8 p.first, BitVec.ofNat 8 (p.first + p.count - 1)] ++ List.replicate 8 0

/-- The lower of two hops: by row, then by column (R29). -/
def lowerHop (a b : Nat × Hop) : Nat × Hop :=
  if b.2.2.1 < a.2.2.1 || (b.2.2.1 = a.2.2.1 && b.2.1 < a.2.1) then b else a

/-- May a partition post FABRIC_STALL: nothing has stopped the tiles, or only the stalls of other partitions in this very FCLK (R29)? -/
def stallOpen (s : State) (part : Nat) : Bool :=
  running s || (s.dump.fault.any fun f => f.tick == s.clk.ticks && f.stalled != [] && !f.stalled.contains part && f.record.isNone)

/-- FABRIC_STALL posted for a partition: the job fault, and the partition noted with it. -/
def raiseStall (p : Part) (job : Nat) (d : List Byte) (tile : Nat × Nat) (s : State) : State :=
  let s1 := raiseFault 0x0301 (0x40 + p.first) job d 1 (some p.first) (some tile) 0 0xFF s
  { s1 with dump := { s1.dump with fault := s1.dump.fault.map fun f => { f with stalled := f.stalled ++ [p.first] } } }

/-- FABRIC_STALL (R28, R29): a live connection of the partition has reached the limit. -/
def execFabricStall (part : Nat) (s : State) : Out :=
  commit (
    match runningRun s part, stallLimit s with
    | some (p, cmd, _), some lim =>
      if p.held || !stallOpen s part then s
      else
        let hit := (liveConns s p).filter fun k => Tbl.getD p.stalls k 0 ≥ lim
        match hit.flatMap fun k => (connHops s k).map fun h => (k, h) with
        | [] => s
        | a :: l =>
          let (k, h) := l.foldl lowerHop a
          raiseStall p cmd.job (stallDetail s p h k) (h.1, h.2.1) s
    | _, _ => s)

/-! ### Steering units (R30-R34) -/

/-- STEER_MISMATCH (R34): the unit stops. -/
def steerMismatch (x : Ctx) (unit cause : Nat) (s : State) : State :=
  let u := (tileAt s x.t).steer.getD unit SteerU.reset
  let d := [BitVec.ofNat 8 x.c, BitVec.ofNat 8 x.r, BitVec.ofNat 8 unit, BitVec.ofNat 8 cause]
    ++ leBytes 4 (u.ctl.headD 0).toNat
    ++ [match u.data with | (_, e) :: _ => BitVec.ofNat 8 (ofBool e) | [] => 0xFF,
        BitVec.ofNat 8 u.ctl.length, BitVec.ofNat 8 u.data.length] ++ List.replicate 5 0
  raiseFault 0x0302 (0x40 + x.part.first) x.cmd.job d 2 (some x.part.first) (some (x.c, x.r)) 0 0xFF
    (onTile x.t (fun t => { t with steer := modAt t.steer unit fun u => { u with stopped := true } }) s)

/-- Rows of a bank window: LIMIT, 0 meaning 32,768. -/
def windowRows (e : Nat) : Nat := if bitsOf e 0 15 = 0 then 32768 else bitsOf e 0 15

/-- The cause of R34 that a head pair meets, or 0. -/
def pairCause (e tok : Nat) (last : Bool) : Nat :=
  if bitAt tok 30 != last then 1
  else if bitAt tok 31 && bitsOf e 62 2 = 0 then 2
  else if bitAt tok 31 && bitsOf e 62 2 = 2 && bitsOf tok 12 15 ≥ windowRows e then 3
  else 0

/-- Can the destination of a pair accept (R33)? Where token and word go on by one connection (TOKFWD = 1 and CID = TCID), two of its
credits are asked before the pair is accepted: DESIGN CHOICE (log 26), R33 asks that every connection has a credit. -/
def pairAccepts (x : Ctx) (t : Tile) (e tok : Nat) : Bool :=
  if !bitAt tok 31 || bitsOf e 62 2 != 1 then true
  else
    let cid := bitsOf e 57 4
    let tcid := bitsOf e 53 4
    if bitAt e 61 then
      localCredit x.blk t cid ≥ (if cid = tcid then 2 else 1) && localCredit x.blk t tcid ≥ 1
    else localCredit x.blk t cid ≥ 1

/-- What a pair with V = 1 sends or writes (R33). Bytes 4 to 63 of a forwarded token's word are 0, and where CID and TCID are the same
the data word goes first: DESIGN CHOICE (log 26), the rule gives bytes 0 to 3 and no order. -/
def pairOut (x : Ctx) (e tok : Nat) (w : Line) (last : Bool) (s : State) : State :=
  if !bitAt tok 31 then s
  else if bitsOf e 62 2 = 1 then
    let s1 := onTile x.t (enqueueWord 4 { cid := bitsOf e 57 4, data := w, last }) s
    if bitAt e 61 then
      onTile x.t (enqueueWord 4 { cid := bitsOf e 53 4, data := BitVec.ofNat 512 tok, last := bitAt tok 30 }) s1
    else s1
  else unitWrite x true (bitsOf e 32 18 + bitsOf tok 12 15 * bitsOf e 24 8) 0 (lineBytes w) s

/-- STEER_PAIR (R31-R34): the head token and data word of an armed unit. -/
def execSteerPair (c r unit : Nat) (s : State) : Out :=
  commit (
    match ctxAt s c r with
    | none => s
    | some x =>
      let t := tileAt s x.t
      match t.steer[unit]? with
      | none => s
      | some u =>
        if t.phase != .compute || u.armed = 0 || u.stopped then s
        else
          match u.ctl, u.data with
          | tok32 :: ctl, (w, last) :: data =>
            let tok := tok32.toNat
            let e := steerEntry x.blk unit (bitsOf tok 27 3)
            let cause := pairCause e tok last
            if cause != 0 then steerMismatch x unit cause s
            else if !pairAccepts x t e tok then s
            else
              let left := if bitAt tok 30 then u.armed - 1 else u.armed
              let s1 := onTile x.t (fun t => { t with steer := modAt t.steer unit fun u =>
                { u with ctl, data, ctlCid := u.ctlCid.drop 1, dataCid := u.dataCid.drop 1, armed := left } }) s
              let s2 := pairOut x e tok w last s1
              pump_ c r (resetStalls x (movedConns x s s2) s2)
          | _, _ => s)

end Sys2Proof.Machine
end

