-- ==== Sys2Proof/Machine/Gate.lean ====
section
/-! DEFINITION. The gate stage (R125-R138): candidate rows, the parameter block, choices and capacity, tokens and data words,
records, and GATE in Scheduled and Stepped mode. -/
namespace Sys2Proof.Machine

/-! ### The parameter block (R126, R127) -/

/-- A gate parameter block. -/
structure GateP where
  tau : W32
  e : Nat
  tokDim : Nat
  capDim : Nat
  gateId : Nat
  flags : Nat
  lane : Nat
  nlane : Nat
  wmul : Nat
  bmul : Nat
  chunk : Nat
  mapA : Nat
  cntA : Nat
  planA : Nat
  dstride : Nat
  recBase : Nat
  dBase : Nat
  kmean : Nat
  /-- Its reserved fields. -/
  res : Nat

def gateParams (b : List Byte) : GateP :=
  { tau := BitVec.ofNat 32 (fieldAt b 0 4), e := fieldAt b 4 2, tokDim := byteAt b 8, capDim := byteAt b 9,
    gateId := byteAt b 10, flags := byteAt b 11, lane := byteAt b 12, nlane := byteAt b 13, wmul := fieldAt b 14 2,
    bmul := fieldAt b 16 2, chunk := fieldAt b 18 2, mapA := fieldAt b 20 2, cntA := fieldAt b 22 2, planA := fieldAt b 24 2,
    dstride := fieldAt b 26 2, recBase := bitsOf (fieldAt b 28 4) 0 18, dBase := bitsOf (fieldAt b 32 4) 0 18,
    kmean := fieldAt b 36 4,
    res := fieldAt b 6 2 + byteAt b 11 / 8 + bitsOf (fieldAt b 28 4) 18 14 + bitsOf (fieldAt b 32 4) 18 14
      + leNat (sliceB b 40 24) }

def GateP.dfeed (g : GateP) : Bool := bitAt g.flags 0
def GateP.report (g : GateP) : Bool := bitAt g.flags 1
def GateP.chunked (g : GateP) : Bool := bitAt g.flags 2

/-- Fields of the GATE micro-op (R94). -/
def gateUnit (w : Nat) : Nat := bitsOf w 58 1
def gateRec (w : Nat) : Bool := bitAt w 57
/-- KMAX; a code of 16 as it stands, 5 bits. -/
def gateKmax (w : Nat) : Nat := bitsOf w 52 5
def gateKmin (w : Nat) : Nat := bitsOf w 47 5
def gateSaddr (w : Nat) : Nat := bitsOf w 37 10
def gatePaddr (w : Nat) : Nat := bitsOf w 27 10

/-- RECLEN in 64 B units (R133). -/
def recUnits (w : Nat) : Nat := ceilDiv (16 + 16 * gateKmax w) 64

/-- Ranges and reserved fields of R126. -/
def gateFieldsOk (dim : Nat → Bool) (g : GateP) : Bool :=
  1 ≤ g.e && g.e ≤ 4096 && dim g.tokDim && dim g.capDim && g.flags < 8 && 1 ≤ g.nlane && g.nlane ≤ 64 && g.lane < g.nlane
    && g.nlane ≤ g.wmul && g.wmul ≤ 4096 && g.bmul + g.nlane ≤ g.wmul
    && (if g.chunked then 1 ≤ g.chunk && g.chunk ≤ 512 else g.chunk == 0)
    && (if g.dfeed then 1 ≤ g.dstride else g.dstride == 0) && 1 ≤ g.kmean && g.kmean ≤ 0x100000 && g.res == 0

/-- Register-file spans of a GATE in 64 B units: candidate rows, parameter block, map, lane plan, counter table. -/
def gateAreas (w : Nat) (g : GateP) (n : Nat) : List (Nat × Nat) :=
  [(gateSaddr w, 2 * n), (gatePaddr w, 1), (g.mapA, ceilDiv (2 * g.e) 64), (g.planA, ceilDiv (4 * g.e) 64),
   (g.cntA, ceilDiv (4 * g.e) 64)]

/-- Do spans (start, length) keep apart? -/
def apart : List (Nat × Nat) → Bool
  | [] => true
  | a :: l => l.all (fun b => a.2 = 0 || b.2 = 0 || a.1 + a.2 ≤ b.1 || b.1 + b.2 ≤ a.1) && apart l

/-- The check of R127, for executions of at most `n` rows with token indices below `t`. -/
def gateBlockOk (m : Mem) (dim : Nat → Bool) (data w : Nat) (g : GateP) (n t : Nat) : Bool :=
  gateFieldsOk dim g && apart (gateAreas w g n) && (gateAreas w g n).all (fun a => a.2 = 0 || a.1 + a.2 ≤ 1024)
    && (!gateRec w || n = 0 || g.recBase + n * recUnits w ≤ data)
    && (!g.dfeed || ((t = 0 || g.dBase + (t - 1) * g.dstride + 1 ≤ data) && boundCids m (5 + 2 * gateUnit w) == []))

/-- Does the parameter block lie inside the block's preload (R127)? -/
def inPreload (m : Mem) (u : Nat) : Bool := blkPreBase m ≤ u && u < blkPreBase m + blkPreLen m

/-- C of R129. -/
def capacity (cf t kmean e : Nat) : Nat := ceilDiv (cf * t * kmean) (256 * 65536 * e)

/-! ### Choices (R125, R128, R130, R131) -/

/-- A valid candidate: its score and expert. -/
abbrev Cand := W32 × Nat

/-- Valid candidates of a row, in candidate order (R125). `off` says which experts the map voids. -/
def validCands (e : Nat) (off : Nat → Bool) (row : List Byte) : List Cand :=
  (List.range 16).foldl (fun acc i =>
    let sc := BitVec.ofNat 32 (fieldAt row (4 * i) 4)
    let id := fieldAt row (64 + 2 * i) 2
    if id ≥ 4096 || id ≥ e || off id || isNan32 sc || acc.any (·.2 == id) then acc else acc ++ [(sc, id)]) []

/-- Candidates in the order of R71. -/
def orderCands (l : List Cand) : List Cand := l.mergeSort fun x y => rankLe x.1 y.1

/-- Does a score reach τ? -/
def reachesTau (tau sc : W32) : Bool := !isNan32 tau && !isNan32 sc && !flt32 sc tau

/-- The choice list L and whether KMIN completed it (R128). -/
def choiceList (tau : W32) (kmax kmin : Nat) (l : List Cand) : List Cand × Bool :=
  let a := (l.filter fun c => reachesTau tau c.1).take kmax
  if a.length < kmin then
    let more := (l.filter fun c => !a.contains c).take (kmin - a.length)
    (a ++ more, more != [])
  else (a, false)

/-- An entry of a token's walk: expert, score, state (0 taken, 1 dropped, 2 refill) and j. -/
structure Taken where
  id : Nat
  score : W32
  state : Nat
  j : Nat

/-- The walk of R130 over L: entries, and the counts after it. -/
def walkList (cap : Nat → Nat) : List Cand → Tbl Nat → List Taken → List Taken × Tbl Nat
  | [], cnt, acc => (acc, cnt)
  | c :: l, cnt, acc =>
    let k := Tbl.getD cnt c.2 0
    if k < cap c.2 then walkList cap l (Tbl.set cnt c.2 (k + 1)) (acc ++ [{ id := c.2, score := c.1, state := 0, j := k }])
    else walkList cap l cnt (acc ++ [{ id := c.2, score := c.1, state := 1, j := 0 }])

/-- The refills of R130: `want` of them at most. -/
def refillList (cap : Nat → Nat) : List Cand → Nat → Tbl Nat → List Taken → List Taken × Tbl Nat
  | [], _, cnt, acc => (acc, cnt)
  | c :: l, want, cnt, acc =>
    if want = 0 then (acc, cnt)
    else
      let k := Tbl.getD cnt c.2 0
      if k < cap c.2 then
        refillList cap l (want - 1) (Tbl.set cnt c.2 (k + 1)) (acc ++ [{ id := c.2, score := c.1, state := 2, j := k }])
      else refillList cap l want cnt acc

/-- FP32 sum in order; no terms give +0. -/
def sumScores : List W32 → W32
  | [] => 0
  | a :: l => l.foldl fadd a

/-- A quotient rounded once to FP32; the divisor is not 0 (R131). -/
def fdiv32 (a b : W32) : W32 :=
  match ofFp32 a, ofFp32 b with
  | .nan _, _ => 0x7FC00000
  | _, .nan _ => 0x7FC00000
  | .inf _, .inf _ => 0x7FC00000
  | .inf s, .fin t _ _ => toFp32 (.inf (s != t))
  | .fin s _ _, .inf t => toFp32 (.fin (s != t) 0 0)
  | .fin s m e, .fin t n k =>
    if n = 0 then 0x7FC00000
    else
      let q := m * 2 ^ (n.log2 + 64)
      toFp32 (.fin (s != t) (2 * (q / n) + (if q % n = 0 then 0 else 1)) (e - k - n.log2 - 65))

/-- Is a pattern a zero? -/
def isZero32 (w : W32) : Bool := w == 0 || w == 0x80000000

/-- The weights of a token's entries (R131). -/
def gateWeights (renorm : Bool) (sl : W32) (l : List Taken) : List W32 :=
  let st := sumScores ((l.filter (·.state != 1)).map (·.score))
  l.map fun t =>
    if t.state = 1 then 0
    else if renorm && !isZero32 st then toFp32 (Num.mul (ofFp32 t.score) (ofFp32 (fdiv32 sl st)))
    else t.score

/-! ### One execution -/

/-- An expert map entry (R126). -/
def mapEntry (x : Ctx) (s : State) (g : GateP) (e : Nat) : Nat := fieldAt (unitRead x s false g.mapA (2 * e) 2) 0 2

/-- BASE and CAP of the lane plan for an expert. -/
def planEntry (x : Ctx) (s : State) (g : GateP) (e : Nat) : Nat × Nat :=
  let v := fieldAt (unitRead x s false g.planA (4 * e) 4) 0 4
  (bitsOf v 0 16, bitsOf v 16 16)

/-- COUNT and DROPS of an expert. -/
def cntEntry (x : Ctx) (s : State) (g : GateP) (e : Nat) : Nat × Nat :=
  let v := fieldAt (unitRead x s false g.cntA (4 * e) 4) 0 4
  (bitsOf v 0 16, bitsOf v 16 16)

/-- The counter table with these counts and drops. -/
def setCounters (x : Ctx) (g : GateP) (cnt drops : Tbl Nat) (s : State) : State :=
  unitWrite x false g.cntA 0 ((List.range g.e).flatMap fun e =>
    leBytes 2 (Tbl.getD cnt e 0) ++ leBytes 2 (Tbl.getD drops e 0)) s

/-- What an execution acts with. -/
structure GateRunP where
  w : Nat
  g : GateP
  /-- Rows, and the token index of the first. -/
  n : Nat
  t0 : Nat
  c : Nat
  stepped : Bool
  img : List Byte

/-- What an execution has made so far. -/
structure GateAcc where
  cnt : Tbl Nat
  drops : Tbl Nat
  toks : List Nat
  recs : List (List Byte)
  /-- A ROW beyond 32,767 was computed. -/
  past : Bool

/-- ROW of a taken choice (R132). -/
def tokenRow (p : GateRunP) (m base j : Nat) : Nat :=
  let slot := bitsOf m 3 11
  let inner := if p.stepped then base + j else p.g.lane * p.c + j
  if bitAt m 14 then slot * p.g.nlane * p.c + inner
  else slot * p.g.wmul * p.c + p.g.bmul * p.c + inner

/-- A record's bytes (R133); those beyond its entries are undefined (log 6). -/
def gateRecord (k : Nat) (p : GateRunP) (t nlist : Nat) (kminFill : Bool) (sl : W32) (l : List (Taken × Nat × W32)) : List Byte :=
  let taken := (l.filter fun e => e.1.state != 1).length
  let b7 := ofBool kminFill + 2 * ofBool (l.any fun e => e.1.state == 2) + 4 * ofBool (taken = 0)
  let head := leBytes 4 t ++ [BitVec.ofNat 8 nlist, BitVec.ofNat 8 taken, BitVec.ofNat 8 (l.length - taken), BitVec.ofNat 8 b7]
    ++ leBytes 4 sl.toNat ++ List.replicate 4 0
  let ents := l.flatMap fun e => leBytes 2 (e.1.id + 4096 * e.1.state)
    ++ leBytes 2 (if e.1.state = 1 then 0 else e.2.1) ++ leBytes 4 e.2.2.toNat
  let unused := (List.range (2 * gateKmax p.w - l.length)).flatMap fun _ => leBytes 2 0xFFFF ++ List.replicate 6 0
  let b := head ++ ents ++ unused
  b ++ freeBytes k (64 * recUnits p.w - b.length)

/-- L of row `i`, with the ordered valid candidates. -/
def rowChoices (x : Ctx) (s : State) (p : GateRunP) (i : Nat) : List Cand × List Cand × Bool :=
  let row := unitRead x s false (gateSaddr p.w + 2 * i) 0 128
  let l := orderCands (validCands p.g.e (fun e => bitAt (mapEntry x s p.g e) 15) row)
  let c := choiceList p.g.tau (gateKmax p.w) (gateKmin p.w) l
  (l, c.1, c.2)

/-- One token row (R128-R133). -/
def gateToken (x : Ctx) (s : State) (p : GateRunP) (a : GateAcc) (i : Nat) : GateAcc :=
  let (all, l, fill) := rowChoices x s p i
  let cap := fun e => if p.stepped then (planEntry x s p.g e).2 else p.c
  let w1 := walkList cap l a.cnt []
  let taken := (w1.1.filter (·.state == 0)).length
  let w2 := if imgFlag p.img 2 then
      refillList cap (all.filter fun c => !l.contains c) (l.length - taken) w1.2 w1.1 else w1
  let sl := sumScores (l.map (·.1))
  let ws := gateWeights (imgFlag p.img 3) sl w2.1
  let rows := w2.1.map fun t =>
    if t.state = 1 then 0 else tokenRow p (mapEntry x s p.g t.id) (planEntry x s p.g t.id).1 t.j
  let live := (w2.1.zip rows).filter fun e => e.1.state != 1
  let eog := i + 1 = p.n
  let toks := (live.zipIdx).map fun e =>
    2 ^ 31 + (if eog && e.2 + 1 = live.length then 2 ^ 30 else 0)
      + bitsOf (mapEntry x s p.g e.1.1.id) 0 3 * 2 ^ 27 + e.1.2 % 32768 * 4096 + e.1.1.id
  { cnt := w2.2
    drops := (w2.1.filter (·.state == 1)).foldl (fun d t => Tbl.bump d t.id 1) a.drops
    toks := a.toks ++ (if live = [] then [if eog then 2 ^ 30 else 0] else toks)
    recs := a.recs ++ [gateRecord (s.fresh + i) p (p.t0 + i) l.length fill sl (w2.1.zip (rows.zip ws))]
    past := a.past || live.any fun e => e.2 > 32767 }

/-- An execution that has no rows writes one token that closes the group (R132). -/
def gateTokens (p : GateRunP) (a : GateAcc) : List Nat := if p.n = 0 then [2 ^ 30] else a.toks

/-- DFEED words: one for each token written (R132). -/
def dfeedWords (x : Ctx) (s : State) (p : GateRunP) (counts : List Nat) : List (Line × Bool) :=
  if p.n = 0 then [(0, true)]
  else
    let l := (counts.zipIdx).flatMap fun c =>
      let b := unitRead x s true (p.g.dBase + (p.t0 + c.2) * p.g.dstride) 0 64
      List.replicate c.1 (toLine b)
    (l.zipIdx).map fun e => (e.1, e.2 + 1 = l.length)

/-- The RUN of a tile's partition changed. -/
def onRun (x : Ctx) (f : RunInfo → RunInfo) (s : State) : State :=
  onCmd x.cmd.key (fun c => match curRun c with | some r => setRun c (f r) | none => c) s

/-- The step's demand table with this execution's lane done where it has gated its last token: 1 where a REPORT execution counted the
lane's demand, 2 where none did. -/
def laneDone (x : Ctx) (p : GateRunP) (mark : Nat) (t : Tbl Nat) : Tbl Nat :=
  let cfg := ((imgInnings p.img)[x.run.entry]?.map (·.cfg)).getD 0
  let d1 := Tbl.set (Tbl.set t 8192 p.g.nlane) 8193 (1 + cfg)
  if p.t0 + p.n ≥ Tbl.getD x.run.dims p.g.tokDim 0 then Tbl.set d1 (4096 + p.g.lane) mark else d1

/-- What a REPORT execution counts: GATE_TOKENS, GATE_DROPS, the RUN's drops, and the step's demand (R135, R143). -/
def gateReport (x : Ctx) (p : GateRunP) (before after drops0 drops : Tbl Nat) (s : State) : State :=
  let ids := List.range p.g.e
  let diff := fun (a b : Tbl Nat) => (ids.map fun e => (e, Tbl.getD b e 0 - Tbl.getD a e 0)).filter fun e => e.2 != 0
  let nd := ((diff drops0 drops).map (·.2)).sum
  let s1 := bumpPart x (fun c => { c with gateTokens := c.gateTokens + BitVec.ofNat 64 p.n,
                                          gateDrops := c.gateDrops + BitVec.ofNat 64 nd }) s
  let add := fun (t : Tbl Nat) (l : List (Nat × Nat)) => l.foldl (fun a e => Tbl.bump a e.1 e.2) t
  onRun x (fun r =>
    let old := Tbl.getD r.demand p.g.gateId []
    let base := if p.t0 = 0 && Tbl.getD old (4096 + p.g.lane) 0 = 1 then old.filter (fun e => 4096 ≤ e.1 && e.2 == 2) else old
    { r with drops := Tbl.set r.drops p.g.gateId (add (Tbl.getD r.drops p.g.gateId []) (diff drops0 drops)),
             demand := Tbl.set r.demand p.g.gateId (laneDone x p 1 (add base (diff before after))) }) s1

/-- An execution with REPORT = 0 may end its lane's part in the gate stage too: a lane need not have a reporting GATE (R143). -/
def gateSeen (x : Ctx) (p : GateRunP) (s : State) : State :=
  onRun x (fun r =>
    let old := Tbl.getD r.demand p.g.gateId []
    if Tbl.has old (4096 + p.g.lane) then r else { r with demand := Tbl.set r.demand p.g.gateId (laneDone x p 2 old) }) s

/-- The counts a table holds, for the experts of the block. -/
def tableCounts (x : Ctx) (s : State) (g : GateP) (f : Nat × Nat → Nat) : Tbl Nat :=
  ((List.range g.e).map fun e => (e, f (cntEntry x s g e))).filter fun e => e.2 != 0

/-- What the exchange engines will need of the gate: C, the map, and each expert's COUNT and BASE in this lane (R150). The counts of
an earlier dispatch end here. -/
def noteGate (x : Ctx) (p : GateRunP) (cnt : Tbl Nat) (s : State) : State :=
  let ids := List.range p.g.e
  let lane := ids.map fun e => (Tbl.getD cnt e 0, if p.stepped then some (planEntry x s p.g e).1 else none)
  onRun x (fun r =>
    let old := Tbl.getD r.gates p.g.gateId { c := 0, map := [], lanes := [], recv := [] }
    { r with gates := Tbl.set r.gates p.g.gateId { old with c := p.c, map := ids.map (mapEntry x s p.g),
                                                            lanes := Tbl.set old.lanes p.g.lane lane, recv := [] } }) s

/-- What an execution makes of its rows, in order (R130-R133), from the counts and drops it starts with; and how many tokens each row
writes. -/
def gateAccs (x : Ctx) (s : State) (p : GateRunP) (cnt drops : Tbl Nat) : GateAcc × List Nat :=
  (List.range p.n).foldl (fun r i =>
    let a := gateToken x s p r.1 i
    (a, r.2 ++ [a.toks.length - r.1.toks.length])) ({ cnt, drops, toks := [], recs := [], past := false }, [])

/-- The counts, and the drops, that an execution starts with: none where it clears them (R134). -/
def gateStart (x : Ctx) (s : State) (p : GateRunP) (clear : Bool) : Tbl Nat × Tbl Nat :=
  if clear then ([], []) else (tableCounts x s p.g (·.1), tableCounts x s p.g (·.2))

/-- The emission of an execution (R130-R134): its counters, its records, and what it will put into its unit's FIFOs. `clear`:
the counters start from 0. -/
def gateEmit (x : Ctx) (p : GateRunP) (clear : Bool) (s : State) : State :=
  let (c0, d0) := gateStart x s p clear
  let r := gateAccs x s p c0 d0
  if r.1.past then failTile x .badParam s
  else
    let words := if p.g.dfeed then dfeedWords x s p r.2 else []
    let s1 := noteGate x p r.1.cnt (setCounters x p.g r.1.cnt r.1.drops { s with fresh := s.fresh + p.n })
    let s2 := if gateRec p.w then
        (r.1.recs.zipIdx).foldl (fun a e => unitWrite x true (p.g.recBase + e.2 * recUnits p.w) 0 e.1 a) s1 else s1
    let s3 := if p.g.report then gateReport x p c0 r.1.cnt d0 r.1.drops s2 else gateSeen x p s2
    let job : GateRun := { unit := gateUnit p.w, toks := (gateTokens p r.1).map (BitVec.ofNat 32 ·), words }
    pump_ x.c x.r (onTile x.t (fun t => { t with gateRun := t.gateRun ++ [job] }) s3)

/-- Bank words that DFEED reads, which are checked as other reads are (R322). -/
def dfeedAccess (p : GateRunP) : List Access :=
  if p.g.dfeed then (List.range p.n).map fun i =>
    let u : Nat := p.g.dBase + (p.t0 + i) * p.g.dstride
    { bank := true, lo := u, n := 1, write := false }
  else []

/-- An emission whose DFEED words can be read. -/
def gateEmitChecked (x : Ctx) (p : GateRunP) (clear : Bool) (s : State) : State :=
  match checkReads x (dfeedAccess p) [] s with
  | (e :: es, s1) => tileUeFault x (e :: es) s1
  | ([], s1) => gateEmit x p clear s1

/-- i0 of the innermost enclosing level-0 loop, 0 without one (R134). -/
def gateI0 (x : Ctx) (t : Tile) : Nat := if (loopEnd x.blk 0 t.pc).isSome then t.i0 else 0

/-- Rows of an execution and the token index of its first (R134). -/
def gateRows (x : Ctx) (g : GateP) (w i0 : Nat) : Nat × Nat :=
  if g.chunked then (min g.chunk (Tbl.getD x.run.dims g.tokDim 0 - i0 * g.chunk), i0 * g.chunk)
  else
    let n := dynCount x.run.dims (bitAt w 26) (bitsOf w 10 16)
    (n, i0 * n)

/-- A lane plan written into the register file (R140). -/
def writePlan (x : Ctx) (g : GateP) (plan : List (Nat × Nat)) (s : State) : State :=
  unitWrite x false g.planA 0 ((List.range g.e).flatMap fun e =>
    let b := plan.getD e (0, 0)
    leBytes 2 b.1 ++ leBytes 2 b.2) s

/-- Key of a GATE among the emission passes of its tile. -/
def GateHold.key (h : GateHold) : Nat := 64 * h.gateId + h.lane

/-- The emission pass of a held GATE, with the lane plans of its hold (R138, R140). -/
def gateResume (x : Ctx) (h : GateHold) (lanes : List (List (Nat × Nat))) (s : State) : State :=
  let w := h.word.toNat
  let g := gateParams (unitRead x s false (gatePaddr w) 0 64)
  let img := imgOf s x.run.image
  let p : GateRunP := { w, g, n := h.tokens, t0 := 0, stepped := true, img,
                        c := capacity (imgCf img) (Tbl.getD x.run.dims g.tokDim 0) g.kmean g.e }
  let s1 := onTile x.t (fun t => { t with gateHold := t.gateHold.erase h, gated := Tbl.bump t.gated h.key 1 })
    (writePlan x g (lanes.getD h.lane []) s)
  gateEmitChecked x p true s1

/-- The plan that a GATE with REPORT = 0 finds given already: its tile's GATEs of the gate id and lane take the inning's plans in order
(DEDUCED: log 25). One with REPORT = 1 always holds. -/
def planGiven (x : Ctx) (s : State) (h : GateHold) : Option (List (List (Nat × Nat))) :=
  if h.report then none else (Tbl.getD x.run.plans h.gateId [])[Tbl.getD (tileAt s x.t).gated h.key 0]?

/-- The count pass (R138): COUNT of each entry is the number of tokens whose L names the expert; then GATE waits. -/
def gateCount (x : Ctx) (p : GateRunP) (s : State) : State :=
  let cnt := (List.range p.n).foldl (fun (c : Tbl Nat) i =>
    (rowChoices x s p i).2.1.foldl (fun c e => Tbl.bump c e.2 1) c) []
  let h : GateHold := { word := BitVec.ofNat 64 p.w, gateId := p.g.gateId, lane := p.g.lane, nlane := p.g.nlane, experts := p.g.e,
                        report := p.g.report, tokens := p.n, counts := (List.range p.g.e).map fun e => Tbl.getD cnt e 0 }
  let s1 := onTile x.t (fun t => { t with gateHold := t.gateHold ++ [h] }) (setCounters x p.g cnt [] s)
  match planGiven x s h with
  | some lanes => gateResume x h lanes s1
  | none => onPart x.part.first (fun p => { p with held := true }) s1

/-- Was a GATE's parameter block checked by IMAGE_BIND, and the RUN's C by its acceptance (R127, R129)? It was where it lies in the
preload; a program that has written over it since has it checked again (DEDUCED: log 25). -/
def gateChecked (x : Ctx) (s : State) (w : Nat) : Bool :=
  inPreload x.blk (gatePaddr w)
    && unitRead x s false (gatePaddr w) 0 64 == Mem.read x.blk (0xC00 + 64 * (gatePaddr w - blkPreBase x.blk)) 64

/-- What a GATE word acts with (R126, R129, R134). -/
def gateSetup (x : Ctx) (s : State) (w : Nat) : GateRunP :=
  let img := imgOf s x.run.image
  let g := gateParams (unitRead x s false (gatePaddr w) 0 64)
  let r := gateRows x g w (gateI0 x (tileAt s x.t))
  { w, g, n := r.1, t0 := r.2, c := capacity (imgCf img) (Tbl.getD x.run.dims g.tokDim 0) g.kmean g.e, stepped := x.run.stepped, img }

/-- What a GATE reads, and what it writes (R134). -/
def gateAccess (p : GateRunP) : List Access :=
  ((gateAreas p.w p.g p.n).map fun a => ({ bank := false, lo := a.1, n := a.2, write := false } : Access)) ++
    ({ bank := false, lo := p.g.cntA, n := ceilDiv (4 * p.g.e) 64, write := true }
      :: (if gateRec p.w then [{ bank := true, lo := p.g.recBase, n := p.n * recUnits p.w, write := true }] else []))

/-- GATE at its issue (R94, R125-R138). -/
def gateIssue (c r : Nat) (s : State) : State :=
  match issueCtx s c r 0x0A with
  | none => opFault s c r 0x0A
  | some (x, w) => opRead x s <|
    let t := tileAt s x.t
    let i0 := gateI0 x t
    let p := gateSetup x s w
    if t.inprog.any fun j => j.kind == .gate && j.cid == gateUnit w then s
    else if !gateChecked x s w && !(gateBlockOk x.blk (isDim p.img) x.bind.dataUnits w p.g p.n (p.t0 + p.n)
        && Tbl.getD x.run.dims p.g.capDim 0 == p.c) then failTile x .badParam s
    else if x.run.stepped && i0 != 0 then failTile x .badParam s
    else
      let accs := gateAccess p
      withAccess x accs [] s (fun s =>
        let j : InProg := { kind := .gate, cid := gateUnit w, left := 0, addr := 0, part := [], fmt := 0, vacc := false,
                            tiles := [], rd := readSpans accs, wr := writeSpans accs }
        let s1 := onTile x.t (fun t => { t with pc := t.pc + 1, inprog := t.inprog ++ [j] }) s
        if x.run.stepped then gateCount x p s1 else gateEmitChecked x p (i0 = 0) s1)

end Sys2Proof.Machine
end

