-- ==== Sys2Proof/Machine/Sequencer.lean ====
section
/-! DEFINITION. The sequencer's own micro-ops STEER, WAITPH, PHASE and END, the drain, the config slot fill, and the route report
of Stepped mode (R94-R97, R101, R139). -/
namespace Sys2Proof.Machine

/-! ### Config slots (R101) -/

/-- Position of a tile in the tile order of its partition (R80). -/
def tilePos (p : Part) (c r : Nat) : Nat := (partTiles p).findIdx (· == (c, r))

/-- A config slot loaded with 32 KiB. -/
def loadSlot (i slot image cfg : Nat) (b : List Byte) (s : State) : State :=
  eccRewrite .configStore i (32768 * slot) 32768
    (onTile i (fun t => { t with slots := modAt t.slots slot fun _ => { tag := some (image, cfg), mem := memOfBytes b } }) s)

/-- The command that runs on a partition fails. -/
def failPart (p : Part) (st : Status) (s : State) : State :=
  match p.running with
  | some k => failRunning k st s
  | none => s

/-- A tile fills a slot with a configuration: from its config area, or through its staging block from the IMAGE object. An
uncorrectable word in the bank is a job fault (R322), one in the IMAGE object fails the command (R178). -/
def fillSlot (p : Part) (job : Nat) (b : Binding) (c r cfg slot : Nat) (s : State) : State :=
  let i := tileNo c r
  let home := bankBase i + 64 * (b.base.getD 0 + b.dataUnits)
  if b.cfgHome = 0 then
    let e := eccRead .bank (home + 32768 * cfg) 32768 s
    match e.ue with
    | w :: ws => ueFault (w :: ws) 3 (some p.first) (some (c, r)) job e.st
    | [] => loadSlot i slot b.image cfg e.bytes e.st
  else
    let img := imgOf s b.image
    let pos := tilePos p c r
    let data := imgBlock img cfg pos
    let e : EccRead := match Tbl.get? s.objs b.image, Tbl.get? s.images b.image with
      | some o, some m => if m.x3 then { bytes := [], ue := [], st := s }
          else objRead o (blockOff img cfg pos) (min 32768 (m.len - blockOff img cfg pos)) s
      | _, _ => { bytes := [], ue := [], st := s }
    match e.ue with
    | w :: ws => failPart p .uncorrectable (postUe (w :: ws) false 1 none job e.st)
    | [] => loadSlot i slot b.image cfg data (writeMem home data e.st)

/-- A tile enters LOAD: in its first LOAD of the inning it fills PFSLOT with PFCFG, unless the tags match (R101). -/
def prefetch (x : Ctx) (s : State) : State :=
  let t := tileAt s x.t
  if t.prefetched then s
  else
    let s1 := onTile x.t (fun t => { t with prefetched := true }) s
    match (imgInnings (imgOf s x.run.image))[x.run.entry]? with
    | none => s1
    | some e =>
      if e.pfCfg = 0xFF || x.bind.cfgHome != 0 || ((t.slots[e.pfSlot]?).bind (·.tag)) = some (x.run.image, e.pfCfg) then s1
      else fillSlot x.part x.cmd.job x.bind x.c x.r e.pfCfg e.pfSlot s1

/-! ### STEER and END with LOOP = 1 (R94, R97) -/

/-- STEER arms its unit; it waits while an earlier STEER keeps the unit armed. -/
def execSteer (c r : Nat) (s : State) : Out :=
  commit (
    match issueCtx s c r 0x09 with
    | none => opFault s c r 0x09
    | some (x, w) => opRead x s <|
      let u := bitsOf w 58 1
      let n := dynCount x.run.dims (bitAt w 57) (bitsOf w 41 16)
      if ((tileAt s x.t).steer.getD u SteerU.reset).armed != 0 then s
      else onTile x.t (fun t => { t with pc := t.pc + 1, steer := modAt t.steer u fun q => { q with armed := n } }) s)

/-- END with LOOP = 1 closes its loop. -/
def execEndLoop (c r : Nat) (s : State) : Out :=
  commit (
    match issueCtx s c r 0x00 with
    | none => opFault s c r 0x00
    | some (x, w) => opRead x s <|
      if !isLoop w then s
      else
        let n := dynCount x.run.dims (bitAt w 48) (bitsOf w 32 16)
        let close := fun (i : Nat) (t : Tile) => if i + 1 < n then (i + 1, loopTo w) else (0, t.pc + 1)
        onTile x.t (fun t =>
          if loopLvl w = 0 then let q := close t.i0 t; { t with i0 := q.1, pc := q.2 }
          else let q := close t.i1 t; { t with i1 := q.1, pc := q.2 }) s)

/-! ### PHASE, the final END and the drain (R96, R97, R34) -/

/-- Every earlier STREAM has read its last input, and every other earlier micro-op has completed. -/
def opsEnded (t : Tile) : Bool := t.streams.all (·.words == 0) && t.inprog == [] && t.gateRun == [] && t.gateHold == []

def phaseOf (n : Nat) : Phase := match n with | 0 => .load | 1 => .compute | _ => .drain

/-- PHASE. Leaving COMPUTE it waits for the tile's micro-ops, then the tile drains. -/
def execPhase (c r : Nat) (s : State) : Out :=
  commit (
    match issueCtx s c r 0x0C with
    | none => opFault s c r 0x0C
    | some (x, w) => opRead x s <|
      let t := tileAt s x.t
      let dest := phaseOf (bitsOf w 57 2)
      if dest = t.phase then advance x s
      else if t.phase = .compute then
        if opsEnded t then onTile x.t (fun t => { t with wait := .drain dest, phase := .drain }) s else s
      else
        let s1 := advance x (onTile x.t (fun t => { t with phase := dest }) s)
        if dest = .load then prefetch x s1 else if dest = .compute then pump_ c r s1 else s1)

/-- The final END waits for the tile's micro-ops, then the tile drains. -/
def execEndFinal (c r : Nat) (s : State) : Out :=
  commit (
    match issueCtx s c r 0x00 with
    | none => opFault s c r 0x00
    | some (x, w) => opRead x s <|
      if isLoop w || !opsEnded (tileAt s x.t) then s
      else onTile x.t (fun t => { t with wait := .final, phase := .drain }) s)

/-- The units that hold an entry and have not stopped. -/
def fullUnits (t : Tile) : List Nat :=
  [0, 1].filter fun u =>
    let q := t.steer.getD u SteerU.reset
    !q.stopped && (q.ctl != [] || q.data != [])

/-- DRAIN_COMPLETE: the STREAMs have completed; the steering units are disarmed and each is checked for cause 4; the new phase is in
force, or the tile's part of the inning has ended. -/
def execDrainComplete (c r : Nat) (s : State) : Out :=
  commit (
    match ctxAt s c r with
    | none => s
    | some x =>
      let t := tileAt s x.t
      if t.streams != [] || t.outbox != [] then s
      else
        let off := onTile x.t (fun t => { t with steer := t.steer.map fun u => { u with armed := 0 } }) s
        let mismatch := fun (us : List Nat) => us.foldl (fun a u => steerMismatch x u 4 a) off
        match t.wait, fullUnits t with
        | .drain _, u :: us => mismatch (u :: us)
        | .final, u :: us => mismatch (u :: us)
        | .drain dest, [] =>
          let s1 := onTile x.t (fun t => { t with phase := dest, wait := .none, pc := t.pc + 1 }) off
          if dest = .load then prefetch x s1 else s1
        | .final, [] => onTile x.t (fun t => { t with wait := .none, ended := true }) off
        | _, _ => s)

/-! ### WAITPH (R95) -/

/-- WAITPH holds the sequencer until WAITPH_RELEASE. -/
def execWaitph (c r : Nat) (s : State) : Out :=
  commit (
    match issueCtx s c r 0x0B with
    | none => opFault s c r 0x0B
    | some (x, w) => opRead x s <|
      onTile x.t (fun t => { t with
        wait := .waitph (bitsOf w 56 3) (bitsOf w 48 8) (bitsOf w 40 8) (bitsOf w 0 40) s.clk.ticks }) s)

/-- Tiles of a partition whose GROUP is in a mask. -/
def maskTiles (s : State) (p : Part) (gmask : Nat) : List Nat :=
  (partNos p).filter fun i => bitAt gmask (blkGroup (blkOf s i))

/-- Does a tile wait at a BARRIER of this id? -/
def atBarrier (bid : Nat) (t : Tile) : Bool :=
  match t.wait with
  | .waitph cond b _ _ _ => cond == 1 && b == bid
  | _ => false

/-- The sequencer goes on behind a WAITPH. -/
def goOn (t : Tile) : Tile := { t with wait := .none, pc := t.pc + 1 }

/-- Is a GATE of the partition held in Stepped mode (R138)? -/
def anyHeldGate (s : State) (p : Part) : Bool := (partNos p).any fun i => (tileAt s i).gateHold != []

/-- WAITPH_RELEASE: the load count or cycle count is reached, the last tile has come to the barrier and all go on, or no GATE of
the partition is held any more. -/
def execWaitphRelease (c r : Nat) (s : State) : Out :=
  commit (
    match ctxAt s c r with
    | none => s
    | some x =>
      let t := tileAt s x.t
      match t.wait with
      | .waitph cond bid gmask value _ =>
        if cond = 0 then (if t.loads ≥ value then onTile x.t goOn s else s)
        else if cond = 1 then
          let l := maskTiles s x.part gmask
          if l.all fun i => atBarrier bid (tileAt s i) then onTiles l goOn s else s
        else if cond = 2 then (if t.cycles ≥ value || x.run.freeCycle then onTile x.t goOn s else s)
        else if anyHeldGate s x.part then s
        else onTile x.t goOn s
      | _ => s)

/-- Has a WAITPH on a load count or barrier waited for the limit? -/
def waitStalled (s : State) (lim i : Nat) : Bool :=
  match (tileAt s i).wait with
  | .waitph cond _ _ _ since => cond ≤ 1 && s.clk.ticks - since ≥ lim
  | _ => false

/-- WAITPH_STALL (R95, R29): the report is for the lowest row, then column, of the partition's stalled tiles. -/
def execWaitphStall (c r : Nat) (s : State) : Out :=
  commit (
    match ctxOf s c r, stallLimit s with
    | some x, some lim =>
      if x.part.held || !stallOpen s x.part.first || !waitStalled s lim x.t then s
      else
        let l := (partTiles x.part).filter fun t => waitStalled s lim (tileNo t.1 t.2)
        let (c1, r1) := l.foldl (fun a b => if b.2 < a.2 || (b.2 = a.2 && b.1 < a.1) then b else a) (c, r)
        let d := [BitVec.ofNat 8 c1, BitVec.ofNat 8 r1, 4, 0, 0xFF, 0xFF, BitVec.ofNat 8 x.part.first,
                  BitVec.ofNat 8 (x.part.first + x.part.count - 1)] ++ List.replicate 8 0
        raiseStall x.part x.cmd.job d (c1, r1) s
    | _, _ => s)

/-! ### The route report (R139) -/

/-- Held GATEs of a partition with a gate id. -/
def gateHolds (s : State) (p : Part) (gateId : Nat) : List GateHold :=
  (partNos p).flatMap fun i => (tileAt s i).gateHold.filter fun h => h.gateId == gateId

/-- Those with REPORT = 1. -/
def reportHolds (s : State) (p : Part) (gateId : Nat) : List GateHold := (gateHolds s p gateId).filter (·.report)

/-- The GATE micro-ops of a tile block. -/
def gateOps (m : Mem) : List Nat := ((List.range (blkNops m)).map (blkOp m)).filter fun w => opCode w = 0x0A

/-- Lanes of a tile's GATEs whose blocks report a gate id: a block of the preload as the image gives it, another as it stands in the
register file (R127; DEDUCED: log 27). -/
def reportLanes (s : State) (i gateId : Nat) : List Nat :=
  let m := blkOf s i
  ((gateOps m).filterMap fun w =>
    let g := gateParams (if inPreload m (gatePaddr w) then Mem.read m (0xC00 + 64 * (gatePaddr w - blkPreBase m)) 64
                         else Mem.read (tileAt s i).rf (64 * gatePaddr w) 64)
    if g.report && g.gateId == gateId then some g.lane else none).eraseDups

/-- May a tile come to a GATE whose block does not stand in the preload: it holds none now, and goes on? -/
def mayGate (s : State) (i : Nat) : Bool :=
  let t := tileAt s i
  t.gateHold.isEmpty && (match t.wait with | .final => false | .waitph cond _ _ _ _ => cond ≤ 2 | _ => true)
    && (gateOps (blkOf s i)).any fun w => !inPreload (blkOf s i) (gatePaddr w)

/-- Has every GATE of the partition with REPORT = 1 and a gate id finished its count pass (R139)? A lane that no tile holds yet is
awaited while a tile may come to a GATE whose block does not show its lane. -/
def reportDue (s : State) (p : Part) (gateId : Nat) : Bool :=
  let hs := gateHolds s p gateId
  reportHolds s p gateId != []
    && ((partNos p).all fun i => (reportLanes s i gateId).all fun k =>
      (tileAt s i).gateHold.any fun h => h.report && h.gateId == gateId && h.lane == k)
    && ((List.range ((hs.map (·.nlane)).foldl max 0)).all (fun k => hs.any (·.lane == k)) || !(partNos p).any (mayGate s))

/-- One hold of each lane that has one: the slice tiles of a lane count the same tokens (R135). -/
def laneHolds (l : List GateHold) : List GateHold :=
  match l with
  | [] => []
  | h :: _ => (List.range h.nlane).filterMap fun k => l.find? (·.lane == k)

/-- ROUTE_REPORT (R139): the report is written, the entry waits for its place on the completion queue (R208), and the job is
held; the dimension values of an earlier STEP_CONTINUE end (R140). A RUN that names no buffer, as in SERVICE, has none written. A
report buffer the host rejects fails the RUN (R371). -/
def execRouteReport (part gateId : Nat) (s : State) : Out :=
  commit (
    match runningRun s part with
    | none => s
    | some (p, cmd, run) =>
      if !running s || run.hold.isSome || !reportDue s p gateId then s
      else
        match laneHolds (reportHolds s p gateId) with
        | [] => s
        | h0 :: rest =>
          let hs := h0 :: rest
          let e := h0.experts
          let demand := (List.range e).map fun i => (hs.map fun h => h.counts.getD i 0).sum
          let toks := (hs.map (·.tokens)).sum
          let b := leBytes 4 cmd.seq ++ leBytes 2 gateId ++ leBytes 2 e ++ leBytes 4 run.nextHold ++ leBytes 4 toks
            ++ leBytes 4 demand.sum ++ List.replicate 12 0 ++ demand.flatMap (leBytes 4 ·)
          if run.report != 0 && !hostOk s run.report b.length then failRunning cmd.key .badAddr s
          else
            let res := leBytes 2 gateId ++ [0, 0] ++ leBytes 4 run.nextHold ++ leBytes 4 toks ++ List.replicate 4 0
            let h : Hold := { holdId := run.nextHold, gateId, postedAt := none }
            let r1 := { run with hold := some h, nextHold := run.nextHold + 1, dims := run.baseDims }
            let s1 := onCmd cmd.key (fun c => setRun c r1) (if run.report = 0 then s else writeHost run.report b s)
            { s1 with interims := s1.interims ++ [{ queue := cmd.queue, seq := cmd.seq, type := 1, result := res, req := 0 }] })

end Sys2Proof.Machine
end

