-- ==== Sys2Proof/Machine/Bind.lean ====
section
/-! DEFINITION. IMAGE_BIND: the checks of blocks, programs, tables and stream templates, and the binding (R14-R23, R30-R34,
R47, R48, R56, R60, R61, R67, R76, R77, R84-R99, R104, R108, R112, R127, R176, R183, R224). -/
namespace Sys2Proof.Machine

/-! ### What a check reads -/

/-- A refused bind: its status and the three indices of R224. -/
structure BindFail where
  st : Status
  sect : Nat
  entry : Nat
  op : Nat

/-- What the checks of an image against a partition read. -/
structure BindCtx where
  img : List Byte
  part : Part
  /-- BANKDATA. -/
  data : Nat

/-- A count at its largest: with DYN the MAX of its dimension. -/
def maxCount (b : List Byte) (dyn : Bool) (field : Nat) : Nat := if dyn then (dimMax b (field % 256)).getD 0 else field

/-- A count field with its DYN bit (R87): a dimension with the other bits 0, or at least `lo`. -/
def countOk (b : List Byte) (dyn : Bool) (field lo : Nat) : Bool := if dyn then field < 256 && isDim b field else lo ≤ field

/-- An address as written (R77, R87). -/
def addrOk (k : BindCtx) (bank : Bool) (a : Nat) : Bool := if bank then a < k.data else a < 1024

/-! ### Routers, reservations and endpoints (R14-R17, R20, R23) -/

/-- Is there a tile of the partition on the other side of a port? -/
def portInside (k : BindCtx) (c r o : Nat) : Bool :=
  match neighbour c r o with
  | some t => (partTiles k.part).contains t
  | none => false

/-- An output field of a slot entry. The reservation of R20's input is asked both of the input of this router that SRC names and of the
neighbour's input that the output feeds: DESIGN CHOICE (log 26), R20 does not say which of them 'the input it enters' is. -/
def outFieldOk (k : BindCtx) (m : Mem) (nb : Nat → Mem) (c r e o : Nat) : Bool :=
  let src := outSrc e o
  let cid := outCid e o
  if src = 0 then cid = 0
  else
    src ≤ 5 && (o = 4 || src != o + 1) && (o = 4 || portInside k c r o) && (src = 5 || portInside k c r (src - 1))
      && 1 ≤ blkResv m (src - 1) cid && outSource m o cid == some (src - 1)
      && (if o = 4 then blkEndpoint m cid != 0 else 1 ≤ blkResv (nb o) (facing o) cid)

def slotsOk (k : BindCtx) (m : Mem) (nb : Nat → Mem) (c r : Nat) : Bool :=
  (slotEntries m).all fun e => bitsOf e 35 29 = 0 && (List.range 5).all (outFieldOk k m nb c r e)

def resvOk (m : Mem) : Bool :=
  (List.range 5).all fun i =>
    (List.range 16).all (fun c => blkResv m i c ≤ 32) && ((List.range 16).map (blkResv m i)).sum ≤ 32

def endpointsOk (m : Mem) : Bool :=
  (List.range 16).all (fun c => blkEndpoint m c ≤ 7) && (boundCids m 2).length ≤ 1 && (boundCids m 3).length ≤ 1

/-! ### Steering tables, the header, masks (R32, R77, R84, R85, R108) -/

def steerEntryOk (k : BindCtx) (e : Nat) : Bool :=
  match bitsOf e 62 2 with
  | 0 => e = 0
  | 1 => bitsOf e 0 53 = 0
  | 2 => bitsOf e 50 12 = 0 && bitsOf e 15 9 = 0 && bitsOf e 24 8 != 0
      && bitsOf e 32 18 + (windowRows e - 1) * bitsOf e 24 8 + 1 ≤ k.data
  | _ => false

def steerOk (k : BindCtx) (m : Mem) : Bool :=
  (List.range 2).all fun u => (List.range 8).all fun i => steerEntryOk k (steerEntry m u i)

/-- Length, header ranges and reserved fields. `room`: bytes from the block's start to the end of TILE_BLOCKS. -/
def blockHeadOk (m : Mem) (room : Nat) : Bool :=
  blkLen m ≤ 512 && 64 * blkLen m ≤ room && 1 ≤ blkFrame m && blkFrame m ≤ 16 && 1 ≤ blkNops m && blkNops m ≤ 256
    && 0x400 + 8 * blkNops m ≤ 64 * blkLen m && blkPreLen m ≤ 464
    && (blkPreLen m = 0 || 0xC00 + 64 * blkPreLen m ≤ 64 * blkLen m) && blkPreBase m + blkPreLen m ≤ 1024
    && blkInitPhase m ≤ 1 && blkGroup m ≤ 7 && bitsOf (Mem.field m 24 4) 18 14 = 0 && Mem.zeroIn m 28 36
    && Mem.zeroIn m 0x110 48 && Mem.zeroIn m 0x1E0 32 && Mem.zeroIn m 0x340 192

/-- The spill area as written (R77). -/
def spillOk (k : BindCtx) (m : Mem) : Bool := blkAcct m ≤ 16 || blkSpillBase m + (blkAcct m - 16) * 256 ≤ k.data

def masksOk (k : BindCtx) (m : Mem) : Bool :=
  let e := blkMask m 53 1
  let mode := bitsOf e 4 2
  let dim := blkMask m 52 1
  bitsOf e 6 2 = 0 && bitsOf e 0 2 != 3 && bitsOf e 2 2 != 3 && Mem.zeroIn m 0x336 10
    && (if mode = 0 then dim = 0
        else if mode = 1 then blkMask m 50 2 = 0 && isDim k.img dim
        else mode = 2 && blkMask m 48 2 = 0 && blkMask m 50 2 != 0 && isDim k.img dim)

/-! ### Micro-ops (R86-R97) -/

/-- Is a LOADW one that leaves this mode and sparsity: its word's mode and SPARSE. -/
def loadMode (w : Nat) : Nat := modeBits ((fmtOf (bitsOf w 54 4)).getD .e4m3)

/-- LOADWs that can be the last before each micro-op, following loops (R61): one pass over the program. The back edge of every loop
counts, of one whose COUNT is 0 or 1 too: DESIGN CHOICE (log 25). A LOADW before an END in mid-program that no loop passes counts for
what stands after that END as well: DESIGN CHOICE (log 25), R61 does not say. -/
def lastLoadsPass (m : Mem) (ins : List (List Nat)) : List (List Nat) :=
  let ops := (List.range (blkNops m)).map (blkOp m)
  let out := fun (pc : Nat) => if opCode (ops.getD pc 0) = 1 then [ops.getD pc 0] else ins.getD pc []
  (List.range ops.length).map fun pc =>
    let back := ((ops.zipIdx).filter fun e => isLoop e.1 && loopTo e.1 = pc).flatMap fun e => out e.2
    ((if pc = 0 then [] else out (pc - 1)) ++ back).eraseDups

def lastLoads (m : Mem) : List (List Nat) :=
  (List.range (2 * blkNops m)).foldl (fun a _ => lastLoadsPass m a) (List.replicate (blkNops m) [])

/-- The fields of a profile that a STREAM names (R48, R86). -/
def profileOk (p : Nat) : Bool :=
  let a := (fmtOf (profAfmt p)).getD .fp32
  operandFmt (profAfmt p) && outputFmt (profOfmt p) && profAstride p != 0 && bitsOf p 13 3 = 0 && bitsOf p 22 2 = 0
    && bitsOf p 35 5 = 0 && bitsOf p 40 8 = 0 && bitsOf p 82 14 = 0 && bitsOf p 96 32 = 0
    && (if profConv p then
          profChan p * profKlen p ≤ (if modeAdmits 16 a then 32 else 64) && (profKlen p - 1) * profDil p + 1 ≤ 512 / profChan p
            && !profSkipz p && !isMx a
        else !profCont p && bitsOf p 20 2 = 0 && bitsOf p 24 11 = 0)

/-- Accumulator or spill rows as R47 and R112 bound them. -/
def accRowsOk (m : Mem) (vacc : Bool) (row n : Nat) : Bool :=
  row + n ≤ 1024 && row + n ≤ 64 * (if vacc then blkAcct m - 16 else min (blkAcct m) 16)

def loadwOk (k : BindCtx) (w : Nat) : Bool :=
  weightFmt (bitsOf w 54 4) && (bitsOf w 54 4 == 0xD) == bitAt w 52 && bitsOf w 20 32 = 0 && addrOk k (!bitAt w 58) (opAddr w)

/-- A STREAM's fields. SVEC of the profile it names is held against the data area for an MX A operand that does not come from the fabric,
the only one that reads scales: DESIGN CHOICE (log 25), R77 checks profiles without saying which. -/
def streamOk (k : BindCtx) (m : Mem) (w : Nat) (loads : List Nat) : Bool :=
  let p := blkProfile m (bitsOf w 55 4)
  let src := bitsOf w 53 2
  let dst := bitsOf w 51 2
  let a := (fmtOf (profAfmt p)).getD .fp32
  src != 3 && bitsOf w 20 3 = 0 && countOk k.img (bitAt w 39) (bitsOf w 23 16) 1 && profileOk p
    && (if src = 2 then opAddr w = 0 && boundCids m 2 != [] && !isMx a else addrOk k (src = 0) (opAddr w))
    && (!(isMx a && src != 2) || addrOk k (src = 0) (profSvec p))
    && (dst < 2 || !isMx ((fmtOf (profOfmt p)).getD .fp32))
    && (dst = 2 || accRowsOk m (bitAt w 50) (bitsOf w 40 10) (maxCount k.img (bitAt w 39) (bitsOf w 23 16)))
    && loads.all fun l => modeAdmits (loadMode l) a && !(profConv p && bitAt l 53)

def accrdOk (k : BindCtx) (m : Mem) (w : Nat) : Bool :=
  let dst := bitsOf w 57 2
  let f := bitsOf w 53 4
  outputFmt f && (dst < 2 || !isMx ((fmtOf f).getD .fp32)) && bitsOf w 20 5 = 0 && countOk k.img (bitAt w 40) (bitsOf w 29 11) 1
    && accRowsOk m (bitAt w 51) (bitsOf w 41 10) (maxCount k.img (bitAt w 40) (bitsOf w 29 11))
    && (dst ≥ 2 || addrOk k (dst = 1) (opAddr w))

def accwrOk (k : BindCtx) (m : Mem) (w : Nat) : Bool :=
  let src := bitsOf w 57 2
  let f := bitsOf w 53 4
  (f ≤ 4 || f = 0xB || f = 0xC) && bitsOf w 52 1 = 0 && bitsOf w 20 9 = 0 && countOk k.img (bitAt w 40) (bitsOf w 29 11) 1
    && accRowsOk m (bitAt w 51) (bitsOf w 41 10) (maxCount k.img (bitAt w 40) (bitsOf w 29 11))
    && (src != 2 || boundCids m 3 != []) && (src ≥ 2 || addrOk k (src = 1) (opAddr w))

/-- VFN and FMT (R91); exp2, log2 and the sorts take FP32 lanes (log 7). BLOAD and BSTORE, for which R91 states no format, take any
code of FMT, the reserved 0xE and 0xF too: DESIGN CHOICE (log 25). -/
def vopOk (k : BindCtx) (w : Nat) : Bool :=
  let f := bitsOf w 53 6
  let fmt := bitsOf w 49 4
  if f ≤ 0x0B then fmt ≤ 1
  else if f ≤ 0x0D then fmt = 0
  else if 0x10 ≤ f && f ≤ 0x17 then fmt = 0
  else if 0x20 ≤ f && f ≤ 0x22 then vectorFmt fmt
  else if f = 0x28 || f = 0x29 then fmt = 0
  else if f = 0x30 || f = 0x31 then bitsOf w 0 13 = 0 && addrOk k true (bitsOf w 13 18)
  else false

def sendOk (k : BindCtx) (w : Nat) : Bool :=
  let bank := bitAt w 54
  let own := bitAt w 53
  bitsOf w 36 16 != 0 && bitsOf w 28 6 = 0 && !(bank && own) && (!(bank || own) || addrOk k true (opAddr w))

def recvOk (m : Mem) (w : Nat) : Bool :=
  bitsOf w 36 16 != 0 && bitsOf w 52 3 = 0 && bitsOf w 28 6 = 0 && bitsOf w 0 18 = 0 && blkEndpoint m (bitsOf w 55 4) = 1

/-- Executions of a micro-op in its enclosing level-0 loop, at the largest. -/
def maxLoops (k : BindCtx) (m : Mem) (pc : Nat) : Nat :=
  match loopEnd m 0 pc with
  | some e => max 1 (maxCount k.img (bitAt (blkOp m e) 48) (bitsOf (blkOp m e) 32 16))
  | none => 1

/-- GATE: its fields, and its parameter block where the preload holds it (R94, R127). -/
def gateOk (k : BindCtx) (m : Mem) (pc w : Nat) : Bool :=
  1 ≤ gateKmax w && gateKmax w ≤ 16 && gateKmin w ≤ gateKmax w && bitsOf w 0 10 = 0
    && countOk k.img (bitAt w 26) (bitsOf w 10 16) 1
    && (!inPreload m (gatePaddr w)
        || (let g := gateParams (Mem.read m (0xC00 + 64 * (gatePaddr w - blkPreBase m)) 64)
            let most := (dimMax k.img g.tokDim).getD 0
            let n := if g.chunked then min g.chunk most else maxCount k.img (bitAt w 26) (bitsOf w 10 16)
            let t := if g.chunked then most else maxLoops k m pc * n
            gateBlockOk m (isDim k.img) k.data w g n t))

def waitphOk (m : Mem) (w : Nat) : Bool :=
  let cond := bitsOf w 56 3
  cond ≤ 3 && (cond != 1 || bitAt (bitsOf w 40 8) (blkGroup m)) && (cond = 0 || cond = 2 || bitsOf w 0 40 = 0)

def endOk (k : BindCtx) (pc w : Nat) : Bool :=
  bitsOf w 0 32 = 0 && (!isLoop w || (loopTo w < pc && countOk k.img (bitAt w 48) (bitsOf w 32 16) 0))

def opOk (k : BindCtx) (m : Mem) (loads : List Nat) (pc : Nat) : Bool :=
  let w := blkOp m pc
  match opCode w with
  | 0x00 => endOk k pc w
  | 0x01 => loadwOk k w
  | 0x02 => streamOk k m w loads
  | 0x03 => accrdOk k m w
  | 0x04 => accwrOk k m w
  | 0x05 => vopOk k w
  | 0x06 => bitsOf w 55 4 ≤ 1 && bitsOf w 0 7 = 0
  | 0x07 => sendOk k w
  | 0x08 => recvOk m w
  | 0x09 => bitsOf w 0 41 = 0 && countOk k.img (bitAt w 57) (bitsOf w 41 16) 1
  | 0x0A => gateOk k m pc w
  | 0x0B => waitphOk m w
  | 0x0C => bitsOf w 57 2 ≤ 2 && bitsOf w 0 57 = 0
  | _ => false

/-! ### Whole programs (R87, R97) -/

/-- The phase before each micro-op, following the program in order. -/
def phaseWalk (m : Mem) : List Phase :=
  let start := if blkInitPhase m = 1 then Phase.compute else Phase.load
  ((List.range (blkNops m)).foldl (fun (a : List Phase × Phase) pc =>
    let w := blkOp m pc
    (a.1 ++ [a.2], if opCode w = 0x0C then phaseOf (bitsOf w 57 2) else a.2)) ([], start)).1

/-- A micro-op issues in COMPUTE unless it is a WAITPH, PHASE or END; a loop's body ends in the phase it starts in. -/
def phaseOk (m : Mem) (pc : Nat) : Bool :=
  let ph := phaseWalk m
  let w := blkOp m pc
  let here := ph.getD pc .load
  (opCode w = 0 || opCode w = 0x0B || opCode w = 0x0C || here = .compute)
    && (!isLoop w || ph.getD (loopTo w) .load == here)

/-- A level-0 loop lies inside any level-1 loop that it meets. -/
def nestOk (m : Mem) (pc : Nat) : Bool :=
  let w := blkOp m pc
  if isLoop w && loopLvl w = 0 then
    (List.range (blkNops m)).all fun e =>
      let v := blkOp m e
      !(isLoop v && loopLvl v = 1) || pc < loopTo v || e < loopTo w || (loopTo v ≤ loopTo w && pc < e)
  else true

def lastIsEnd (m : Mem) : Bool := let w := blkOp m (blkNops m - 1); opCode w = 0 && !isLoop w

/-- Does a micro-op set VACC (R104, order 4)? -/
def usesVacc (m : Mem) (pc : Nat) : Bool :=
  let w := blkOp m pc
  (opCode w = 2 && bitAt w 50) || ((opCode w = 3 || opCode w = 4) && bitAt w 51)

/-! ### Blocks, innings and templates -/

/-- Index of a section in the section table. -/
def sectIdx (b : List Byte) (type : Nat) : Nat := ((imgSects b).findIdx? (·.type == type)).getD 0xFFFF

def noEntry : Nat := 0xFFFFFFFF
def noOp : Nat := 0xFFFF

def badTile (k : BindCtx) (entry op : Nat) : Option BindFail := some { st := .badParam, sect := sectIdx k.img 1, entry, op }

/-- Tile blocks of a configuration by position in tile order. -/
def cfgBlocks (k : BindCtx) (cfg : Nat) : List Mem := (List.range (48 * imgNcg k.img)).map fun p => memOfBytes (imgBlock k.img cfg p)

/-- Order 3 for one block. -/
def blockFail (k : BindCtx) (cfg pos : Nat) (blocks : List Mem) : Option BindFail :=
  let m := blocks.getD pos []
  let t := (partTiles k.part).getD pos (0, 0)
  let e := cfg * 48 * imgNcg k.img + pos
  let room := (imgSect k.img 1).off + (imgSect k.img 1).len - blockOff k.img cfg pos
  let nb := fun (o : Nat) => match neighbour t.1 t.2 o with
    | some u => blocks.getD ((partTiles k.part).findIdx (· == u)) []
    | none => []
  if !(blockHeadOk m room && slotsOk k m nb t.1 t.2 && resvOk m && endpointsOk m && steerOk k m && masksOk k m && spillOk k m) then
    badTile k e noOp
  else
    let loads := lastLoads m
    match (List.range (blkNops m)).find? fun pc => !(opOk k m (loads.getD pc []) pc && phaseOk m pc && nestOk m pc) with
    | some pc => badTile k e pc
    | none => if lastIsEnd m then none else badTile k e (blkNops m - 1)

/-- All tiles of a configuration use one frame length (R15). -/
def frameFail (k : BindCtx) (cfg : Nat) (blocks : List Mem) : Option BindFail :=
  let f := blkFrame (blocks.headD [])
  match blocks.findIdx? fun m => blkFrame m != f with
  | some pos => badTile k (cfg * 48 * imgNcg k.img + pos) noOp
  | none => none

/-- Order 4: VACC only with ACCT > 16, ACCT at most 32. -/
def vaccFail (k : BindCtx) (cfg pos : Nat) (m : Mem) : Option BindFail :=
  let e := cfg * 48 * imgNcg k.img + pos
  if blkAcct m > 32 then badTile k e noOp
  else if blkAcct m > 16 then none
  else
    match (List.range (blkNops m)).find? (usesVacc m) with
    | some pc => badTile k e pc
    | none => none

/-- An innings entry (R98). -/
def inningOk (k : BindCtx) (es : List Inning) (i : Nat) (e : Inning) : Bool :=
  let loop := bitAt e.flags 0
  e.cfg < imgNcfg k.img && e.slot ≤ 3 && e.flags < 8
    && (if e.pfCfg = 0xFF then e.pfSlot = 0 else e.pfCfg < imgNcfg k.img && e.pfSlot ≤ 3 && e.pfSlot != e.slot)
    && e.sFirst + e.sCount ≤ imgStreams k.img
    && (if loop then
          e.loopTo ≤ i && (if bitAt e.flags 1 then e.loopCnt < 256 && isDim k.img e.loopCnt else e.loopCnt != 0)
            && ((es.zipIdx).all fun x => x.2 = i || !bitAt x.1.flags 0 || x.2 < e.loopTo || i < x.1.loopTo)
        else !bitAt e.flags 1 && e.loopTo = 0 && e.loopCnt = 0)

/-- Fields of a descriptor (R182). -/
def dDir (d : List Byte) : Nat := bitsOf (fieldAt d 0 2) 0 2
def dScatter (d : List Byte) : Bool := bitAt (fieldAt d 0 2) 2
def dClass (d : List Byte) : Nat := bitsOf (fieldAt d 0 2) 3 2
def dForm (d : List Byte) : Bool := bitAt (fieldAt d 0 2) 5
def dChain (d : List Byte) : Bool := bitAt (fieldAt d 0 2) 6
def dGated (d : List Byte) : Bool := bitAt (fieldAt d 0 2) 7
def dEarly (d : List Byte) : Bool := bitAt (fieldAt d 0 2) 8
def dExpert (d : List Byte) : Nat := bitsOf (fieldAt d 2 2) 0 12
def dGate (d : List Byte) : Nat := byteAt d 4
def dObj (d : List Byte) : Nat := fieldAt d 8 4
def dPerTile (d : List Byte) : Nat := fieldAt d 12 4
def dOff (d : List Byte) : Nat := fieldAt d 16 8
def dBank (d : List Byte) : Nat := bitsOf (fieldAt d 24 4) 0 18
def dGroups (d : List Byte) : Nat := fieldAt d 28 4
def dTiles (d : List Byte) : Nat := fieldAt d 32 6
def dTime (d : List Byte) : Nat := fieldAt d 40 4
def dAlt (d : List Byte) : Nat := fieldAt d 44 4

/-- Ranges and reserved fields of a supplied descriptor, and what R183 says of its own fields. -/
def descOk (d : List Byte) : Bool :=
  dDir d ≤ 1 && fieldAt d 0 2 < 512 && dClass d != 3 && fieldAt d 2 2 < 4096 && allZero (sliceB d 5 3)
    && (dGated d || (fieldAt d 2 2 = 0 && dGate d = 0 && !dEarly d))
    && 64 ≤ dPerTile d && dPerTile d ≤ 16777216 && dPerTile d % 64 = 0 && dOff d % (if dForm d then 16 else 64) = 0
    && bitsOf (fieldAt d 24 4) 18 14 = 0 && allZero (sliceB d 38 2) && allZero (sliceB d 48 16)
    && !(dDir d = 1 && (dForm d || !dScatter d))

/-- Same targets, for ALTDESC (R183). -/
def sameTargets (a b : List Byte) : Bool :=
  dScatter a == dScatter b && dPerTile a = dPerTile b && dGroups a = dGroups b && dTiles a = dTiles b && dBank a = dBank b

/-- A stream template (R176, R183). -/
def templateOk (k : BindCtx) (i : Nat) : Bool :=
  let d := imgStream k.img i
  match symOf k.img (dObj d) with
  | none => false
  | some y =>
    descOk d && y.kind = 1 && 1 ≤ y.objType && y.objType ≤ 6 && dBank d + dPerTile d / 64 ≤ k.data
      && (!dGated d || y.objType = 2)
      && (dClass d != 1 || (y.fmt = 0xD && (y.objType = 1 || y.objType = 2)))
      && (dClass d != 2 || (y.objType = 2 && dAlt d < imgStreams k.img && sameTargets d (imgStream k.img (dAlt d))))

/-- Order 2: the placement (R76). -/
def placementOk (b : List Byte) (p : Part) : Bool :=
  let cgf := imgCgf b
  let n := imgNcg b
  n = p.count
    && (if cgf + n ≤ 16 then p.first + n ≤ 16 && p.first % 4 = cgf % 4
        else if cgf ≥ 16 then p.first ≥ 16 && p.first % 4 = cgf % 4
        else p.first = cgf)

/-- A failure of the whole bind, at no entry of the image. -/
def bindHead (st : Status) : BindFail := { st, sect := 0xFFFF, entry := noEntry, op := noOp }

/-- Orders 2 to 5 of R104. CF without a GATE in the image and an ACCNEED that is not the largest ACCT fail nothing, and the spill mode and
ACC_SHORT go by ACCNEED as it stands: DESIGN CHOICE (log 29), R78 gives no outcome. -/
def imageFail (k : BindCtx) : Option BindFail :=
  let head := fun (st : Status) => some (bindHead st)
  let cfgs := List.range (imgNcfg k.img)
  let tiles := List.range (48 * imgNcg k.img)
  let es := imgInnings k.img
  if !placementOk k.img k.part then head .badParam
  else
    (cfgs.findSome? fun c => let bl := cfgBlocks k c; tiles.findSome? fun p => blockFail k c p bl).or
    ((cfgs.findSome? fun c => frameFail k c (cfgBlocks k c)).or
    (((es.zipIdx).findSome? fun e => if inningOk k es e.2 e.1 then none
        else some { st := .badParam, sect := sectIdx k.img 3, entry := e.2, op := noOp }).or
    (((List.range (imgStreams k.img)).findSome? fun i => if templateOk k i then none
        else some { st := .badParam, sect := sectIdx k.img 5, entry := i, op := noOp }).or
    ((cfgs.findSome? fun c => let bl := cfgBlocks k c; tiles.findSome? fun p => vaccFail k c p (bl.getD p [])).or
    (if imgAccNeed k.img > 16 && imgFlag k.img 0 then head .accShort else none)))))

/-! ### The binding -/

/-- Region size in 64 KiB units: data area and config area (R77, R242). -/
def regionUnits (b : List Byte) (cfgHome : Nat) : Nat :=
  ceilDiv (64 * imgBankData b + 32768 * (if cfgHome = 0 then imgNcfg b else 1)) 65536

/-- Units in use without those of the image's present region. -/
def usedWithout (s : State) (p : Part) (job image : Nat) : List Nat :=
  usedUnits { s with jobs := Tbl.upd s.jobs job fun b => { b with bindings := b.bindings.filter (·.image != image) } } p

/-- The region an image would get (order 6). -/
def bindRegion (s : State) (p : Part) (job image cfgHome : Nat) : Option Nat :=
  fitUnits (usedWithout s p job image) (regionUnits (imgOf s image) cfgHome)

/-- Orders 2 to 5 of R104, for a job with a partition. -/
def bindImageCheck (s : State) (job image : Nat) : Option BindFail :=
  ((partOfJob s job).bind (Tbl.get? s.parts)).bind fun p =>
    let img := imgOf s image
    imageFail { img, part := p, data := imgBankData img }

/-- Orders 1 and 6 of R104. -/
def bindSpaceCheck (s : State) (job image cfgHome : Nat) : Option BindFail :=
  match (partOfJob s job).bind (Tbl.get? s.parts) with
  | none => some (bindHead .noPartition)
  | some p => if (bindRegion s p job image cfgHome).isNone then some (bindHead .noPartition) else none

/-- The whole check of R104 for a job. -/
def bindCheck (s : State) (job image cfgHome : Nat) : Option BindFail :=
  (bindImageCheck s job image).or (bindSpaceCheck s job image cfgHome)

def bindFailResult (f : BindFail) : List Byte := leBytes 2 f.sect ++ leBytes 4 f.entry ++ leBytes 2 f.op

/-- A refusal that names what failed in the image. -/
def bindRef (f : BindFail) : Ref := { st := f.st, loc := noLoc, result := bindFailResult f }

/-- The image's own checks stand in step 5 of R212, where there is an image of the job and a partition; the rest in step 7. -/
def imageBindSpec : OpSpec :=
  { op := 0x19, aq := false, sq := true, flags := 0, minUnits := fun _ => 0, queued := true,
    used := fun _ => [(32, 4), (36, 1), (38, 2)]
    params := fun s _ p =>
      firstRef [refuseIf (byteAt p 36 > 1) .badParam 36,
                refuseIf (fieldAt p 38 2 > 1023 && fieldAt p 38 2 != 0xFFFF) .badParam 38,
                if (nameImage s (pktJob p) (fieldAt p 32 4)).isSome then none
                else (bindImageCheck s (pktJob p) (fieldAt p 32 4)).map bindRef]
    state := fun _ _ _ => none
    resources := fun s _ p =>
      firstRef [nameImage s (pktJob p) (fieldAt p 32 4),
                (bindSpaceCheck s (pktJob p) (fieldAt p 32 4) (byteAt p 36)).map bindRef]
    effect := fun _ _ s => s }

/-- IMAGE_BIND (R104, R224): checked at acceptance, and again when it starts. -/
def execImageBind (q : Nat) (p : Pkt) (pick : Nat) (s : State) : Out := commit (hostCommand imageBindSpec q p pick s)

/-- The config areas written, when the banks are their home (R77). -/
def writeConfigs (p : Part) (img : List Byte) (base cfgHome : Nat) (s : State) : State :=
  if cfgHome != 0 then s
  else
    (List.range (imgNcfg img)).foldl (fun a cfg =>
      ((partNos p).zipIdx).foldl (fun a t =>
        writeMem (bankBase t.1 + 64 * (base + imgBankData img) + 32768 * cfg) (imgBlock img cfg t.2) a) a) s

/-- A data area whose bytes are undefined, as a rebinding leaves it: free bytes (R104, log 6). -/
def scrambleData (p : Part) (base data : Nat) (s : State) : State :=
  (partNos p).foldl (fun a t => writeMem (bankBase t + 64 * base) (freeBytes a.fresh (64 * data)) { a with fresh := a.fresh + 1 }) s

/-- A binding made: the old region given up, the config area written, the binding recorded. -/
def bindImage (p : Part) (c : Cmd) (s : State) : State :=
  let image := fieldAt c.pkt 32 4
  let cfgHome := byteAt c.pkt 36
  let model := fieldAt c.pkt 38 2
  let img := imgOf s image
  match bindRegion s p c.job image cfgHome with
  | none => decide_ c.key .noPartition bindNone s
  | some u =>
    let units := regionUnits img cfgHome
    let old := bindingOf s c.job image
    let s1 := match old with
      | some b => (match b.base with | some x => clearUnits p (x / 1024) b.units s | none => s)
      | none => s
    let b : Binding := { image, model, part := imgCgf img, base := some (1024 * u), dataUnits := imgBankData img, units, cfgHome,
                         spill := imgAccNeed img > 16 }
    let s2 := onJob c.job (fun j => { j with bindings := j.bindings.filter (·.image != image) ++ [b] }) s1
    let s3 := if old.isSome then scrambleData p (1024 * u) (imgBankData img) s2 else s2
    let s4 := writeConfigs p img (1024 * u) cfgHome s3
    let s5 := if isDim img 248 && model != 0xFFFF then
        { s4 with srv := { s4.srv with images := Tbl.set s4.srv.images (1024 * c.job + model) image } } else s4
    decide_ c.key .ok (leBytes 4 (1024 * u) ++ leBytes 4 (1024 * units) ++ [BitVec.ofNat 8 (ofBool b.spill)]) s5

/-- What an IMAGE_BIND does when it starts on its partition. -/
def startBind (p : Part) (c : Cmd) (s : State) : State :=
  if (Tbl.get? s.images (fieldAt c.pkt 32 4)).isNone then decide_ c.key .objectGone bindNone s
  else
    match bindCheck s c.job (fieldAt c.pkt 32 4) (byteAt c.pkt 36) with
    | some f => onCmd c.key (fun c => { c with errLoc := noLoc }) (decide_ c.key f.st (bindFailResult f) s)
    | none => bindImage p c (bindSpares p s)

end Sys2Proof.Machine
end

