-- ==== Sys2Proof/Machine/Streams.lean ====
section
/-! DEFINITION. Stream descriptors in work: their targets, sources and blocks, their issue, remote requests and deadlines
(R117, R142-R145, R155-R158, R175-R178, R182-R188, R198, R285). -/
namespace Sys2Proof.Machine

/-! ### Targets and blocks (R117, R182, R184) -/

/-- Tiles that the masks of a descriptor select, in the tile order of R80. Group masks here name column groups. -/
def maskTargets (groups tiles : Nat) : List Nat :=
  (List.range 32).flatMap fun g =>
    if bitAt groups g then ((groupTiles g).zipIdx).filterMap fun x => if bitAt tiles x.2 then some (tileNo x.1.1 x.1.2) else none
    else []

def descTargets (d : Desc) : List Nat := if d.host.isSome then [] else maskTargets (dGroups d.bytes) (dTiles d.bytes)

/-- Plain bytes a supplied descriptor moves in all. -/
def descLen (b : List Byte) (groups : Nat) : Nat :=
  dPerTile b * (if dScatter b then (maskTargets groups (dTiles b)).length else 1)

/-- Start and length of block `i` in the plain bytes of a descriptor. -/
def blockPlain (d : Desc) (i : Nat) : Nat × Nat := (4096 * i, min 4096 (d.len - 4096 * i))

/-- The pieces of a plain span by target: (tile, offset in the target's run, length). -/
def cutRuns (ts : List Nat) (per : Nat) : Nat → Nat → Nat → List (Nat × Nat × Nat)
  | 0, _, _ => []
  | f + 1, x, n =>
    if n = 0 || per = 0 then []
    else
      let m := min n (per - x % per)
      (ts.getD (x / per) 0, x % per, m) :: cutRuns ts per f (x + m) (n - m)

/-- Where the plain bytes of block `i` go, or come from, by tile. -/
def blockRuns (d : Desc) (i : Nat) : List (Nat × Nat × Nat) :=
  let (x, n) := blockPlain d i
  if d.host.isSome then []
  else if dScatter d.bytes then cutRuns (descTargets d) (dPerTile d.bytes) (n + 1) x n
  else (descTargets d).map fun t => (t, x, n)

/-- Chip address of a byte of a target's run. -/
def runAddr (d : Desc) (t off : Nat) : Nat := bankBase t + 64 * (d.base + dBank d.bytes) + off

def segCount (d : Desc) : Nat := ceilDiv (dPerTile d.bytes) 65536

def segLen (d : Desc) (i : Nat) : Nat := min 65536 (dPerTile d.bytes - 65536 * i)

/-- A run's bytes counted by segment: (tile, segment, bytes). -/
def runCounts (r : Nat × Nat × Nat) : List (Nat × Nat × Nat) :=
  (span (r.2.1 / 65536) ((r.2.1 + r.2.2 - 1) / 65536)).map fun g =>
    (r.1, g, min (65536 * (g + 1)) (r.2.1 + r.2.2) - max (65536 * g) r.2.1)

/-! ### Sources (R142-R144, R155-R158, R285) -/

/-- BOARD_POS names this part by bit 46 of a board address; the other value names the board peer (R158). -/
def boardLocal (s : State) (a : Nat) : Bool := a < 2 ^ 47 && bitAt a 46 == s.pins.boardPos

/-- The part that owns what a descriptor names, when it is another one (R285). -/
def remoteOf (s : State) (d : Desc) : Option Nat :=
  if bitAt d.handle 31 then some (bitsOf d.handle 25 6)
  else if d.handle = 0 && !boardLocal s d.objOff then some (boardPeer s)
  else none

/-- An expert that rests whole in DDR5 (R142). One with pages in both tiers is streamed as any object (R163, R188; DEDUCED: log 27). -/
def restsCold (o : Obj) : Bool := o.type == 2 && o.pages != [] && o.pages.all inDdr

/-- An expert that rests in DDR5 and may be fetched (R142). -/
def isCold (o : Obj) : Bool := o.cold && restsCold o

/-- The landed entry of an expert (R144). -/
def coldEntryOf (s : State) (h : Nat) : Option ColdEntry := s.cold.find? fun e => e.expert == h && e.landed && !e.void

/-- Chip address of byte `x` of a cold pool entry. -/
def entryAddr (s : State) (e : ColdEntry) (x : Nat) : Nat :=
  match Tbl.get? s.objs e.pool with
  | some o => o.pages.getD (e.pages.getD (x / pageSize) 0) 0 + x % pageSize
  | none => 0

/-- A span of chip addresses cut where its pages meet. -/
def cutPages : Nat → Nat → Nat → List (Nat × Nat)
  | 0, _, _ => []
  | f + 1, a, n => if n = 0 then [] else
      let m := min n (pageSize - a % pageSize)
      (a, m) :: cutPages f (a + m) (n - m)

/-- Spans (chip address, length) of stored bytes of a local source. A raw address follows its page where it moved (R163). -/
def srcSpans (s : State) (d : Desc) (x n : Nat) : List (Nat × Nat) :=
  if d.handle = 0 then
    (cutPages (n / pageSize + 2) ((d.objOff + x) % 2 ^ 46) n).map fun p =>
      (Tbl.getD d.redirect (p.1 / pageSize) (p.1 / pageSize) * pageSize + p.1 % pageSize, p.2)
  else
    match Tbl.get? s.objs d.handle with
    | none => []
    | some o =>
      match (if isCold o && d.host.isNone then coldEntryOf s d.handle else none) with
      | some e => (cutRuns (List.range (x / pageSize + n / pageSize + 2)) pageSize (n / pageSize + 2) (d.objOff + x) n).map
          fun r => (entryAddr s e (r.1 * pageSize + r.2.1), r.2.2)
      | none => objSpans s o (d.objOff + x) n

def readSpansRaw (s : State) (l : List (Nat × Nat)) : List Byte := l.flatMap fun p => readMem s p.1 p.2

/-- A checked read of spans. -/
def readSpansChecked (l : List (Nat × Nat)) (s : State) : EccRead :=
  l.foldl (fun r p =>
    let e := eccReadAt p.1 p.2 r.st
    { bytes := r.bytes ++ e.bytes, ue := r.ue ++ e.ue, st := e.st }) { bytes := [], ue := [], st := s }

/-- Bytes written into spans. -/
def writeSpansTo (l : List (Nat × Nat)) (b : List Byte) (s : State) : State :=
  (l.foldl (fun (r : List Byte × State) p => (r.1.drop p.2, writeMem p.1 (r.1.take p.2) r.2)) (b, s)).2

/-- Stored span of block `i` of a local source: offset from the descriptor's start, and length (R192). -/
def blockStored (s : State) (d : Desc) (i : Nat) : Nat × Nat :=
  if dForm d.bytes then
    let rd := fun off n => readSpansRaw s (srcSpans s d off n)
    let a := walkBlocks rd i 0
    (a, storedLen (rd a 16))
  else blockPlain d i

/-- Pages of an object that a stored span of a descriptor touches. -/
def pagesTouched (d : Desc) (x n : Nat) : List Nat :=
  if n = 0 then [] else span ((d.objOff + x) / pageSize) ((d.objOff + x + n - 1) / pageSize)

/-- The object a descriptor reads or writes, and whether its pages themselves are streamed: not a bank object, a raw address or
a cold pool entry. -/
def pagedObj (s : State) (d : Desc) : Option Obj :=
  match Tbl.get? s.objs d.handle with
  | some o => if o.bankUnit.isSome || isCold o then none else some o
  | none => none

/-- Plain data of an XFER that enters a COMPRESSED object, encoded block after block (R197). -/
def encodes (s : State) (d : Desc) : Bool :=
  d.host.isSome && dDir d.bytes == 0 && (Tbl.get? s.objs d.handle).any (·.compressed)

/-- The stack whose engines carry block `i`; none when any engine may (R179, R188, R197). -/
def blockStack (s : State) (d : Desc) (i : Nat) : Option Nat :=
  if (remoteOf s d).isSome || encodes s d then none
  else
    let sp := blockStored s d i
    match (srcSpans s d sp.1 1).head? with
    | none => none
    | some (a, _) =>
      if inHbm a then some ((a - hbmBase) / stackSize)
      else if d.host.isNone && inDdr a then (pagedObj s d).map fun o => stackFor o.stackMask ((d.objOff + sp.1) / pageSize)
      else none

/-! ### Depth and issue (R165, R183, R185, R285) -/

/-- Is a chain that starts at this descriptor still open: some member not completed, or its continuation not yet supplied?
`fuel` members at most. -/
def chainOpen (s : State) : Nat → Nat → Bool
  | 0, _ => false
  | f + 1, n =>
    match Tbl.get? s.descs n with
    | none => false
    | some d =>
      !d.done || (dChain d.bytes && (match s.descs.find? fun e => e.2.after == some n with
        | some e => chainOpen s f e.1
        | none => true))

/-- Descriptors of a queue that have issued and not completed, a chain as one; host transfers of XFER do not count. -/
def depthUsed (s : State) (q : Nat) : Nat :=
  (s.descs.filter fun e => e.2.queue == q && e.2.issued && e.2.after.isNone && e.2.host.isNone
    && chainOpen s s.descs.length e.1).length

/-- Rows of an expert that the lanes without a reporting GATE have taken. -/
def unreported (r : RunInfo) (g e : Nat) (t : Tbl Nat) (lanes : List Nat) : Nat :=
  let took := ((Tbl.get? r.gates g).map (·.lanes)).getD []
  ((lanes.filter fun l => Tbl.getD t (4096 + l) 0 = 2).map fun l => ((Tbl.getD took l []).getD e (0, none)).1).sum

/-- Demand of a gate id's expert in the step, once every lane has gated (R143). -/
def gateDemand (r : RunInfo) (g e : Nat) : Option Nat :=
  let t := Tbl.getD r.demand g []
  let ls := List.range (Tbl.getD t 8192 0)
  if ls != [] && ls.all fun l => Tbl.has t (4096 + l) then some (Tbl.getD t e 0 + unreported r g e t ls) else none

/-- The RUN a descriptor belongs to. -/
def runOfDesc (s : State) (d : Desc) : Option RunInfo := (cmdAt s (d.queue, d.seq)).bind curRun

/-- Must a descriptor still wait for the gate stage? -/
def gateWaits (s : State) (d : Desc) : Bool :=
  d.gated && (match runOfDesc s d with
    | some r => (gateDemand r (dGate d.bytes) (dExpert d.bytes)).isNone
    | none => false)

/-- Is the expert of a GATED descriptor without demand on this part, as far as the gate stage has shown? -/
def noDemand (s : State) (d : Desc) : Bool :=
  dGated d.bytes && (match runOfDesc s d with
    | some r => gateDemand r (dGate d.bytes) (dExpert d.bytes) == some 0
    | none => false)

/-- Has the descriptor before it in its chain completed? -/
def chainWaits (s : State) (d : Desc) : Bool :=
  match d.after with
  | none => false
  | some n => ((Tbl.get? s.descs n).map fun p => !p.done).getD false

/-- From now on a descriptor that neither its chain nor its gate stage holds is ready: its deadline's time runs (R175, R185). -/
def stampReady (s : State) : State :=
  { s with descs := s.descs.map fun e =>
      if e.2.readyAt.isNone && !chainWaits s e.2 && !gateWaits s e.2 then (e.1, { e.2 with readyAt := some s.clk.rackTime }) else e }

/-- Account of a job. -/
def accountOf (s : State) (j : Nat) : Nat := ((Tbl.get? s.jobs j).map (·.account)).getD 0

/-- NODEGRADE holds for a descriptor: its image has it, or an XFER carries it (R177). -/
def strictOnly (s : State) (d : Desc) : Bool :=
  match runOfDesc s d with
  | some r => d.index = 0xFFFFFFFF || imgFlag (imgOf s r.image) 1
  | none => true

/-- The class in force (R177). -/
def classOf (s : State) (d : Desc) : Nat := if strictOnly s d then 0 else dClass d.bytes

/-- Does a descriptor name only groups of its partition (R117)? -/
def groupsInPart (s : State) (d : Desc) : Bool :=
  let groups := (List.range 32).filter (bitAt (dGroups d.bytes))
  !d.beyond && match d.part.bind (Tbl.get? s.parts) with
    | none => groups == []
    | some p => groups.all fun g => p.first ≤ g && g < p.first + p.count

/-- Is the part that owns a descriptor's object not to be reached: disabled, down, or by raw address with the board port down (R283,
R285, R286, R299)? -/
def remoteDown (s : State) (d : Desc) (q : Nat) : Bool :=
  !enabled s q || !(peerAt s q).up || !reachable s q || (d.handle == 0 && !linked s 8)

/-- What is wrong with a descriptor when it issues: a status. A group outside the partition, a stream from an object named only now,
a span outside it, FORM (R117, R165, R166, R183, R285). -/
def issueFail (s : State) (d : Desc) : Option Status :=
  if !groupsInPart s d then some .badAddr
  else match remoteOf s d with
  | some q =>
    if remoteDown s d q then some .peerLost else none
  | none =>
    match liveObj s d.handle with
    | none => some .objectGone
    | some o =>
      let stored := if dForm d.bytes then
          walkBlocks (fun off n => readSpansRaw s (srcSpans s d off n)) (ceilDiv d.len 4096) 0 else d.len
      if o.job != d.job then some .badAddr
      else if dForm d.bytes != o.compressed then some .badParam
      else if d.objOff + d.len > objExtent s o && !dForm d.bytes then some .badAddr
      else if d.objOff ≥ objExtent s o || (!isCold o && d.objOff + stored > objExtent s o) then some .badAddr
      else none

/-- A descriptor's segments of each target count as landed, as far as they have not been counted. -/
def countRest (n : Nat) (d : Desc) (s : State) : State :=
  let s1 := (descTargets d).foldl (fun a t =>
    onTile t (fun x => { x with loads := x.loads + (segCount d - Tbl.getD d.counted t 0) }) a) s
  onDesc n (fun d => { d with counted := (descTargets d).map fun t => (t, segCount d) }) s1

/-- A descriptor that has ended: everything landed, or withdrawn with nothing in flight and, in class 2, its replacement issued.
Those of ended commands are forgotten. -/
def settleDesc (n : Nat) (s : State) : State :=
  match Tbl.get? s.descs n with
  | none => s
  | some d =>
    if d.todo != [] || d.remote != [] || flying s n != 0 then s
    else if d.void && ((cmdAt s (d.queue, d.seq)).map fun c => c.done.isSome).getD true then { s with descs := Tbl.erase s.descs n }
    else if d.withdrawn && !d.void && classOf s d = 2 && !d.altDone && d.deadline.isSome then s
    else if d.issued || d.withdrawn then stampReady (onDesc n (fun d => { d with done := true }) s)
    else s

/-- Members of a descriptor's chain, itself included. -/
def chainOf (s : State) (n : Nat) : List Nat :=
  let up := fun (l : List Nat) => l ++ (l.filterMap fun i => ((Tbl.get? s.descs i).bind (·.after)).filter fun j => !l.contains j)
  let down := fun (l : List Nat) => l ++ ((s.descs.filter fun e => !l.contains e.1 && (match e.2.after with
    | some j => l.contains j | none => false)).map (·.1))
  ((List.range s.descs.length).foldl (fun l _ => down (up l)) [n]).eraseDups

/-- The tier work that a halted descriptor waits for ends with it, as R190 has it. -/
def dropDescTier (n : Nat) (s : State) : State :=
  discardJobs (fun j => (j.kind == .pageWait || j.kind == .restream) && j.member == n) s

/-- A fetch made for descriptors `ns`, whose expert nothing else awaits, is void: a copy that landed leaves the pool, one under way
does so when it lands (R143). -/
def voidFetches (ns : List Nat) (s : State) : State :=
  let wanted := fun (h : Nat) => s.descs.any fun e => !ns.contains e.1 && e.2.handle == h && !e.2.done && !e.2.withdrawn
  let idle := s.cold.filter fun e => ns.contains e.desc && !wanted e.expert
  let spoil := fun (j : TierJob) =>
    if j.kind == .cold && idle.any (fun e => e.expert == j.handle && !e.landed) then { j with void := true } else j
  { s with cold := s.cold.filter (fun e => !(idle.contains e && e.landed)),
           tiers := s.tiers.map fun e => { e with work := e.work.map spoil } }

/-- One descriptor of a chain withdrawn for want of demand: its segments count as landed, since nothing is awaited of them. -/
def idleMember (n : Nat) (s : State) : State :=
  match Tbl.get? s.descs n with
  | none => s
  | some d =>
    if d.done || d.withdrawn then s
    else settleDesc n (countRest n d (onDesc n (fun d => { d with todo := [], remote := [], halted := none, withdrawn := true,
                                                                  void := d.issued }) (dropDescTier n s)))

/-- A descriptor of an expert without demand is withdrawn with its chain (R182, R137, R185). -/
def withdrawIdle (n : Nat) (s : State) : State :=
  let ns := chainOf s n
  ns.foldl (fun a i => idleMember i a) (voidFetches ns s)

/-- Every descriptor whose expert has turned out to be without demand is withdrawn (R143, R182). -/
def sweepIdle (s : State) : State :=
  (s.descs.map (·.1)).foldl (fun a n =>
    match Tbl.get? a.descs n with
    | some d => if !d.done && !d.withdrawn && noDemand a d then withdrawIdle n a else a
    | none => a) s

/-- Fox depth of a queue. -/
def depthOf (s : State) (q : Nat) : Nat := ((Tbl.get? s.queues q).map (·.depth)).getD 0

/-- The next descriptor of a queue that may issue: its chain and its gate stage do not hold it, and the depth admits it; the
continuation of a chain that has begun takes no further unit of depth. -/
def nextDesc (s : State) (q : Nat) : Option (Nat × Desc) :=
  let full := decide (depthUsed s q ≥ depthOf s q)
  s.descs.find? fun e => e.2.queue == q && !e.2.issued && !e.2.done && !e.2.withdrawn && !chainWaits s e.2 && !gateWaits s e.2
    && (e.2.after.isSome || !full)

/-- A descriptor's blocks. -/
def allBlocks (d : Desc) : List Nat := List.range (ceilDiv d.len 4096)

/-- A GATED descriptor of a queue that is to be withdrawn, issued EARLY or not yet issued. -/
def idleDesc (s : State) (q : Nat) : Option (Nat × Desc) :=
  s.descs.find? fun e => e.2.queue == q && !e.2.done && !e.2.withdrawn && noDemand s e.2

/-- Where in its packet a descriptor of an XFER stands: its FLAGS, whose FORM is found wrong as it issues (R182, R209). -/
def xferLoc (s : State) (n : Nat) (c : Cmd) : Cmd :=
  if c.op = 0x38 then { c with errLoc := 64 + 64 * ((descsOf s c.key).filter (·.1 < n)).length } else c

/-- DESCRIPTOR_ISSUE (R185); a descriptor of an expert without demand is withdrawn instead (R143, R182). -/
def execDescriptorIssue (q : Nat) (s : State) : Out :=
  commit (
    if !running s then s
    else
      match idleDesc s q, nextDesc s q with
      | some (n, _), _ => withdrawIdle n s
      | none, none => s
      | none, some (n, d) =>
        match issueFail s d with
        | some st => failDesc d st (onCmd (d.queue, d.seq) (xferLoc s n) s)
        | none => onDesc n (fun d => { d with issued := true, todo := allBlocks d }) s)

/-- What the gate stage has shown of the experts' demand takes effect on the descriptors (R143, R182). -/
def demandShown (s : State) : State := sweepIdle (stampReady s)

/-- GATE (R94, R125-R138). -/
def execGate (c r : Nat) (s : State) : Out := commit (demandShown (gateIssue c r s))

/-! ### Readiness (R11, R118, R119, R180) -/

def inLoad (s : State) (t : Nat) : Bool := (tileAt s t).phase == .load

/-- Segments of a descriptor in flight. -/
def segsFlying (s : State) (n : Nat) : List Nat :=
  (s.fox.flatMap fun e => (e.bursts.filter fun b => b.desc == n).flatMap fun b => b.counts.map fun c => c.2.1).eraseDups

/-- Banks that a host transfer's block touches, by tile. -/
def hostTiles (s : State) (d : Desc) (i : Nat) : List Nat :=
  let (x, n) := blockPlain d i
  ((srcSpans s d x n).flatMap fun p =>
    if p.1 < 0x600000000 then span (p.1 / 0x1000000) ((p.1 + p.2 - 1) / 0x1000000) else []).eraseDups

/-- Do the phases of the targets let block `i` be served: one target of a volley in LOAD, with at most 4 segments in flight, else
every tile it touches (R11, R118, R156, R186)? -/
def phasesAdmit (s : State) (n : Nat) (d : Desc) (i : Nat) : Bool :=
  if d.host.isSome then (hostTiles s d i).all (inLoad s)
  else
    let ts := ((blockRuns d i).map (·.1)).eraseDups
    (hostTiles s d i).all (inLoad s) && if dDir d.bytes = 0 && !dScatter d.bytes then
      let g := (blockPlain d i).1 / 65536
      let fl := segsFlying s n
      ts.any (inLoad s) && (fl.contains g || fl.length < 4)
    else ts.all (inLoad s)

/-- Stored spans that a block of a descriptor writes on this part, outside the banks of its targets. -/
def writtenSpans (s : State) (d : Desc) (i : Nat) : List (Nat × Nat) :=
  let (x, m) := blockPlain d i
  match d.host with
  | none => if dDir d.bytes = 1 then srcSpans s d x m else []
  | some h =>
    if dDir d.bytes != 0 || (remoteOf s d).isSome then []
    else match (Tbl.get? s.objs d.handle).filter (·.compressed) with
      | some o => objSpans s o (d.objOff + d.stored) (encodeBlock o.plane o.elem o.codetab (readHost s (h + x) m)).length
      | none => srcSpans s d x m

/-- Does an address lie in a page in motion (R163)? -/
def pageInMotion (s : State) (a : Nat) : Bool :=
  (objAtAddr s a).any fun e => e.2.moving.any fun i => let p := e.2.pages.getD i 0; p ≤ a && a < p + pageSize

/-- Does a block write into a page in motion, so that it waits (R163)? -/
def pageMoves (s : State) (d : Desc) (i : Nat) : Bool := (writtenSpans s d i).any fun p => pageInMotion s p.1

/-- An expert in DDR5 without its landed copy, or that may not be fetched, keeps its stream waiting (R142). -/
def sourceWaits (s : State) (d : Desc) : Bool :=
  d.host.isNone && dDir d.bytes == 0 && (Tbl.get? s.objs d.handle).any fun o =>
    restsCold o && (!o.cold || (coldEntryOf s d.handle).isNone)

/-- The block of a descriptor that engine FX`k` would serve next; blocks that are encoded go in order (R192, R197). -/
def foxBlock (s : State) (k : Nat) (d : Desc) : Option Nat :=
  if encodes s d then d.todo.head? else d.todo.find? fun i => match blockStack s d i with | some h => h == k / 2 | none => true

/-- Is a remote block's data there, or its requests still to be sent? -/
def remoteReady (s : State) (d : Desc) : Bool :=
  match remoteOf s d with
  | none => true
  | some q => d.remote == [] || (dDir d.bytes == (if d.host.isSome then 1 else 0)
      && d.remote.all fun r => s.lnk.msgs.any fun m => m.src == q && m.id == r.1 && m.kind == 1 && msgComplete m)

/-- A descriptor at work: issued, not ended, not halted. -/
def atWork (d : Desc) : Bool := d.issued && !d.done && !d.withdrawn && d.halted.isNone

/-- Is a tier engine free to encode a block (R181, R197)? -/
def encoderFree (s : State) : Bool := s.tiers.any fun e => !e.failed && e.work.isEmpty

/-- Ready to take a turn with this block. -/
def foxReady (s : State) (n : Nat) (d : Desc) (i : Nat) : Bool :=
  phasesAdmit s n d i && !pageMoves s d i && !sourceWaits s d && remoteReady s d && (!encodes s d || encoderFree s)

/-- Descriptors that engine FX`k` has work of. -/
def foxWork (s : State) (k : Nat) : List (Nat × Desc × Nat) :=
  s.descs.filterMap fun e => if atWork e.2 && !noDemand s e.2 then (foxBlock s k e.2).map fun i => (e.1, e.2, i) else none

/-- Descriptors that FX`k` may serve: ready, and no earlier one of its work with the same target waits (R119, R180). A ninth
descriptor whose targets are not in LOAD holds the engine. -/
def foxReadies (s : State) (k : Nat) : List (Nat × Desc × Nat) :=
  let l := foxWork s k
  if (l.filter fun x => !phasesAdmit s x.1 x.2.1 x.2.2).length > 8 then []
  else l.filter fun x => foxReady s x.1 x.2.1 x.2.2
    && !(l.any fun y => y.1 < x.1 && y.2.1.host.isNone && (descTargets y.2.1).any (descTargets x.2.1).contains)

/-- The descriptor FX`k` serves next: the first of the next queue in round robin (R180). -/
def foxNext (s : State) (k last : Nat) : Option (Nat × Desc × Nat) :=
  let l := foxReadies s k
  (l.find? fun x => x.2.1.queue > last && !(l.any fun y => last < y.2.1.queue && y.2.1.queue < x.2.1.queue)).or
    (l.find? fun x => !(l.any fun y => y.2.1.queue < x.2.1.queue))

/-! ### Deadlines (R175-R177, R198-R201) -/

/-- Segments that descriptors of the same inning before this one deliver to a tile. -/
def segsBefore (s : State) (n : Nat) (d : Desc) (t : Nat) : Nat :=
  ((s.descs.filter fun e => e.1 < n && e.2.queue == d.queue && e.2.seq == d.seq && e.2.entry == d.entry && e.2.host.isNone
    && !(e.2.withdrawn && e.2.altDone) && (descTargets e.2).contains t).map fun e => segCount e.2).sum

/-- Does a tile wait at a WAITPH LOADCNT whose VALUE counts a segment of the descriptor that has not landed (R175)? Segments are
counted in descriptor order. -/
def tileAwaits (s : State) (n : Nat) (d : Desc) (t : Nat) : Bool :=
  match (tileAt s t).wait with
  | .waitph cond _ _ value _ =>
    cond == 0 && (tileAt s t).loads < value && Tbl.getD d.counted t 0 < segCount d && segsBefore s n d t < value
  | _ => false

def anyAwaits (s : State) (n : Nat) (d : Desc) : Bool := (descTargets d).any (tileAwaits s n d)

/-- Does a tile wait on a descriptor that has neither completed nor been withdrawn (R177)? -/
def awaitsOpen (s : State) (t : Nat) : Bool :=
  s.descs.any fun e => !e.2.done && !(e.2.withdrawn && e.2.altDone) && e.2.host.isNone && tileAwaits s e.1 e.2 t

/-- Bank units of 4 KiB touched by the segments of a target's run that have not fully landed (R198). -/
def unlandedUnits (d : Desc) (t : Nat) : List Nat :=
  let base := 64 * (d.base + dBank d.bytes)
  ((List.range (segCount d)).flatMap fun g =>
    if Tbl.getD d.landed (65536 * t + g) 0 < segLen d g then
      span ((base + 65536 * g) / 4096) ((base + 65536 * g + segLen d g - 1) / 4096)
    else []).eraseDups

/-- A class 1 descriptor withdrawn: the units of its unlanded segments become void, and these count as landed (R198). A class 0 member
of a withdrawn chain ends so too, but degrades no layer (R185; DEDUCED: log 27). -/
def withdrawRefine (n : Nat) (s : State) : State :=
  match Tbl.get? s.descs n with
  | none => s
  | some d =>
    if d.done || d.withdrawn then s
    else
      let lost := ((descTargets d).map fun t => segCount d - Tbl.getD d.counted t 0).sum
      let s1 := (descTargets d).foldl (fun a t => onTile t (fun x => { x with voids := (x.voids ++ unlandedUnits d t).eraseDups }) a) s
      let s2 := countRest n d (onDesc n (fun d => { d with todo := [], remote := [], halted := none, withdrawn := true,
                                                           deadline := some s.clk.rackTime }) (dropDescTier n s1))
      let s3 := if dClass d.bytes = 0 then s2 else onCmd (d.queue, d.seq) (fun c => match curRun c with
        | none => c
        | some r =>
          let o := Tbl.getD r.degraded d.entry (0, 0)
          setRun c { r with cheaper := true, degraded := Tbl.set r.degraded d.entry (o.1 + 1, o.2 + lost) }) s2
      settleDesc n (dropHeldBursts [n] s3)

/-- Has a descriptor of the same expert been replaced in this inning? -/
def substDone (s : State) (d : Desc) : Bool :=
  s.descs.any fun e => e.2.queue == d.queue && e.2.seq == d.seq && e.2.entry == d.entry && e.2.withdrawn && e.2.deadline.isSome
    && dGated e.2.bytes && dClass e.2.bytes == 2 && dGate e.2.bytes == dGate d.bytes && dExpert e.2.bytes == dExpert d.bytes

/-- Rows of an expert's window on this part: those of its own tokens, and those received from peers, which name the experts homed
here in ascending id (R146, R150). -/
def expertRows (r : RunInfo) (g e : Nat) : Nat :=
  let t := Tbl.getD r.demand g []
  let own := Tbl.getD t e 0 + unreported r g e t (List.range (Tbl.getD t 8192 0))
  match Tbl.get? r.gates g with
  | none => own
  | some i =>
    let home := (List.range i.map.length).filter fun x => !bitAt (i.map.getD x 0) 14
    own + ((Tbl.vals i.recv).map fun l => l.getD (home.findIdx (· == e)) 0).sum

/-- The replacement of an expert noted for EXPERT_SUBST, once for the expert in an inning (R146). -/
def noteSubst (d : Desc) (s : State) : State :=
  if substDone s d then s
  else onCmd (d.queue, d.seq) (fun c => match curRun c with
    | none => c
    | some r =>
      let e := dExpert d.bytes
      let o := Tbl.getD r.substs (dGate d.bytes) (0, 0, e)
      setRun c { r with cheaper := true, substs := Tbl.set r.substs (dGate d.bytes)
                          (o.1 + 1, o.2.1 + expertRows r (dGate d.bytes) e, min o.2.2 e) }) s

/-- The refinement plane of a replaced expert: whatever of it has landed is void too (R177; DEDUCED: log 27). -/
def withdrawPlane (n : Nat) (s : State) : State :=
  match Tbl.get? s.descs n with
  | none => s
  | some d =>
    (descTargets d).foldl (fun a t => onTile t (fun x =>
      { x with voids := (x.voids ++ unlandedUnits { d with landed := [] } t).eraseDups }) a) (withdrawRefine n s)

/-- A class 2 descriptor withdrawn: the load counters lose what it had landed (R198), in a chain also where it had completed (R185). -/
def withdrawCold (n : Nat) (s : State) : State :=
  match Tbl.get? s.descs n with
  | none => s
  | some d =>
    if d.withdrawn then s
    else
      let s1 := (descTargets d).foldl (fun a t => onTile t (fun x => { x with loads := x.loads - Tbl.getD d.counted t 0 }) a) s
      let s2 := onDesc n (fun d => { d with todo := [], remote := [], halted := none, withdrawn := true, counted := [], landed := [],
                                            done := false, deadline := some s.clk.rackTime }) (dropDescTier n s1)
      dropHeldBursts [n] s2

/-- Refinement planes of the same expert in the same inning, which are withdrawn with a replaced base plane (R177). -/
def refinesOf (s : State) (d : Desc) : List Nat :=
  (s.descs.filter fun e => e.2.queue == d.queue && e.2.seq == d.seq && e.2.entry == d.entry && dClass e.2.bytes == 1
    && dGated e.2.bytes && dGated d.bytes && dGate e.2.bytes == dGate d.bytes && dExpert e.2.bytes == dExpert d.bytes).map (·.1)

/-- A member of a withdrawn chain takes the path of its own class; one of class 2 takes the refinement planes of its expert with it
(R177, R185). -/
def withdrawMember (n : Nat) (s : State) : State :=
  match Tbl.get? s.descs n with
  | none => s
  | some d =>
    if dClass d.bytes = 2 && !d.withdrawn then
      (refinesOf s d).foldl (fun a i => withdrawPlane i a) (withdrawCold n (noteSubst d s))
    else withdrawRefine n s

/-- A descriptor reaches its deadline: in class 1 or 2 it is withdrawn with its chain. -/
def takeDeadline (n : Nat) (d : Desc) (s : State) : State :=
  if classOf s d = 1 || classOf s d = 2 then (chainOf s n).foldl (fun a i => withdrawMember i a) s
  else onDesc n (fun d => { d with deadline := some s.clk.rackTime }) s

/-- DEADLINE_REACHED (R175, R176): no deadline is reached while the partition is held, or by an XFER that no tile awaits. -/
def execDeadlineReached (n : Nat) (s : State) : Out :=
  commit (
    match Tbl.get? s.descs n with
    | none => s
    | some d =>
      let held := ((d.part.bind (Tbl.get? s.parts)).map (·.held)).getD false
      if !running s || held || d.done || d.withdrawn || d.deadline.isSome || dTime d.bytes = 0 || d.host.isSome
        || !(d.readyAt.any fun t => passed s t (dTime d.bytes)) || !anyAwaits s n d then s
      else takeDeadline n d s)

/-- The replacement of a withdrawn class 2 descriptor: ALTDESC, class 0, over the same span (R177, R183, R198). -/
def altOf (s : State) (d : Desc) : Option Desc :=
  match runOfDesc s d with
  | none => none
  | some r =>
    let img := imgOf s r.image
    let b := imgStream img (dAlt d.bytes)
    let sym := dObj b
    let h : Nat × Nat := match r.bufs.find? (·.sym == sym) with
      | some x => (x.handle, x.off)
      | none => match r.slot with
        | some (m, sl) => (Tbl.getD (slotOf (modelAt s d.job m) sl).members sym 0, 0)
        | none => (0, 0)
    let fl := fieldAt b 0 2
    let fl0 := fl - 8 * bitsOf fl 3 2 - 64 * bitsOf fl 6 1 - 128 * bitsOf fl 7 1 - 256 * bitsOf fl 8 1
    let b1 := putB (putB b 0 (leBytes 2 fl0)) 28 (leBytes 4 (dGroups d.bytes))
    some { d with index := dAlt d.bytes, bytes := b1, handle := h.1, objOff := dOff b + h.2, issued := true, after := none,
                  gated := false, len := descLen b1 (dGroups d.bytes), todo := [], stored := 0, remote := [], halted := none,
                  restream := false, haltedPages := [], landed := [], deadline := none, withdrawn := false, altDone := false,
                  void := false, counted := [], done := false, readyAt := some s.clk.rackTime, redirect := [] }

/-- ALTDESC_ISSUE (R198): once the last burst of the withdrawn descriptor has landed. -/
def execAltdescIssue (n : Nat) (s : State) : Out :=
  commit (
    match Tbl.get? s.descs n with
    | none => s
    | some d =>
      if !running s || !d.withdrawn || d.void || d.altDone || d.deadline.isNone || classOf s d != 2 || flying s n != 0 then s
      else
        match altOf s d with
        | none => s
        | some a =>
          match issueFail s a with
          | some st => failDesc d st s
          | none =>
            let s1 := { s with descs := Tbl.set s.descs s.nextDesc { a with todo := allBlocks a }, nextDesc := s.nextDesc + 1 }
            onDesc n (fun d => { d with altDone := true, done := true }) s1)

/-- The detail of DEADLINE_MISS (R201). -/
def missDetail (s : State) (d : Desc) : List Byte :=
  let worst := (((descTargets d).map fun t => segCount d - Tbl.getD d.counted t 0).max?).getD 0
  let (a, b) := match d.part.bind (Tbl.get? s.parts) with
    | some p => (p.first, p.first + p.count - 1)
    | none => (0xFF, 0xFF)
  leBytes 4 d.index ++ leBytes 2 d.entry ++ [BitVec.ofNat 8 a, BitVec.ofNat 8 b] ++ leBytes 4 worst
    ++ [BitVec.ofNat 8 (dClass d.bytes), 0, 0, 0]

/-- DEADLINE_MISS (R200): 2 ms after the deadline of a class 0 descriptor the tiles still wait for it. -/
def execDeadlineMiss (n : Nat) (s : State) : Out :=
  commit (
    match Tbl.get? s.descs n with
    | none => s
    | some d =>
      match d.deadline with
      | none => s
      | some t =>
        let held := ((d.part.bind (Tbl.get? s.parts)).map (·.held)).getD false
        if !running s || held || d.done || d.withdrawn || classOf s d != 0 || !passed s t (msUnits 2) || !anyAwaits s n d then s
        else failDesc d .deadlineMiss (postEvent 0x0403 (0x40 + d.part.getD 0) d.job (missDetail s d) s))

end Sys2Proof.Machine
end

