-- ==== Sys2Proof/Machine/Fox.lean ====
section
/-! DEFINITION. The Fox engines and the cold fetch: block transfers, bursts, page waits, re-streaming, remote streams (R143, R144,
R178-R190, R196, R197, R205, R285). -/
namespace Sys2Proof.Machine

/-! ### XFER's end (R116, R228) -/

/-- Is an XFER over: every descriptor and host transfer done? -/
def xferOver (s : State) (k : Nat × Nat) : Bool := (descsOf s k).all fun e => e.2.done

/-- The stage of a chain in work is an XFER. -/
def inXferStage (c : Cmd) : Bool := c.op = 0x31 && !c.between && (match c.stages[c.stageAt]? with | some g => g.run.isNone | none => false)

/-- A stage of a chain has completed: the last one decides the chain, else the next may start (R116). -/
def endStage (k : Nat × Nat) (s : State) : State :=
  match cmdAt s k with
  | none => s
  | some c =>
    if c.stageAt + 1 < c.stages.length then onCmd k (fun c => { c with between := true }) s
    else
      let degraded := c.stages.any fun g => match g.run with | some r => r.cheaper | none => false
      let st := if degraded then Status.okDegraded else .ok
      let s1 := decide_ k st (endResult c st) s
      match c.part.bind (Tbl.get? s.parts) with
      | some p => settle (freePart p.first s1)
      | none => settle s1

/-- An XFER command or stage whose work is over completes. -/
def settleXfer (k : Nat × Nat) (s : State) : State :=
  match cmdAt s k with
  | none => s
  | some c =>
    if c.done.isSome || !xferOver s k then s
    else if c.op = 0x38 then settle (decide_ k .ok [] { s with descs := s.descs.filter fun e => !(e.2.queue == k.1 && e.2.seq == k.2) })
    else if inXferStage c then endStage k { s with descs := s.descs.filter fun e => !(e.2.queue == k.1 && e.2.seq == k.2) }
    else s

/-- A descriptor's block is done with; the descriptor, and an XFER it belongs to, may have ended. -/
def settleWork (n : Nat) (s : State) : State :=
  match Tbl.get? s.descs n with
  | none => s
  | some d => settleXfer (d.queue, d.seq) (settleDesc n s)

/-! ### Segments (R184) -/

/-- Bytes of a segment have landed in a target, or been read from a source tile. -/
def countBytes (n : Nat) (x : Nat × Nat × Nat) (s : State) : State :=
  match Tbl.get? s.descs n with
  | none => s
  | some d =>
    let key := 65536 * x.1 + x.2.1
    let now := Tbl.getD d.landed key 0 + x.2.2
    let s1 := onDesc n (fun d => { d with landed := Tbl.set d.landed key now }) s
    if now < segLen d x.2.1 then s1
    else onTile x.1 (fun t => { t with loads := t.loads + 1 }) (onDesc n (fun d => { d with counted := Tbl.bump d.counted x.1 1 }) s1)

/-- Void marks of the units that a write touches clear (R198). -/
def clearVoids (t addr n : Nat) (s : State) : State :=
  let a := addr - bankBase t
  if n = 0 || (tileAt s t).voids = [] then s
  else onTile t (fun x => { x with voids := x.voids.filter fun v => !(a / 4096 ≤ v && v ≤ (a + n - 1) / 4096) }) s

/-! ### Failures and halts (R178, R188, R189, R196, R205) -/

/-- PAGE_WAIT (R189). -/
def pageWaitEvent (d : Desc) (page stack full : Nat) (s : State) : State :=
  postEvent 0x0401 0x00 d.job (leBytes 4 d.handle ++ leBytes 4 page ++ [BitVec.ofNat 8 stack, BitVec.ofNat 8 full]
    ++ List.replicate 6 0) s

/-- A stream reaches a page in DDR5: it halts, and the page is to be moved. A page that nothing may move, being pinned, is reported
as one that finds no free page (R188: log 27). -/
def haltPage (n : Nat) (d : Desc) (o : Obj) (page i : Nat) (s : State) : State :=
  let s1 := onDesc n (fun d => { d with halted := some page, restream := false, haltedPages := d.haltedPages ++ [page],
                                        stored := (blockStored s d i).1 }) s
  let s2 := pageWaitEvent d page (stackFor o.stackMask page) (ofBool (!pageCanMove s d.handle page o)) s1
  dispatch { s2 with tierQueue := s2.tierQueue ++ [{ mkTier .pageWait (d.queue, d.seq) d.handle page with member := n }] }

/-- The lower copy of an object that a descriptor reads: the object it was staged from, or the home of a cold expert that the pool
supplies (R178). -/
def lowerCopy (s : State) (d : Desc) (h : Nat) : Option Nat :=
  match Tbl.get? s.objs h with
  | none => none
  | some o =>
    if isCold o then (if d.host.isNone then some h else none)
    else o.lower.filter fun l => (liveObj s l).isSome

/-- The block in error: its object, and its stored offset and length there. A host transfer reads bytes as they are held, so its
blocks are found by where the error lies (R178, R205). -/
def badSpan (s : State) (d : Desc) (i : Nat) (addr : Nat) : Nat × Nat × Nat :=
  if d.host.isNone then let sp := blockStored s d i; (d.handle, d.objOff + sp.1, sp.2)
  else
    match objAtAddr s addr with
    | none => (d.handle, 0, 0)
    | some (h, o) =>
      let x := o.pages.findIdx (fun p => p ≤ addr && addr < p + pageSize) * pageSize + addr % pageSize
      (h, badStored o x s)

/-- A block in error: re-streamed from a lower copy, or the outcome of R178 for the object's type. -/
def badBlock (n : Nat) (d : Desc) (i : Nat) (es : List ErrWord) (s : State) : State :=
  let (h, off, len) := badSpan s d i ((es.head?.map (·.addr)).getD 0)
  let type := ((Tbl.get? s.objs h).map (·.type)).getD 4
  match lowerCopy s d h with
  | some _ =>
    let sp := blockStored s d i
    let s1 := postUe es false 0 none d.job s
    let s2 := onDesc n (fun d => { d with halted := some (off / pageSize), restream := true,
                                          stored := if d.host.isNone then sp.1 else d.stored }) s1
    dispatch { s2 with tierQueue := s2.tierQueue ++ [{ mkTier .restream (d.queue, d.seq) h off with member := n, dst := len }] }
  | none =>
    if type = 1 || type = 2 || type = 5 then failDesc d .uncorrectable (postUe es false 1 none d.job s)
    else ueFault es 4 d.part none d.job s

/-- A word that stands for a block whose CRC does not match (R196); its location is due for retirement as any other. -/
def crcWord (s : State) (d : Desc) (i : Nat) : ErrWord :=
  let a := ((srcSpans s d (blockStored s d i).1 1).map (·.1)).headD 0
  { kind := (memKindOf a).getD .hbm, addr := a, syms := 2, injected := false, reported := false, met := true, retired := false }

/-! ### Serving a block (R180, R186, R196) -/

/-- A block's burst put into its engine. -/
def putBurst (k : Nat) (b : Burst) (s : State) : State :=
  { s with fox := modAt s.fox k fun e => { e with bursts := e.bursts ++ [b] } }

/-- The block leaves the descriptor's list. -/
def takeBlock (n i : Nat) (s : State) : State := onDesc n (fun d => { d with todo := d.todo.erase i, remote := [] }) s

/-- A block of a host or remote transfer done: its bytes are noted for its command (R318). -/
def movedBlock (n i mem link : Nat) (d : Desc) (s : State) : State := noteMoved (d.queue, d.seq) mem link (takeBlock n i s)

/-- Plain bytes of a block on their way into the banks. -/
def burstIn (k n : Nat) (d : Desc) (i : Nat) (plain : List Byte) (s : State) : State :=
  let (x, _) := blockPlain d i
  let runs := blockRuns d i
  let start := fun (r : Nat × Nat × Nat) =>
    if dScatter d.bytes then ((descTargets d).findIdx (· == r.1)) * dPerTile d.bytes + r.2.1 - x else 0
  let ws := runs.map fun r => (r.1, runAddr d r.1 r.2.1, sliceB plain (start r) r.2.2)
  putBurst k { desc := n, writes := ws, out := [], counts := runs.flatMap runCounts } (takeBlock n i s)

/-- A block as stored, decoded to `len` plain bytes and sent on; or its failure (R192-R196). -/
def sendBlock (k n : Nat) (d : Desc) (i : Nat) (last : Bool) (tab : Nat) (stored : List Byte) (s : State) : State :=
  let len := (blockPlain d i).2
  if !dForm d.bytes then burstIn k n d i stored s
  else
    match decodeBlock tab last (stored.take 16) (stored.drop 16) with
    | none => failDesc d .badCodec s
    | some b =>
      if classOf s d = 1 && b.plane != 2 then failDesc d .badCodec s
      else if !b.crcOk then
        (if (remoteOf s d).isSome then failDesc d .uncorrectable s
         else let e := crcWord s d i; badBlock n d i [e] (markDue e.kind e.addr 2 s))
      else if b.plain.length < len then failDesc d .badAddr s
      else burstIn k n d i (b.plain.take len) s

/-- The landed copy of a cold expert has been used (R144). -/
def touchCold (d : Desc) (s : State) : State :=
  { s with cold := s.cold.map fun e => if e.expert == d.handle && e.landed && !e.void then { e with lastUse := s.clk.rackTime } else e }

/-- An inbound block of a local object: a page in DDR5 halts the stream, a word in error has its outcome, else the block is
decoded and sent. -/
def serveIn (k n : Nat) (d : Desc) (i : Nat) (s : State) : State :=
  let sp := blockStored s d i
  let o := pagedObj s d
  let low := (pagesTouched d sp.1 sp.2).find? fun p => (o.map fun x => inDdr (x.pages.getD p 0)).getD false && !d.haltedPages.contains p
  match o, low with
  | some o, some p => haltPage n d o p i s
  | _, _ =>
    match Tbl.get? s.objs d.handle with
    | none => failDesc d .objectGone s
    | some o =>
      if d.objOff + sp.1 + sp.2 > objExtent s o then failDesc d .badAddr s
      else
        let r := readSpansChecked (srcSpans s d sp.1 sp.2) s
        match r.ue with
        | e :: es => if inBank (e :: es) then ueFault (e :: es) 3 d.part (bankTile [e]) d.job r.st else badBlock n d i (e :: es) r.st
        | [] =>
          let last := lastBlock o (fun x m => readSpansRaw s (srcSpans s d (x - d.objOff) m)) (d.objOff + sp.1 + sp.2)
          sendBlock k n d i last o.codetab r.bytes (touchCold d r.st)

/-- What a block reads from its source tiles, checked. -/
def readRuns (d : Desc) (i : Nat) (s : State) : EccRead := readSpansChecked ((blockRuns d i).map fun r => (runAddr d r.1 r.2.1, r.2.2)) s

/-- An outbound block: read from the tiles, its segments counted, on its way to the object (R184, R186). -/
def serveOut (k n : Nat) (d : Desc) (i : Nat) (s : State) : State :=
  let (x, m) := blockPlain d i
  let o := pagedObj s d
  let low := (pagesTouched d x m).find? fun p => (o.map fun y => inDdr (y.pages.getD p 0)).getD false && !d.haltedPages.contains p
  match o, low with
  | some o, some p => haltPage n d o p i s
  | _, _ =>
    let r := readRuns d i s
    match r.ue with
    | e :: es => ueFault (e :: es) 3 d.part (bankTile [e]) d.job r.st
    | [] =>
      let out := ((srcSpans s d x m).foldl (fun (a : List Byte × List (Nat × List Byte)) p =>
        (a.1.drop p.2, a.2 ++ [(p.1, a.1.take p.2)])) (r.bytes, [])).2
      let s1 := ((blockRuns d i).flatMap runCounts).foldl (fun a c => countBytes n c a) (takeBlock n i r.st)
      putBurst k { desc := n, writes := [], out, counts := [] } s1

/-! ### Host transfers of XFER (R197, R228) -/

/-- One block between host and device: from the host into an object, compressed where the object is, or from the device to the
host as it is held. -/
def serveHost (n : Nat) (d : Desc) (h i : Nat) (s : State) : State :=
  let (x, m) := blockPlain d i
  if !hostOk s (h + x) m then failDesc d .badAddr s
  else if dDir d.bytes = 0 then
    let b := readHost s (h + x) m
    match (Tbl.get? s.objs d.handle).filter (·.compressed) with
    | some o =>
      let e := encodeBlock o.plane o.elem o.codetab b
      if d.objOff + d.stored + e.length > o.len then failDesc d .badAddr s
      else
        let s1 := objWrite o (d.objOff + d.stored) e s
        settleWork n (onDesc n (fun d => { d with stored := d.stored + e.length }) (movedBlock n i m 0 d s1))
    | none => settleWork n (movedBlock n i m 0 d (writeSpansTo (srcSpans s d x m) b s))
  else
    let r := readSpansChecked (srcSpans s d x m) s
    match r.ue with
    | e :: es => if inBank (e :: es) then ueFault (e :: es) 3 d.part (bankTile [e]) d.job r.st else badBlock n d i (e :: es) r.st
    | [] => settleWork n (movedBlock n i m 0 d (writeHost (h + x) r.bytes r.st))

/-! ### Remote streams (R284, R285, R291) -/

/-- The outcome an answer's status code stands for. -/
def answerStatus (c : Nat) : Status :=
  ([Status.objectGone, .badAddr, .badParam, .uncorrectable].find? fun x => statusCode x == c).getD .peerLost

/-- Requests for `m` bytes from `off`: at most 4,032 each, multiples of 64. -/
def cutRequests : Nat → Nat → Nat → List (Nat × Nat)
  | 0, _, _ => []
  | f + 1, off, m => if m = 0 then [] else (off, min 4032 m) :: cutRequests f (off + min 4032 m) (m - min 4032 m)

/-- One RDREQ sent, its last `past` bytes past the span; its request id. -/
def sendRequest (q : Nat) (d : Desc) (off m past : Nat) (s : State) : Nat × State :=
  let (id0, s1) := newMsgId s
  let id := requestId id0 (dForm d.bytes) d.handle past
  let p := rdreqPayload id d.handle off m (accountOf s d.job)
  (id, match burstPort (portsTo s1 q) id 0 with
    | some i => sendFlit i 2 0 q p true true s1
    | none => s1)

/-- Requests for a span of the owner's memory, widened to the 64-byte words that R291's lengths need (DESIGN CHOICE: log 21), and
noted at the descriptor. -/
def requestSpan (n q : Nat) (d : Desc) (off m : Nat) (s : State) : State :=
  let from_ := off / 64 * 64
  let wide := 64 * ceilDiv (off + m - from_) 64
  (cutRequests (wide / 4032 + 1) from_ wide).foldl (fun a r =>
    let x := sendRequest q d r.1 r.2 (r.1 + r.2 - min (r.1 + r.2) (off + m)) a
    onDesc n (fun d => { d with remote := d.remote ++ [(x.1, r.2)] }) x.2) s

/-- The answer to a request. -/
def answerTo (s : State) (q id : Nat) : Option Msg := s.lnk.msgs.find? fun m => m.src == q && m.id == id && m.kind == 1

/-- Bytes of the answers to a descriptor's requests, from the offset the first was asked for; a FORM answer has the object's code table
before them. -/
def answeredBytes (s : State) (q : Nat) (d : Desc) (off : Nat) : List Byte :=
  (d.remote.flatMap fun r => match answerTo s q r.1 with
    | some m => Mem.read m.bytes (if idForm r.1 then 8 else 0) r.2
    | none => []).drop (off % 64)

/-- The code table of a remote object, from the first answer (R195). -/
def answeredTab (s : State) (q : Nat) (d : Desc) : Nat :=
  ((d.remote.head?).bind fun r => (answerTo s q r.1).map fun m => Mem.field m.bytes 0 8).getD 0

/-- A failure that the owner answers a request with (R285), as the two bytes of its status (DESIGN CHOICE: log 21). -/
def answeredFail (s : State) (q : Nat) (d : Desc) : Option Status :=
  d.remote.findSome? fun r => ((answerTo s q r.1).filter fun m => m.len == some 2).map fun m =>
    answerStatus (fieldAt (Mem.read m.bytes 0 2) 0 2)

/-- The answers are taken from the messages. -/
def dropAnswers (q : Nat) (d : Desc) (s : State) : State :=
  { s with lnk := { s.lnk with msgs := s.lnk.msgs.filter fun m =>
      !(m.src == q && m.kind == 1 && d.remote.any fun r => r.1 == m.id) } }

/-- An inbound block of a remote object: its bytes are requested, a compressed block's header first, and sent on when they are
there. A board read for XFER goes to the host. -/
def serveRemoteIn (k n q : Nat) (d : Desc) (i : Nat) (s : State) : State :=
  let (x, m) := blockPlain d i
  let comp := d.host.isNone && dForm d.bytes
  let off := d.objOff + (if comp then d.stored else x)
  if d.remote = [] then requestSpan n q d off (if comp then 16 else m) s
  else if let some st := answeredFail s q d then failDesc d st (dropAnswers q d s)
  else
    let b := answeredBytes s q d off
    let need := if comp then storedLen (b.take 16) else m
    if b.length < need then requestSpan n q d (off + b.length) (need - b.length) s
    else
      let s1 := dropAnswers q d s
      match d.host with
      | some h => if hostOk s (h + x) m then settleWork n (movedBlock n i 0 m d (writeHost (h + x) (b.take m) s1)) else failDesc d .badAddr s1
      | none =>
        sendBlock k n d i (i + 1 = ceilDiv d.len 4096) (if comp then answeredTab s q d else 0) (b.take need)
          (noteMoved (d.queue, d.seq) 0 need (onDesc n (fun d => { d with stored := d.stored + need }) s1))

/-- The 32 bytes that name what a write's data is for, before it: the bytes of an RDREQ and zeros (DESIGN CHOICE: log 21). -/
def writeName (id handle off len account : Nat) : List Byte := rdreqPayload id handle off len account ++ List.replicate 12 0

/-- An outbound block toward a remote object: sent as write data; the owner's acknowledgement ends it. -/
def serveRemoteOut (n q : Nat) (d : Desc) (i : Nat) (s : State) : State :=
  let (x, m) := blockPlain d i
  let r : EccRead := match d.host with
    | some h => { bytes := readHost s (h + x) m, ue := [], st := s }
    | none => readRuns d i s
  match r.ue with
  | e :: es => ueFault (e :: es) 3 d.part (bankTile [e]) d.job r.st
  | [] =>
    let (id0, s0) := newMsgId r.st
    let id := requestId id0 false d.handle 0
    let s1 := sendMessages [(q, 2, id, writeName id d.handle (d.objOff + x) m (accountOf s d.job) ++ r.bytes)] s0
    let s2 := ((blockRuns d i).flatMap runCounts).foldl (fun a c => countBytes n c a) s1
    onDesc n (fun d => { d with remote := [(id, m)] }) s2

/-- A write acknowledgement of a part: the message's id and the status of the write (DESIGN CHOICE: log 21). -/
def wrackPayload (id : Nat) (st : Status) : List Byte := leBytes 4 id ++ leBytes 2 (statusCode st)

/-- An acknowledgement ends the write it names, or fails its command (R284, R285). -/
def ackWrite (q : Nat) (b : List Byte) (s : State) : State :=
  match s.descs.find? fun e => remoteOf s e.2 == some q && e.2.remote.any (·.1 == fieldAt b 0 4) with
  | none => s
  | some (n, d) =>
    if fieldAt b 4 2 = statusCode .ok then settleWork n (movedBlock n (d.todo.headD 0) 0 ((d.remote.map (·.2)).sum) d s)
    else failDesc d (answerStatus (fieldAt b 4 2)) s

/-- With the board port down, what goes to the peer's memory by raw address fails (R283). -/
def failRaw (s : State) : State :=
  ((Tbl.vals s.descs).filter fun d => d.handle == 0 && (remoteOf s d).isSome && d.issued && !d.done && !d.withdrawn).foldl
    (fun a d => failDesc d .peerLost a) s

/-- Remote streams with a part that is down or disabled fail (R286, R299). -/
def failRemote (q : Nat) (s : State) : State :=
  ((Tbl.vals s.descs).filter fun d => remoteOf s d == some q && d.issued && !d.done && !d.withdrawn).foldl
    (fun a d => failDesc d .peerLost a) s

/-! ### The Fox rows -/

/-- FOX_BLOCK_TRANSFER (R180): FX`k` serves one block, with at most 128 bursts in flight (R179). -/
def execFoxBlockTransfer (k : Nat) (s : State) : Out :=
  commit (
    match s.fox[k]? with
    | none => s
    | some e =>
      if !running s || e.failed || e.bursts.length ≥ 128 then s
      else
        match foxNext s k e.last with
        | none => s
        | some (n, d, i) =>
          let s1 := { s with fox := modAt s.fox k fun e => { e with last := d.queue } }
          match remoteOf s d, d.host with
          | some q, h =>
            if remoteDown s d q then failDesc d .peerLost s1
            else if dDir d.bytes = (if h.isSome then 1 else 0) then serveRemoteIn k n q d i s1
            else serveRemoteOut n q d i s1
          | none, some h => serveHost n d h i s1
          | none, none => if dDir d.bytes = 0 then serveIn k n d i s1 else serveOut k n d i s1)

/-- A burst's writes into tiles in LOAD; void ones leave undefined bytes (R177, R190, log 6). -/
def landWrites (n : Nat) (void : Bool) (ws : List (Nat × Nat × List Byte)) (s : State) : State :=
  ws.foldl (fun a w =>
    if void then writeMem w.2.1 (freeBytes a.fresh w.2.2.length) { a with fresh := a.fresh + 1 }
    else
      let runs := match Tbl.get? a.descs n with
        | some d => runCounts (w.1, w.2.1 - runAddr d w.1 0, w.2.2.length)
        | none => []
      runs.foldl (fun b c => countBytes n c b) (clearVoids w.1 w.2.1 w.2.2.length (writeMem w.2.1 w.2.2 a))) s

/-- Is what a burst writes void: its descriptor withdrawn or its command cancelled or gone (R177, R190)? -/
def voidBurst (s : State) (b : Burst) : Bool := ((Tbl.get? s.descs b.desc).map fun d => d.withdrawn || d.void).getD true

/-- BURST_LANDED (R184, R118): of the engine's oldest burst with a target in LOAD, what can land lands. Of a void burst, what is
held for targets not in LOAD is discarded, unwritten (R190). A released object that an outbound burst was the last to need is freed
(R165). -/
def execBurstLanded (k : Nat) (s : State) : Out :=
  commit (
    match s.fox[k]? with
    | none => s
    | some e =>
      if s.dump.fault.isSome && !e.bursts.any (fun b => ((Tbl.get? s.descs b.desc).map (·.void)).getD true) then s
      else
        match e.bursts.findIdx? fun b => b.out != [] || b.writes == [] || voidBurst s b || b.writes.any fun w => inLoad s w.1 with
        | none => s
        | some i =>
          match e.bursts[i]? with
          | none => s
          | some b =>
            let void := voidBurst s b
            let now := b.writes.filter fun w => inLoad s w.1
            let rest := b.writes.filter fun w => !inLoad s w.1 && !void
            let left := if rest = [] then e.bursts.eraseIdx i else modAt e.bursts i fun b => { b with writes := rest, out := [] }
            let n := (now.map (·.2.2.length)).sum + (b.out.map (·.2.length)).sum
            let s0 := match Tbl.get? s.descs b.desc with
              | some d => noteMoved (payer s (d.queue, d.seq) d.void) n 0 s
              | none => s
            let s1 := { s0 with fox := modAt s.fox k fun e => { e with bursts := left } }
            let s2 := landWrites b.desc void now s1
            let s3 := b.out.foldl (fun a w =>
              if void then writeMem w.1 (freeBytes a.fresh w.2.length) { a with fresh := a.fresh + 1 } else writeMem w.1 w.2 a) s2
            if b.out = [] then settleWork b.desc s3 else sweepObjs (settleWork b.desc s3))

/-- The engine that works on the re-streaming of a descriptor's block. -/
def restreamEngine (s : State) (n : Nat) : Option (Nat × TierJob) :=
  (List.range s.tiers.length).findSome? fun j => match engineJob s j with
    | some t => if t.kind == .restream && t.member == n && !t.void then some (j, t) else none
    | none => none

/-- The block read again from the lower copy at its stored offset, checked, and written back (R205). -/
def restreamBlock (n : Nat) (d : Desc) (j : Nat) (t : TierJob) (s : State) : State :=
  match (lowerCopy s d t.handle).bind (Tbl.get? s.objs), Tbl.get? s.objs t.handle with
  | some o, some up =>
    let len := if o.compressed then storedLen (readSpansRaw s (objSpans s o t.idx 16)) else t.dst
    let (sound, r) := lowerRead o t.idx len (noteMoved (t.queue, t.seq) len 0 s)
    let back := if isCold up then srcSpans r.st d (t.idx - d.objOff) len else objSpans r.st up t.idx len
    if sound then
      onDesc n (fun d => { d with halted := none, restream := false }) (popEngine j (writeSpansTo back r.bytes r.st))
    else failDesc d .uncorrectable (popEngine j (postUe r.ue false 1 none d.job r.st))
  | _, _ => failDesc d .uncorrectable (popEngine j s)

/-- DESCRIPTOR_RESUME (R188, R205): the page has been switched, or the block re-streamed. -/
def execDescriptorResume (n : Nat) (s : State) : Out :=
  commit (
    match Tbl.get? s.descs n with
    | none => s
    | some d =>
      match d.halted with
      | none => s
      | some page =>
        if !running s || d.done || d.withdrawn then s
        else if d.restream then
          match restreamEngine s n with
          | some (j, t) => restreamBlock n d j t s
          | none => s
        else
          match Tbl.get? s.objs d.handle with
          | none => failDesc d .objectGone s
          | some o =>
            if inDdr (o.pages.getD page 0) then s else dropDescTier n (onDesc n (fun d => { d with halted := none }) s))

/-! ### Cold fetch (R143, R144) -/

/-- The cold pool of a job: an EXPERT object with COLD_FETCH, wholly in HBM, that already serves as a pool or has no contents. -/
def poolOf (s : State) (job : Nat) : Option (Nat × Obj) :=
  s.objs.find? fun e => e.2.job == job && e.2.type == 2 && e.2.cold && !e.2.gone && e.2.pages.all inHbm
    && (e.2.pool || e.2.pages.all fun p => Mem.zeroIn s.mem p pageSize)

/-- Is an entry of use to an inning in progress: in fetch, or named by a descriptor of it that was not withdrawn? -/
def entryUsed (s : State) (e : ColdEntry) : Bool :=
  !e.landed || s.descs.any fun x => x.2.handle == e.expert && !x.2.withdrawn

/-- May the entry be replaced (R144)? -/
def replaceable (s : State) (e : ColdEntry) : Bool :=
  !entryUsed s e && !(((Tbl.get? s.objs e.expert).map (·.pinned)).getD false)

/-- Pool pages free of entries. -/
def poolFree (s : State) (pool : Nat) (o : Obj) : List Nat :=
  let used := (s.cold.filter (·.pool == pool)).flatMap (·.pages)
  (List.range o.pages.length).filter fun i => !used.contains i

/-- Entries given up, the one whose last use is oldest first, until `n` pages are free: `fuel` at most. -/
def makeRoom (pool : Nat) (o : Obj) (n : Nat) : Nat → State → Option State
  | 0, s => if n ≤ (poolFree s pool o).length then some s else none
  | f + 1, s =>
    if n ≤ (poolFree s pool o).length then some s
    else
      let l := s.cold.filter fun e => e.pool == pool && replaceable s e
      match l.foldl (fun (b : Option ColdEntry) e => match b with
          | some x => if elapsed e.lastUse s.clk.rackTime > elapsed x.lastUse s.clk.rackTime then some e else b
          | none => some e) none with
      | some e => makeRoom pool o n f { s with cold := s.cold.erase e }
      | none => none

/-- Does a descriptor await the fetch of an expert: early, or with demand after the gate stage (R143)? -/
def awaitsFetch (s : State) (d : Desc) : Bool :=
  !d.done && !d.withdrawn && d.host.isNone && dDir d.bytes == 0 && !gateWaits s d && !noDemand s d
    && (Tbl.get? s.objs d.handle).any isCold && !s.cold.any (fun x => x.expert == d.handle)

/-- The pool that a cold expert would land in, and the state with room made there. -/
def fetchRoom (s : State) (o : Obj) : Option (Nat × Obj × State) :=
  (poolOf s o.job).bind fun p => (makeRoom p.1 p.2 (pagesOf o.len) s.cold.length s).map fun s1 => (p.1, p.2, s1)

/-- The fetch that starts next: first come first served, of the first descriptor whose expert finds room (R143, R144, R181). -/
def coldNext (s : State) : Option (Nat × Desc) :=
  s.descs.find? fun e => awaitsFetch s e.2 && ((Tbl.get? s.objs e.2.handle).bind (fetchRoom s)).isSome

/-- COLD_FETCH_START (R143, R144). -/
def execColdFetchStart (j h pick : Nat) (s : State) : Out :=
  commit (
    match s.tiers[j]?, Tbl.get? s.objs h, coldNext s with
    | some e, some o, some (n, d) =>
      if !running s || e.failed || e.work != [] || d.handle != h then s
      else
        match fetchRoom s o with
        | none => s
        | some (pool, po, s1) =>
          let free := poolFree s1 pool po
          let rot := free.drop (pick % max 1 free.length) ++ free.take (pick % max 1 free.length)
          let entry : ColdEntry := { pool, expert := h, desc := n, pages := rot.take (pagesOf o.len), lastUse := s.clk.rackTime,
                                     landed := false, void := false }
          giveEngine j { mkTier .cold (d.queue, d.seq) h 0 with dst := pool }
            (onObj pool (fun x => { x with pool := true }) { s1 with cold := s1.cold ++ [entry] })
    | _, _, _ => s)

/-- COLD_FETCH_LANDED (R143, R144): the copy is in the pool; a void one holds no page of it. A word in error in the expert's home
fails the command, since there is no other copy (R178). -/
def execColdFetchLanded (j : Nat) (s : State) : Out :=
  commit (
    match engineJob s j with
    | none => s
    | some t =>
      if t.kind != .cold then s
      else
        match Tbl.get? s.objs t.handle, s.cold.find? fun e => e.expert == t.handle && !e.landed with
        | some o, some e =>
          let r := objRead o 0 o.len (noteMoved (payer s (t.queue, t.seq) t.void) o.len 0 s)
          let spans := (List.range e.pages.length).map fun i =>
            (entryAddr s e (i * pageSize), min pageSize (o.len - i * pageSize))
          let upd := fun (x : ColdEntry) => if x == e then { x with landed := true, lastUse := s.clk.rackTime } else x
          let s1 := writeSpansTo spans (if t.void then freeBytes s.fresh o.len else r.bytes) { r.st with fresh := s.fresh + 1 }
          let cold := if t.void || r.ue != [] then s1.cold.erase e else s1.cold.map upd
          let s2 := popEngine j { s1 with cold := cold }
          if r.ue = [] then s2
          else if t.void then postUe r.ue false 3 none o.job s2
          else failRunning (t.queue, t.seq) .uncorrectable (postUe r.ue false 1 none o.job s2)
        | _, _ => popEngine j s)

end Sys2Proof.Machine
end

