-- ==== Sys2Proof/Machine/Xfer.lean ====
section
/-! DEFINITION. XFER: its checks, raw addresses, and the descriptors it supplies (R156-R158, R165, R166, R176, R177, R182, R183, R228,
R285). -/
namespace Sys2Proof.Machine

def xferKind (p : Pkt) : Nat := byteAt p 32
def xferHost (p : Pkt) : Nat := fieldAt p 40 8
def xferLen (p : Pkt) : Nat := fieldAt p 48 8
def xferHandle (p : Pkt) : Nat := fieldAt p 56 4
def xferDev (p : Pkt) : Nat := fieldAt p 64 8

/-- Descriptors of KIND 2, from unit 1 on. -/
def xferDescs (p : Pkt) : List (List Byte) := (List.range (byteAt p 33)).map fun i => sliceB p (64 + 64 * i) 64

/-! ### The descriptor's own fields (R176, R182, R183) -/

/-- The job's first bound region, whose data area the descriptors of XFER address (DESIGN CHOICE, log 28: the packet names no image). -/
def xferRegion (s : State) (job : Nat) : Option Binding :=
  ((Tbl.get? s.jobs job).map (·.bindings)).bind fun l => l.find? fun b => b.base.isSome

/-- Offsets of the fields of a descriptor, and whether each breaks R182 or R183 on its own. -/
def descLocs (d : List Byte) : List (Nat × Bool) :=
  [(0, !(dDir d ≤ 1 && fieldAt d 0 2 < 512 && dClass d != 3 && (dGated d || !dEarly d)
        && !(dDir d = 1 && (dForm d || !dScatter d)))),
   (2, fieldAt d 2 2 ≥ 4096 || (!dGated d && fieldAt d 2 2 != 0)),
   (4, !dGated d && dGate d != 0),
   (5, !allZero (sliceB d 5 3)),
   (12, !(64 ≤ dPerTile d && dPerTile d ≤ 16777216 && dPerTile d % 64 = 0)),
   (16, dOff d % (if dForm d then 16 else 64) != 0),
   (24, bitsOf (fieldAt d 24 4) 18 14 != 0),
   (38, !allZero (sliceB d 38 2)),
   (48, !allZero (sliceB d 48 8)),
   (56, !allZero (sliceB d 56 8))]

/-- What R176 and R183 say of a descriptor and the object it names: FORM, GATED, CLASS and ALTDESC, which in XFER names one of the
packet's own descriptors (DESIGN CHOICE, log 28). -/
def descObjLocs (o : Obj) (all : List (List Byte)) (d : List Byte) : List (Nat × Bool) :=
  [(0, dForm d != o.compressed || (dGated d && o.type != 2)
        || (dClass d = 1 && !(o.plane = 2 && (o.type = 1 || o.type = 2))) || (dClass d = 2 && o.type != 2)),
   (44, dClass d = 2 && !(match all[dAlt d]? with | some a => sameTargets d a | none => false))]

/-- A remote handle (R285). -/
def isRemote (h : Nat) : Bool := bitAt h 31

/-- The first failing byte offset of a descriptor, in it. -/
def descLoc (s : State) (job : Nat) (all : List (List Byte)) (d : List Byte) : Option Nat :=
  let own := descLocs d
  let obj := if isRemote (dObj d) then [] else match liveObj s (dObj d) with
    | some o => if o.job = job then descObjLocs o all d else []
    | none => []
  let span := match xferRegion s job with
    | some b => [(24, dBank d + dPerTile d / 64 > b.dataUnits)]
    | none => []
  ((own ++ obj ++ span).find? (·.2)).map (·.1)

/-- Step 5 for an XFER (R228, R183). -/
def xferParams (s : State) (job : Nat) (p : Pkt) : Option Ref :=
  firstRef [refuseIf (xferKind p > 2) .badParam 32,
            refuseIf (xferKind p < 2 && byteAt p 33 != 0) .badParam 33,
            refuseIf (xferKind p = 2 && (byteAt p 33 = 0 || byteAt p 33 > 6)) .badParam 33,
            refuseIf (pktUnits p != (if xferKind p = 2 then byteAt p 33 else 1)) .badParam 8,
            if xferKind p = 2 then
              ((xferDescs p).zipIdx).findSome? fun x => (descLoc s job (xferDescs p) x.1).bind fun o => badParam (64 + 64 * x.2 + o)
            else none]

/-- Does the command name a bank (R218)? -/
def xferBank (s : State) (p : Pkt) : Bool :=
  if xferKind p = 2 then true
  else if xferHandle p = 0 then boardLocal s (xferDev p) && memKindOf (xferDev p % 2 ^ 46) == some .bank
  else match liveObj s (xferHandle p) with
    | some o => o.bankUnit.isSome
    | none => false

/-! ### Resources (R156-R158, R165, R166, R285) -/

/-- Units of 64 KiB of each bank that a job's image regions and its bank objects, but for released ones, hold. -/
def ownUnits (s : State) (job : Nat) : List Nat :=
  if (partOfJob s job).isSome then unitsOf s [job] fun o => !o.gone else []

/-- May a raw local span be reached: a bank's in the job's own units, HBM4 or DDR5 in pages of its own objects? -/
def rawOk (s : State) (job a n : Nat) : Bool :=
  match memKindOf a with
  | some .bank =>
    let tiles := match (partOfJob s job).bind (Tbl.get? s.parts) with | some p => partNos p | none => []
    let own := ownUnits s job
    (span (a / 65536) ((a + n - 1) / 65536)).all fun u => tiles.contains (u / 256) && own.contains (u % 256)
  | some _ =>
    let mine := (Tbl.vals s.objs).flatMap fun o => if o.job = job && !o.gone then o.pages else []
    (span (a / pageSize) ((a + n - 1) / pageSize)).all fun g => mine.contains (g * pageSize)
  | none => false

/-- The outcome of a part another one owns (R285, R286, R299). -/
def remoteRef (s : State) (q : Nat) : Option Ref :=
  firstRef [refuseIf (!enabled s q) .tenantBlocked, refuseIf (!(peerAt s q).up || !reachable s q) .peerLost]

/-- The outcome of the board peer's memory by raw address, for which only the board port serves (R283, R284, R286). -/
def boardRef (s : State) : Option Ref :=
  firstRef [remoteRef s (boardPeer s), refuseIf (!linked s 8) .peerLost]

/-- What an XFER names on the device, of KIND 0 and 1. -/
def deviceRef (s : State) (job : Nat) (p : Pkt) : Option Ref :=
  let h := xferHandle p
  let a := xferDev p
  let n := xferLen p
  if isRemote h then remoteRef s (bitsOf h 25 6)
  else if h != 0 then
    firstRef [nameObj s job h, match liveObj s h with
      | some o => refuseIf (a + (if o.compressed && xferKind p = 0 then 0 else n) > objExtent s o) .badAddr
      | none => none]
  else if a ≥ 2 ^ 47 then refuseIf true .badAddr
  else if boardLocal s a then refuseIf (!rawOk s job (a % 2 ^ 46) (max 1 n)) .badAddr
  else
    let far := fun (x : Nat) => let k := memKindOf x; k == some .hbm || k == some .ddr
    firstRef [boardRef s, refuseIf (!(far (a % 2 ^ 46) && far (a % 2 ^ 46 + max 1 n - 1))) .badAddr]

/-- What a descriptor of KIND 2 names. -/
def descRef (s : State) (job : Nat) (d : List Byte) : Option Ref :=
  if isRemote (dObj d) then remoteRef s (bitsOf (dObj d) 25 6) else nameObj s job (dObj d)

/-- Does every group of a mask lie in the partition (R117)? -/
def groupsInside (p : Part) (mask : Nat) : Bool :=
  (List.range 32).all fun g => !bitAt mask g || (p.first ≤ g && g < p.first + p.count)

/-- Step 7 for an XFER. -/
def xferResources (s : State) (job : Nat) (p : Pkt) : Option Ref :=
  if xferKind p < 2 then firstRef [refuseIf (!hostOk s (xferHost p) (xferLen p)) .badAddr, deviceRef s job p]
  else
    match (partOfJob s job).bind (Tbl.get? s.parts) with
    | none => refuseIf true .noPartition
    | some t =>
      firstRef [(xferDescs p).findSome? (descRef s job),
                refuseIf ((xferRegion s job).isNone || (xferDescs p).any fun d => !groupsInside t (dGroups d)) .badAddr]

/-! ### Its work -/

/-- A descriptor in work, of a command. -/
def mkDesc (k : Nat × Nat) (job : Nat) (part : Option Nat) (index entry : Nat) (b : List Byte) : Desc :=
  { queue := k.1, seq := k.2, job, part, index, entry, bytes := b, handle := dObj b, objOff := dOff b, base := 0, issued := false,
    readyAt := none, beyond := false, redirect := [], after := none, gated := false, len := descLen b (dGroups b), host := none, todo := [], stored := 0,
    remote := [], halted := none, restream := false, haltedPages := [], landed := [], deadline := none, withdrawn := false,
    altDone := false, void := false, counted := [], done := false }

/-- A descriptor put to work under the next number. -/
def addDesc (d : Desc) (s : State) : State :=
  stampReady { s with descs := Tbl.set s.descs s.nextDesc d, nextDesc := s.nextDesc + 1 }

/-- The one descriptor that stands for an XFER of KIND 0 or 1: DIR is KIND. -/
def hostDesc (k : Nat × Nat) (job : Nat) (p : Pkt) (s : State) : Desc :=
  let d := mkDesc k job (partOfJob s job) 0xFFFFFFFF 0xFFFF (BitVec.ofNat 8 (xferKind p) :: List.replicate 63 0)
  let e := { d with handle := xferHandle p, objOff := xferDev p, len := xferLen p, host := some (xferHost p), issued := true }
  { e with todo := allBlocks e, done := xferLen p == 0 }

/-- The descriptors of KIND 2 enter the queue's order (R185). -/
def addXferDescs (k : Nat × Nat) (job : Nat) (p : Pkt) (s : State) : State :=
  let base := ((xferRegion s job).bind (·.base)).getD 0
  (xferDescs p).foldl (fun (a : Option Nat × State) b =>
    let d := { mkDesc k job (partOfJob s job) 0xFFFFFFFF 0xFFFF b with base := base, after := a.1 }
    (if dChain b then some a.2.nextDesc else none, addDesc d a.2)) (none, s) |>.2

/-- An XFER's work starts: as a command, or as a stage of a chain. -/
def startXfer (k : Nat × Nat) (job : Nat) (p : Pkt) (s : State) : State :=
  let s1 := onCmd k (fun c => { c with started := true }) s
  if xferKind p = 2 then addXferDescs k job p s1 else settleXfer k (addDesc (hostDesc k job p s1) s1)

/-- Parameter bytes of XFER's layout. -/
def xferUsed (p : Pkt) : List (Nat × Nat) :=
  if xferKind p = 2 then [(32, 2), (64, 64 * byteAt p 33)] else [(32, 2), (40, 8), (48, 8), (56, 4), (64, 8)]

def xferSpec : OpSpec :=
  { op := 0x38, aq := false, sq := true, flags := 0, queued := false, used := xferUsed
    minUnits := fun p => if xferKind p < 2 then 1 else if xferKind p = 2 then byteAt p 33 else 0
    params := fun s _ p => xferParams s (pktJob p) p
    state := fun s q p => if jobStateOf s (pktJob p) == .saved && xferBank s p then conflict s q p else none
    resources := fun s _ p => xferResources s (pktJob p) p
    effect := fun c _ s => startXfer c.key c.job c.pkt s }

def execXfer (q : Nat) (p : Pkt) (pick : Nat) (s : State) : Out := commit (hostCommand xferSpec q p pick s)

end Sys2Proof.Machine
end

