-- ==== Sys2Proof/Machine/RunCheck.lean ====
section
/-! DEFINITION. RUN and RUN_CHAIN at acceptance: arguments, buffers, shapes, zero RUNs, slots, and the checks of every stage (R116,
R122-R124, R129, R164, R172, R226, R227, R285, R286, R313). -/
namespace Sys2Proof.Machine

/-! ### Arguments (R226) -/

def runImage (p : Pkt) : Nat := fieldAt p 32 4
def runModel (p : Pkt) : Nat := fieldAt p 36 2
def runNdim (p : Pkt) : Nat := byteAt p 38
def runNbuf (p : Pkt) : Nat := byteAt p 39
def runArgAddr (p : Pkt) : Nat := fieldAt p 48 8
def runArgLen (p : Pkt) : Nat := fieldAt p 56 4

/-- Bytes of the entries. -/
def argNeed (p : Pkt) : Nat := 8 * runNdim p + 16 * runNbuf p

def argBytes (s : State) (p : Pkt) : List Byte :=
  if runArgAddr p = 0 then p.drop 64 else readHost s (runArgAddr p) (argNeed p)

/-- ERRLOC of an argument byte. -/
def argLoc (p : Pkt) (off : Nat) : Nat := if runArgAddr p = 0 then 64 + off else noLoc

def dimEntries (s : State) (p : Pkt) : List (List Byte) := (List.range (runNdim p)).map fun i => sliceB (argBytes s p) (8 * i) 8

def bufEntries (s : State) (p : Pkt) : List (List Byte) :=
  (List.range (runNbuf p)).map fun i => sliceB (argBytes s p) (8 * runNdim p + 16 * i) 16

/-- Dimension values. -/
def argDims (s : State) (p : Pkt) : Tbl Nat :=
  (dimEntries s p).foldl (fun t e => if Tbl.has t (fieldAt e 0 2) then t else Tbl.set t (fieldAt e 0 2) (fieldAt e 4 4)) []

/-- A buffer entry bound to its object: with CHAIN the one at that index of the previous stage's buffer list. -/
def bufArg (prev : Option (List BufArg)) (e : List Byte) : Option BufArg :=
  if bitAt (byteAt e 2) 0 then (prev.bind fun l => l[byteAt e 4]?).map fun b =>
    { sym := fieldAt e 0 2, handle := b.handle, off := fieldAt e 8 8 }
  else some { sym := fieldAt e 0 2, handle := fieldAt e 4 4, off := fieldAt e 8 8 }

def argBufs (s : State) (p : Pkt) (prev : Option (List BufArg)) : List BufArg := (bufEntries s p).filterMap (bufArg prev)

/-- A RUN runs Stepped with its flag, and always in SERVICE (R137). -/
def steppedRun (s : State) (p : Pkt) : Bool := pktFlag p 0 || s.glb.state == .service

/-- The arguments themselves: their place, and the entries' reserved bits and CHAIN marks. -/
def argParams (s : State) (p : Pkt) (prev : Option (List BufArg)) : Option Ref :=
  let dims := (dimEntries s p).zipIdx
  let bufs := (bufEntries s p).zipIdx
  firstRef [refuseIf (runModel p > 1023 && runModel p != 0xFFFF) .badParam 36,
            refuseIf (!pktFlag p 0 && fieldAt p 40 8 != 0) .badParam 40,
            refuseIf (runArgAddr p = 0 && 64 + argNeed p > 64 + 64 * pktUnits p) .badParam 38,
            refuseIf (runArgLen p > 65536 || (runArgAddr p != 0 && argNeed p > runArgLen p)) .badParam 56,
            refuseIf (runArgAddr p != 0 && !hostOk s (runArgAddr p) (argNeed p)) .badAddr,
            dims.findSome? fun e => refuseIf (fieldAt e.1 2 2 != 0) .badParam (argLoc p (8 * e.2 + 2)),
            bufs.findSome? fun e =>
              let at_ := argLoc p (8 * runNdim p + 16 * e.2 + 2)
              firstRef [refuseIf (fieldAt e.1 2 2 > 1) .badParam at_, refuseIf ((bufArg prev e.1).isNone) .badParam at_,
                        refuseIf (bitAt (byteAt e.1 2) 0 && fieldAt e.1 5 3 != 0) .badParam at_]]

/-! ### Buffers and the model (R164, R165, R172, R183, R226) -/

/-- The model and LIVE slot a RUN binds. -/
def runSlot (s : State) (job : Nat) (p : Pkt) : Option (Nat × Bool) :=
  if runModel p = 0xFFFF then none else (liveSlot (modelAt s job (runModel p))).map fun b => (runModel p, b)

/-- The templates of an image, and the buffer symbols they use. -/
def templates (b : List Byte) : List (List Byte) := (List.range (imgStreams b)).map (imgStream b)
def usedSyms (b : List Byte) : List Nat := ((templates b).map dObj).eraseDups

/-- The object and offset a symbol is bound to: the RUN's entry, else the model's member. -/
def symBind (s : State) (job : Nat) (bufs : List BufArg) (slot : Option (Nat × Bool)) (sym : Nat) : Option (Nat × Nat) :=
  match bufs.find? (·.sym == sym) with
  | some x => some (x.handle, x.off)
  | none => slot.bind fun m => (Tbl.get? (slotOf (modelAt s job m.1) m.2).members sym).map fun h => (h, 0)

/-- A template's object, of a RUN. -/
def templateObj (s : State) (job : Nat) (bufs : List BufArg) (slot : Option (Nat × Bool)) (d : List Byte) : Option Obj :=
  (symBind s job bufs slot (dObj d)).bind fun h => (liveObj s h.1).filter fun o => o.job = job

/-- The first entry, from byte `off` of the arguments on, whose SYMID names no symbol of its kind or one that an earlier entry names
(R122, R226; for buffers and for a second entry DEDUCED: log 29). -/
def badSym (p : Pkt) (off size : Nat) (known : Nat → Bool) (ids : List Nat) : Option Ref :=
  ids.zipIdx.findSome? fun e => refuseIf (!known e.1 || (ids.take e.2).contains e.1) .badParam (argLoc p (off + size * e.2))

/-- An entry for no buffer of the image, a symbol without an entry, an object in the wrong form, or a stream from an object pinned
outside HBM. -/
def bufParams (s : State) (job : Nat) (p : Pkt) (bufs : List BufArg) (img : List Byte) : Option Ref :=
  let slot := runSlot s job p
  let open_ := runModel p != 0xFFFF && slot.isNone
  let pinnedLow := fun (d : List Byte) (o : Obj) => dDir d == 0 && o.pinned && o.pages.any fun a => !inHbm a
  firstRef [badSym p (8 * runNdim p) 16 (isBuf img) ((bufEntries s p).map (fieldAt · 0 2)),
            refuseIf (!open_ && (usedSyms img).any fun y => (symBind s job bufs slot y).isNone) .badParam 39,
            refuseIf ((templates img).any fun d => match templateObj s job bufs slot d with
              | some o => dForm d != o.compressed || pinnedLow d o
              | none => false) .badParam 39]

/-! ### Shapes (R122, R129) -/

/-- GATE parameter blocks in the preloads of an image. -/
def preloadGates (b : List Byte) : List GateP :=
  (List.range (imgNcfg b)).flatMap fun cfg => (List.range (48 * imgNcg b)).flatMap fun pos =>
    let m := memOfBytes (imgBlock b cfg pos)
    (List.range (blkNops m)).filterMap fun pc =>
      let w := blkOp m pc
      if opCode w = 0x0A && inPreload m (gatePaddr w) then
        some (gateParams (Mem.read m (0xC00 + 64 * (gatePaddr w - blkPreBase m)) 64))
      else none

/-- CAPDIM of the first such block whose capacity it does not hold. -/
def badCap (b : List Byte) (dims : Tbl Nat) : Option Nat :=
  ((preloadGates b).find? fun g =>
    Tbl.getD dims g.capDim 0 != capacity (imgCf b) (Tbl.getD dims g.tokDim 0) g.kmean g.e).map (·.capDim)

/-- The RESULT of SHAPE_OVER (R226). -/
def shapeResult (sym v mx : Nat) : List Byte := leBytes 2 sym ++ [0, 0] ++ leBytes 4 v ++ leBytes 4 mx

/-- The lowest dimension over its MAX. -/
def overShape (b : List Byte) (dims : Tbl Nat) : Option (Nat × Nat × Nat) :=
  dims.findSome? fun e => match dimMax b e.1 with
    | some m => if e.2 > m then some (e.1, e.2, m) else none
    | none => none

/-- Checks 1 and 2 of R122, then R129. A value for no dimension fails at its entry, a missing value at NDIM (DEDUCED: log 29). -/
def shapeParams (s : State) (p : Pkt) (b : List Byte) (dims : Tbl Nat) : Option Ref :=
  firstRef [badSym p 0 8 (isDim b) ((dimEntries s p).map (fieldAt · 0 2)),
            refuseIf ((imgDims b).any fun y => !Tbl.has dims y.id) .badParam 38,
            (overShape b dims).map fun x => { st := .shapeOver, result := shapeResult x.1 x.2.1 x.2.2 },
            (badCap b dims).bind fun y =>
              badParam (argLoc p (8 * ((dimEntries s p).findIdx fun e => fieldAt e 0 2 == y) + 4))]

/-- Check 3 of R122. -/
def isZeroRun (r : RunInfo) : Bool := r.baseDims.any (·.2 == 0)

/-! ### One RUN: a command or a stage -/

/-- Step 5. An image of the job that is not bound to it fails here; in a job state that step 6 refuses, that check is left to step 6
(R212, R218, R226; DEDUCED: log 29). -/
def runParams (s : State) (job : Nat) (p : Pkt) (prev : Option (List BufArg)) : Option Ref :=
  firstRef [argParams s p prev,
            if (nameImage s job (runImage p)).isSome then none
            else if (bindingOf s job (runImage p)).isNone then
              refuseIf ([JobState.opened, .active].contains (jobStateOf s job)) .badParam 32
            else
              let img := imgOf s (runImage p)
              firstRef [bufParams s job p (argBufs s p prev) img, shapeParams s p img (argDims s p)]]

/-- Step 6: a model without a LIVE slot. -/
def runState (s : State) (q : Nat) (job : Nat) (p : Pkt) : Option Ref :=
  if runModel p != 0xFFFF && (runSlot s job p).isNone then modelConflict s q p (modelAt s job (runModel p)) else none

/-- Step 7: the partition, the image, the plan's peers, and what the buffers name. -/
def runResources (s : State) (job : Nat) (p : Pkt) (prev : Option (List BufArg)) : Option Ref :=
  let one := fun (b : BufArg) => if isRemote b.handle then remoteRef s (bitsOf b.handle 25 6) else nameObj s job b.handle
  firstRef [nameImage s job (runImage p), refuseIf (partOfJob s job).isNone .noPartition,
            refuseIf (match planOf s job with | some l => l.peers.any fun q => !enabled s q.1 | none => false) .tenantBlocked,
            (argBufs s p prev).findSome? one]

/-- Huddles that a RUN of a job takes part in (R147). -/
def planHuddles (s : State) (job : Nat) : Nat := ((planOf s job).map fun p => p.huddles.length).getD 0

/-- What an accepted RUN executes. -/
def newRun (s : State) (job : Nat) (p : Pkt) (prev : Option (List BufArg)) (hseq : Nat) : RunInfo :=
  { image := runImage p, slot := runSlot s job p, dims := argDims s p, baseDims := argDims s p, bufs := argBufs s p prev,
    stepped := steppedRun s p, report := fieldAt p 40 8, entry := 0, inInning := false, restart := false, huddleDone := false,
    loops := 0, finished := false, executed := 0, huddleIdx := 0, hseqBase := hseq, nextHold := 0, hold := none,
    freeCycle := false, drops := [], substs := [], degraded := [], cheaper := false, demand := [], plans := [], gates := [] }

/-- A RUN's slot is bound and its huddles numbered (R147, R172). -/
def takeRun (job : Nat) (r : RunInfo) (s : State) : State :=
  let s1 := match r.slot with | some m => bindSlot job m.1 m.2 s | none => s
  onJob job (fun b => { b with hseq := b.hseq + planHuddles s job }) s1

/-- Parameter bytes of RUN's layout. -/
def runUsed (p : Pkt) : List (Nat × Nat) := (32, 28) :: if runArgAddr p = 0 then [(64, argNeed p)] else []

/-- A heavy header hint (R313): the partition's fill rises from acceptance on. -/
def headerHint (c : Cmd) (s : State) : State :=
  match (partOfJob s c.job).bind (Tbl.get? s.parts) with
  | some p => if bitAt c.hints 0 then hintRise p.first (demandOf s p) s else s
  | none => s

/-- A zero RUN sends its headers and is over (R124). -/
def zeroRun (k : Nat × Nat) (job part : Nat) (r : RunInfo) (s : State) : State :=
  unqueue k (decide_ k .ok (runResult r) (scheduleHeaders job part r.hseqBase 0 true s))

def runSpec : OpSpec :=
  { op := 0x30, aq := false, sq := true, flags := 1, minUnits := fun _ => 0, queued := true, used := runUsed
    params := fun s _ p => runParams s (pktJob p) p none
    state := fun s q p => runState s q (pktJob p) p
    resources := fun s _ p => runResources s (pktJob p) p none
    effect := fun c _ s =>
      let r := newRun s c.job c.pkt none (((Tbl.get? s.jobs c.job).map (·.hseq)).getD 0)
      let s1 := onCmd c.key (fun c => { c with run := some r }) (takeRun c.job r s)
      if isZeroRun r then zeroRun c.key c.job ((partOfJob s c.job).getD 0) r s1 else headerHint c s1 }

def execRun (q : Nat) (p : Pkt) (pick : Nat) (s : State) : Out := commit (hostCommand runSpec q p pick s)

/-! ### RUN_CHAIN (R116, R227) -/

def chainLen (p : Pkt) : Nat := byteAt p 32
def chainTable (p : Pkt) : Nat := fieldAt p 40 8

/-- Entry `i` of the stage table. -/
def stageEntry (s : State) (p : Pkt) (i : Nat) : List Byte := readHost s (chainTable p + 16 * i) 16

/-- The packet image of a stage. -/
def stagePkt (s : State) (p : Pkt) (i : Nat) : Pkt :=
  let e := stageEntry s p i
  readHost s (fieldAt e 8 8) (64 + 64 * min 7 (byteAt e 1))

/-- Buffer lists by stage: of the stages before one, its CHAIN entries resolved. An XFER has none. -/
def stageBufs (s : State) (p : Pkt) (n : Nat) : List (List BufArg) :=
  (List.range n).foldl (fun (l : List (List BufArg)) i =>
    let k := stagePkt s p i
    l ++ [if byteAt (stageEntry s p i) 0 = 0x30 then argBufs s k (if i = 0 then none else some (l.getD (i - 1) [])) else []]) []

/-- What a stage finds before it. -/
def stagePrev (s : State) (p : Pkt) (i : Nat) : Option (List BufArg) :=
  if i = 0 then none else some ((stageBufs s p i).getD (i - 1) [])

/-- RESULT of a stage that fails: byte 16 names the stage, whatever the status (R116, R227). Beside it stand what the status returns
(R219, R226): of SHAPE_OVER the SYMID at 18, the value at 20 and MAX at 24; of STATE_CONFLICT the job's state and the rest at 17 to 21
as R219 places them, the device's at 22 (DESIGN CHOICE: log 29). -/
def stageResult (i : Nat) (st : Status) (r : List Byte) : List Byte :=
  [BitVec.ofNat 8 i] ++
    (if st = .shapeOver then [0] ++ sliceB r 0 2 ++ r.drop 4 else if st = .stateConflict then r.drop 1 ++ r.take 1 else [])

/-- A stage's refusal: its table entry and packet image lie in host memory, and RESULT names the stage (R209, R227). -/
def stageRef (i : Nat) (r : Ref) : Ref := { r with loc := noLoc, result := stageResult i r.st r.result }

/-- The header and the parameters of a stage. -/
def stageParams (s : State) (q job : Nat) (p : Pkt) (i : Nat) : Option Ref :=
  let e := stageEntry s p i
  let k := stagePkt s p i
  let op := byteAt e 0
  let sp := if op = 0x30 then runSpec else xferSpec
  firstRef [refuseIf ((op != 0x30 && op != 0x38) || byteAt e 1 > 7 || !allZero (sliceB e 2 6)) .badParam,
            refuseIf (!hostOk s (fieldAt e 8 8) (64 + 64 * byteAt e 1)) .badAddr,
            refuseIf (byteAt k 0 != op || pktUnits k != byteAt e 1 || pktJob k != job || (headerLocs sp q k).any (·.2)
              || (reservedLoc (sp.used k) k).isSome) .badParam,
            if op = 0x30 then runParams s job k (stagePrev s p i) else xferParams s job k]

/-- Every stage's check, with the stage named. -/
def eachStage (p : Pkt) (f : Nat → Option Ref) : Option Ref :=
  (List.range (chainLen p)).findSome? fun i => (f i).map (stageRef i)

/-- A stage as accepted, on the way HSEQ and the slots. -/
def takeStage (c : Cmd) (a : List Stage × State) (i : Nat) : List Stage × State :=
  let s := a.2
  let k := stagePkt s c.pkt i
  if byteAt (stageEntry s c.pkt i) 0 = 0x30 then
    let r := newRun s c.job k (stagePrev s c.pkt i) (((Tbl.get? s.jobs c.job).map (·.hseq)).getD 0)
    (a.1 ++ [{ pkt := k, run := some r }], takeRun c.job r s)
  else (a.1 ++ [{ pkt := k, run := none }], s)

def runChainSpec : OpSpec :=
  { op := 0x31, aq := false, sq := true, flags := 0, minUnits := fun _ => 0, queued := true, used := fun _ => [(32, 1), (40, 8)]
    params := fun s q p =>
      firstRef [refuseIf (chainLen p < 2 || chainLen p > 8) .badParam 32,
                refuseIf (!hostOk s (chainTable p) (16 * chainLen p)) .badAddr,
                eachStage p (stageParams s q (pktJob p) p)]
    state := fun s q p => eachStage p fun i =>
      if byteAt (stageEntry s p i) 0 = 0x30 then runState s q (pktJob p) (stagePkt s p i) else none
    resources := fun s _ p =>
      firstRef [refuseIf (partOfJob s (pktJob p)).isNone .noPartition,
                eachStage p fun i =>
                  let k := stagePkt s p i
                  if byteAt (stageEntry s p i) 0 = 0x30 then runResources s (pktJob p) k (stagePrev s p i)
                  else xferResources s (pktJob p) k]
    effect := fun c _ s =>
      let l := (List.range (chainLen c.pkt)).foldl (takeStage c) ([], s)
      headerHint c (onCmd c.key (fun c => { c with stages := l.1 }) l.2) }

def execRunChain (q : Nat) (p : Pkt) (pick : Nat) (s : State) : Out := commit (hostCommand runChainSpec q p pick s)

end Sys2Proof.Machine
end

