-- ==== Sys2Proof/Machine/Stepped.lean ====
section
/-! DEFINITION. The end of a Stepped hold: STEP_CONTINUE and the step timeout (R138-R141, R227). -/
namespace Sys2Proof.Machine

/-- The held RUN a STEP_CONTINUE names: its command, RUN and hold. -/
def heldRun (s : State) (p : Pkt) : Option (Cmd × RunInfo × Hold) :=
  match cmdAt s (byteAt p 36, fieldAt p 32 4) with
  | none => none
  | some c =>
    if c.done.isSome || c.job != pktJob p then none
    else (curRun c).bind fun r => r.hold.map fun h => (c, r, h)

/-- The hold's GATEs, one of each lane, those with REPORT = 1 first. -/
def heldLanes (s : State) (c : Cmd) (h : Hold) : List GateHold :=
  match c.part.bind (Tbl.get? s.parts) with
  | some p => laneHolds (reportHolds s p h.gateId ++ gateHolds s p h.gateId)
  | none => []

/-- The tile that holds a GATE. -/
def tileOfHold (s : State) (p : Part) (h : GateHold) : Option (Nat × Nat) :=
  (partTiles p).find? fun t => (tileAt s (tileNo t.1 t.2)).gateHold.contains h

/-- C of the held gate (R129). -/
def heldCapacity (s : State) (c : Cmd) (r : RunInfo) (h : Hold) : Nat :=
  match c.part.bind (Tbl.get? s.parts), (heldLanes s c h).head? with
  | some p, some g =>
    match (tileOfHold s p g).bind fun t => ctxAt s t.1 t.2 with
    | some x =>
      let b := gateParams (unitRead x s false (gatePaddr g.word.toNat) 0 64)
      capacity (imgCf (imgOf s r.image)) (Tbl.getD r.dims b.tokDim 0) b.kmean b.e
    | none => 0
  | _, _ => 0

/-- R_e of the plan. -/
def planRows (s : State) (p : Pkt) : List Nat :=
  (List.range (fieldAt p 44 2)).map fun e => leNat (readHost s (fieldAt p 48 8 + 4 * e) 4)

/-- Dimension entries of the packet. -/
def stepDims (p : Pkt) : List (List Byte) := (List.range (byteAt p 38)).map fun i => sliceB p (64 + 8 * i) 8

/-- The lane plans of R140: for each lane, BASE and CAP of each expert. A lane that no GATE holds has counted nothing. -/
def lanePlans (hs : List GateHold) (rows : List Nat) : List (List (Nat × Nat)) :=
  ((List.range ((hs.head?.map (·.nlane)).getD 0)).foldl (fun (a : List (List (Nat × Nat)) × List Nat) k =>
    let counts := ((hs.find? (·.lane == k)).map (·.counts)).getD []
    let l := (rows.zipIdx).map fun x => (a.2.getD x.2 0, min (counts.getD x.2 0) (x.1 - a.2.getD x.2 0))
    (a.1 ++ [l], l.map fun b => b.1 + b.2)) ([], List.replicate rows.length 0)).1

/-- Every held GATE of a gate id runs its emission pass. -/
def releaseGates (p : Part) (gateId : Nat) (lanes : List (List (Nat × Nat))) (s : State) : State :=
  (partTiles p).foldl (fun a t =>
    ((tileAt a (tileNo t.1 t.2)).gateHold.filter fun h => h.gateId == gateId).foldl (fun b h =>
      match ctxAt b t.1 t.2 with
      | some x => gateResume x h lanes b
      | none => b) a) s

/-- Step 5 for STEP_CONTINUE. -/
def stepParams (s : State) (p : Pkt) : Option Ref :=
  let dims := (stepDims p).zipIdx
  firstRef [refuseIf (byteAt p 38 > 16) .badParam 38, refuseIf (8 * byteAt p 38 > 64 * pktUnits p) .badParam 8,
            match heldRun s p with
            | none => refuseIf true .badParam 40
            | some (c, r, h) =>
              let img := imgOf s r.image
              let lanes := heldLanes s c h
              let most := (lanes.head?.map (·.nlane)).getD 0 * heldCapacity s c r h
              firstRef [refuseIf (fieldAt p 40 4 != h.holdId) .badParam 40,
                        refuseIf (fieldAt p 44 2 != (lanes.head?.map (·.experts)).getD 0) .badParam 44,
                        refuseIf (!hostOk s (fieldAt p 48 8) (4 * fieldAt p 44 2)) .badAddr,
                        refuseIf ((planRows s p).any fun n => n > most) .badParam noLoc,
                        dims.findSome? fun e =>
                          refuseIf (!isDim img (fieldAt e.1 0 2) || fieldAt e.1 2 2 != 0 || fieldAt e.1 4 4 = 0) .badParam (64 + 8 * e.2),
                        dims.findSome? fun e => match dimMax img (fieldAt e.1 0 2) with
                          | some m => if fieldAt e.1 4 4 > m then
                              some { st := .shapeOver, result := shapeResult (fieldAt e.1 0 2) (fieldAt e.1 4 4) m } else none
                          | none => none]]

/-- What an accepted STEP_CONTINUE does (R140). -/
def stepEffect (c : Cmd) (s : State) : State :=
  match heldRun s c.pkt with
  | none => decide_ c.key .badParam [] s
  | some (rc, r, h) =>
    let hs := heldLanes s rc h
    let plan := lanePlans hs (planRows s c.pkt)
    let dims := (stepDims c.pkt).foldl (fun t e => Tbl.set t (fieldAt e 0 2) (fieldAt e 4 4)) r.baseDims
    let r1 := { r with hold := none, freeCycle := true, dims := dims,
                       plans := Tbl.set r.plans h.gateId (Tbl.getD r.plans h.gateId [] ++ [plan]) }
    let s1 := onCmd rc.key (fun x => setRun x r1) s
    match rc.part.bind (Tbl.get? s.parts) with
    | none => decide_ c.key .ok [] s1
    | some p =>
      let s2 := demandShown (releaseGates p h.gateId plan s1)
      decide_ c.key .ok [] (onPart p.first (fun x => { x with held := x.held && anyHeldGate s2 p }) s2)

def stepContinueSpec : OpSpec :=
  { op := 0x32, aq := false, sq := true, flags := 0, minUnits := fun _ => 0, queued := false,
    used := fun p => [(32, 5), (38, 1), (40, 6), (48, 8), (64, 8 * min 16 (byteAt p 38))]
    params := fun s _ p => stepParams s p
    state := fun _ _ _ => none
    resources := fun _ _ _ => none
    effect := fun c _ s => stepEffect c s }

def execStepContinue (q : Nat) (p : Pkt) (pick : Nat) (s : State) : Out := commit (hostCommand stepContinueSpec q p pick s)

/-- STEP_TIMEOUT (R141): 10 s after the ROUTE_REPORT entry the held RUN fails. -/
def execStepTimeout (part : Nat) (s : State) : Out :=
  commit (
    match runningRun s part with
    | none => s
    | some (_, c, r) =>
      match r.hold.bind (·.postedAt) with
      | some t => if passed s t (msUnits 10000) then failRunning c.key .stepTimeout s else s
      | none => s)

end Sys2Proof.Machine
end

