-- ==== Sys2Proof/Machine/Record.lean ====
section
/-! DEFINITION. The records that a save set and the fatal dump are made of: tile records, queue states and partition summaries
(R248, R337). The spec lists their contents in order; the places and widths inside each part are the model's (DESIGN CHOICE: log 41). -/
namespace Sys2Proof.Machine

/-- Bytes cut or filled with zeros to `n`. -/
def padTo (n : Nat) (b : List Byte) : List Byte := b.take n ++ List.replicate (n - b.length) 0

/-- Parts of a record placed at offsets. -/
def placeParts (l : List (Nat × List Byte)) : Mem := l.foldl (fun m x => Mem.paste m x.1 x.2.length (memOfBytes x.2)) []

/-! ### Tile records (R248) -/

/-- The block of the slot in use. -/
def slotBlock (t : Tile) : Mem := ((t.slots[t.slot]?).map (·.mem)).getD []

/-- LOAD, COMPUTE, DRAIN as 0, 1, 2. -/
def phaseNo (p : Phase) : Nat := match p with | .load => 0 | .compute => 1 | .drain => 2

/-- What the record of a tile says beside the tile itself: logical place, physical die, column and row, slot index, and the innings
entry and loop count of a suspended RUN. -/
structure TilePlace where
  c : Nat
  r : Nat
  phys : Nat × Nat × Nat
  slotIdx : Nat
  entry : Nat
  loops : Nat
  deriving DecidableEq, Repr

/-- The header of a tile record: 4 KiB. -/
def recordHeader (x : TilePlace) (t : Tile) : Mem :=
  let tag := fun (y : Slot) => match y.tag with
    | some g => leBytes 4 g.1 ++ leBytes 2 g.2 ++ [1, 0]
    | none => List.replicate 8 0
  placeParts [
    (0x00, [BitVec.ofNat 8 x.c, BitVec.ofNat 8 x.r, BitVec.ofNat 8 x.phys.2.1, BitVec.ofNat 8 x.phys.2.2,
            BitVec.ofNat 8 (phaseNo t.phase), BitVec.ofNat 8 t.slot, BitVec.ofNat 8 x.phys.1, 0]),
    (0x08, (t.slots.take 4).flatMap tag),
    (0x28, leBytes 8 x.slotIdx ++ leBytes 8 t.loads ++ leBytes 8 t.i0 ++ leBytes 8 t.i1),
    (0x48, leBytes 4 x.entry ++ leBytes 4 x.loops),
    (0x100, Mem.read (slotBlock t) 0x300 0x100)]

/-- A steering unit: counts, armed state, then the FIFOs. -/
def steerBytes (u : SteerU) : List Byte :=
  [BitVec.ofNat 8 u.ctl.length, BitVec.ofNat 8 u.data.length, BitVec.ofNat 8 (ofBool u.stopped), 0] ++ leBytes 4 u.armed
    ++ padTo 32 (u.ctl.flatMap fun w => leBytes 4 w.toNat) ++ padTo 8 (u.ctlCid.map (BitVec.ofNat 8 ·))
    ++ padTo 8 (u.dataCid.map (BitVec.ofNat 8 ·)) ++ padTo 8 (u.data.map fun d => BitVec.ofNat 8 (ofBool d.2))
    ++ padTo 512 (u.data.flatMap fun d => lineBytes d.1)

/-- The router of a tile record: 16 KiB. -/
def recordRouter (t : Tile) : Mem :=
  let b := slotBlock t
  placeParts [
    (0x000, Mem.read b 0x40 0x80), (0x080, Mem.read b 0xC0 0x80), (0x100, Mem.read b 0x140 0x80),
    (0x180, (List.range 64).flatMap fun k => leBytes 2 (Tbl.getD t.credits k 0)),
    (0x200, (t.queues.take 5).flatMap fun q => padTo 64 (q.flatMap fun w => [BitVec.ofNat 8 w.cid, BitVec.ofNat 8 (1 + ofBool w.last)])),
    (0x400, (t.queues.take 5).flatMap fun q => padTo 2048 (q.flatMap fun w => lineBytes w.data)),
    (0x2C00, (t.steer.take 2).flatMap fun u => padTo 0x400 (steerBytes u))]

/-- A weight block: format code, 2:4, the lengths of its three parts, and these. -/
def weightBytes (w : WBlock) : List Byte :=
  let code := ((List.range 16).find? fun n => fmtOf n == some w.fmt).getD 0
  padTo 0x1400 ([BitVec.ofNat 8 code, BitVec.ofNat 8 (ofBool w.sparse)] ++ leBytes 2 w.elems.length ++ leBytes 2 w.index.length
    ++ leBytes 2 w.scales.length ++ w.elems ++ w.index ++ w.scales)

/-- The array of a tile record: 16 KiB. -/
def recordArray (t : Tile) : Mem :=
  let conv := match t.conv.params with
    | some (k, s, d, ch) => leBytes 2 k ++ leBytes 2 s ++ leBytes 2 d ++ leBytes 2 ch
    | none => List.replicate 8 0
  let flags := fun (n : Nat) (f : Nat → Bool) => leBytes (n / 8) (((List.range n).map fun i => 2 ^ i * ofBool (f i)).sum)
  placeParts [
    (0x0000, weightBytes t.active), (0x1400, ((t.pending.map weightBytes).getD [])),
    (0x2800, [BitVec.ofNat 8 (ofBool t.pending.isSome), BitVec.ofNat 8 (ofBool t.refineSkipped)] ++ leBytes 2 t.conv.elems.length ++ conv
      ++ padTo 0x400 (t.conv.elems.flatMap (leBytes 2 ·))),
    (0x3000, padTo 0x400 (t.srArray.flatMap fun w => leBytes 4 w.toNat)), (0x3400, padTo 0x400 (t.srVector.flatMap fun w => leBytes 4 w.toNat)),
    (0x3800, flags 1024 fun u => Mem.zeroIn t.rf (64 * u) 64), (0x3900, flags 4096 fun u => t.voids.contains u)]

/-- A tile record: header, router, array, register file, config store and accumulator memory, each numbered from its own start. -/
def recordParts (x : TilePlace) (t : Tile) : List (Nat × Nat × Mem) :=
  [(0, 0x1000, recordHeader x t), (0x1000, 0x4000, recordRouter t), (0x5000, 0x4000, recordArray t), (0x9000, 0x7000, []),
   (0x10000, 0x10000, t.rf)]
  ++ (t.slots.zipIdx).map (fun y => (0x20000 + 0x8000 * y.2, 0x8000, y.1.mem)) ++ [(0x40000, 0x40000, t.acc)]

/-- The place of a tile of a partition, with the RUN that counts for it. -/
def placeOf (s : State) (p : Part) (run : Option RunInfo) (c r : Nat) : TilePlace :=
  { c, r, phys := physTile s c r, slotIdx := p.slotIdx, entry := (run.map (·.entry)).getD 0, loops := (run.map (·.loops)).getD 0 }

/-! ### Queue states and partition summaries (R337) -/

/-- One 128 B queue record: base, size, the X4's index, the doorbell last written, phase, up to 8 SEQs, job. -/
def queueRecord (base size head tail : Nat) (phase : Bool) (seqs : List Nat) (job : Nat) : List Byte :=
  padTo 128 (leBytes 8 base ++ leBytes 4 size ++ leBytes 4 head ++ leBytes 4 tail
    ++ [BitVec.ofNat 8 (ofBool phase), BitVec.ofNat 8 (min 8 seqs.length), 0, 0] ++ padTo 32 ((seqs.take 8).flatMap (leBytes 4 ·)) ++ leBytes 2 job)

/-- The submission ring `q`, and its completion ring. -/
def sqRecord (s : State) (q : Nat) : List Byte :=
  match Tbl.get? s.queues q with
  | some k => queueRecord k.base k.size k.head k.tail false ((s.cmds.filter fun c => c.queue == q && c.done.isNone).map (·.seq)) k.job
  | none => List.replicate 128 0
def cqRecord (s : State) (q : Nat) : List Byte :=
  match Tbl.get? s.queues q with
  | some k => queueRecord k.cqBase k.cqSize k.cqTail k.cqHead k.cqPhase [] k.job
  | none => List.replicate 128 0

/-- Queue states: AQ, ACQ, SQ0-SQ63, their completion queues, the event queue. -/
def queueStates (s : State) : List Byte :=
  sqRecord s 64 ++ cqRecord s 64 ++ (List.range 64).flatMap (sqRecord s) ++ (List.range 64).flatMap (cqRecord s)
    ++ queueRecord s.evq.base.toNat (2 ^ s.evq.size.toNat) s.evq.tail s.evq.head s.evq.phase [] 0

/-- The phase of the tiles of an alternating group in a partition (R85), 0xFF where it has none. -/
def groupPhase (s : State) (p : Part) (g : Nat) : Byte :=
  match (partNos p).find? fun i => blkGroup (slotBlock (tileAt s i)) == g with
  | some i => BitVec.ofNat 8 (phaseNo (tileAt s i).phase)
  | none => 0xFF

/-- The 4 KiB summary of a partition. -/
def partSummary (s : State) (p : Part) : List Byte :=
  let c := p.running.bind (cmdAt s)
  let run := c.bind curRun
  let ds := (Tbl.vals s.descs).filter fun d => some (d.queue, d.seq) == p.running && !d.done && !d.withdrawn
  padTo 0x80 (leBytes 2 p.members.length ++ p.members.flatMap (leBytes 2 ·))
    ++ leBytes 4 ((c.map (·.seq)).getD 0) ++ [BitVec.ofNat 8 ((c.map (·.queue)).getD 0xFF), 0, 0, 0]
    ++ leBytes 4 ((run.map (·.entry)).getD 0) ++ leBytes 4 ((run.map (·.loops)).getD 0) ++ (List.range 8).map (groupPhase s p)
    ++ leBytes 8 ds.length ++ (ds.take 490).flatMap fun d => leBytes 4 d.index ++ leBytes 4 d.todo.length

/-- Queue states and summaries, as they stood when the fault was posted, put into the dump area. -/
def dumpStates (s : State) (m : Mem) : Mem :=
  let m1 := Mem.paste m 0x110000 0x10000 (memOfBytes (queueStates s))
  (Tbl.vals s.parts).foldl (fun a p => Mem.paste a (0x130000 + 4096 * p.first) 4096 (memOfBytes (partSummary s p)))
    (Mem.clear m1 0x130000 0x20000)

end Sys2Proof.Machine
end

