-- ==== Sys2Proof/Machine/Ctx.lean ====
section
/-! DEFINITION. Context save and restore (R244, R247-R253). -/
namespace Sys2Proof.Machine

/-! ### The partition queue (R244) -/

/-- Accumulator memory, weight blocks and the conv-hold register, zero as every command start leaves them (R55, R245). -/
def clearCompute (t : Tile) : Tile :=
  { t with acc := [], active := WBlock.zero, pending := none, refineSkipped := false, conv := { elems := [], params := none } }

/-- What a command start clears in a partition's tiles; the register file, when the previous command was of another job (R55, R100,
R245). -/
def startClear (p : Part) (job : Nat) (s : State) : State :=
  let clean := fun (a : State) i =>
    let b := eccRewrite .accum i 0 (2 ^ 20) a
    if p.lastJob = job then b else eccRewrite .regFile i 0 (2 ^ 20) b
  onTiles ((partNos p).filter fun i => Tbl.has s.tiles i)
    (fun t => if p.lastJob = job then clearCompute t else { clearCompute t with rf := [] }) ((partNos p).foldl clean s)

/-- A command starts on its partition: out of the queue, the last job noted. One that was suspended goes on with what its tiles
hold. -/
def takeHead (p : Part) (c : Cmd) (s : State) : State :=
  let s1 := onCmd c.key (fun x => { x with started := true }) (unqueue c.key (unhand p.first s))
  onPart p.first (fun x => { x with lastJob := c.job }) (if c.started then s1 else startClear p c.job s1)

/-- A command whose job has left the partition since its acceptance (R243, R244). -/
def outside (s : State) (p : Part) (c : Cmd) : Bool := partOfJob s c.job != some p.first

/-! ### The save point (R247) -/

/-- RUNs of a command from the stage in work on. -/
def runsLeft (c : Cmd) : List RunInfo :=
  if c.op = 0x31 then (c.stages.drop c.stageAt).filterMap (·.run) else c.run.toList

/-- May a running command be suspended: no huddle of it is open or still scheduled, and it is in no Stepped hold? -/
def maySuspend (s : State) (p : Part) (c : Cmd) : Bool :=
  hasDemand c.op && c.done.isNone && p.huddle.isNone
    && (runsLeft c).all fun r => r.hold.isNone && planHuddles s c.job ≤ r.huddleIdx

/-- Between two innings, or two stages. -/
def atBoundary (c : Cmd) : Bool := c.between || (curRun c).any fun r => !r.inInning && !r.finished

/-- The CTX_SAVE of a job in a partition's queue. -/
def saveOf (s : State) (p : Part) (job : Nat) : Option Cmd :=
  (p.queue.filterMap (cmdAt s)).find? fun c => c.op == 0x58 && c.job == job && c.done.isNone

/-- A CTX_SAVE is to suspend the running command at its next boundary. -/
def saveDue (s : State) (p : Part) : Bool :=
  match p.running.bind (cmdAt s) with
  | some c => maySuspend s p c && (saveOf s p c.job).isSome
  | none => false

/-- Bank units of a job, ascending (R248). -/
def savedUnits (s : State) (p : Part) (job : Nat) : List Nat := (usedUnits s { p with members := [job] }).mergeSort

/-- No descriptor of a job is outstanding (R247). -/
def quietJob (s : State) (job : Nat) : Bool := (Tbl.vals s.descs).all fun d => d.job != job || d.done

/-- V of R250. -/
def saveBytes (p : Part) (u : Nat) : Nat := 48 * p.count * (524288 + u * 65536)

/-- Tier and pages of a save set of `n` pages (R248); none when the tier lacks the space. -/
def savePlace (s : State) (want n : Nat) : Option (Nat × List Nat) :=
  match (if want = 2 then none else allocAny s n) with
  | some l => some (1, l)
  | none => if want = 1 then none else (allocDdr s n 0).map fun l => (2, l)

/-- The save point: a RUN of the job is suspended, pages are taken, and the scan-out starts; or the save is to end REFUSED_BUSY for
want of room, and its completion lets the RUN go on (R248, R249). -/
def takeSave (p : Part) (sc : Cmd) (susp : List (Nat × Nat)) (s : State) : State :=
  let v := saveBytes p (savedUnits s p sc.job).length
  let got := savePlace s (byteAt sc.pkt 32) (pagesOf v)
  let (tier, pages) := got.getD (0, [])
  let v1 : Saving := { queue := sc.queue, seq := sc.seq, job := sc.job, tier, bytes := v, pages }
  let s1 := onCmd sc.key (fun x => { x with started := true }) (unqueue sc.key (unhand p.first s))
  let s2 := onPart p.first (fun x => { x with running := none, suspended := x.suspended ++ susp, saving := some v1,
                                              lastJob := sc.job }) s1
  let s3 := if susp = [] then startClear p sc.job s2 else if demandRunning s p then endDemand p.first (runPower s p) s2 else s2
  if got.isNone then settle (decide_ sc.key .refusedBusy [] s3) else s3

/-- CTX_SAVE_POINT (R247). -/
def execCtxSavePoint (part : Nat) (s : State) : Out :=
  commit (
    match Tbl.get? s.parts part with
    | none => s
    | some p =>
      if !running s || p.saving.isSome || p.running.any (·.1 == fwQueue) then s
      else
        match p.running.bind (cmdAt s) with
        | some c =>
          match saveOf s p c.job with
          | some sc => if maySuspend s p c && atBoundary c && quietJob s c.job then takeSave p sc [c.key] s else s
          | none => s
        | none =>
          match startHead s p with
          | some sc =>
            if sc.op != 0x58 then s
            else if outside s p sc then settle (failQueued part sc .noPartition s)
            else if quietJob s sc.job then takeSave p sc [] s else s
          | none => s)

/-! ### The save set (R248, R250, R251) -/

/-- Pieces of a span of a save set, as chip address and length. -/
def pageSpans (pages : List Nat) (x n : Nat) : List (Nat × Nat) :=
  (cutRuns (List.range pages.length) pageSize (n / pageSize + 2) x n).map fun r => (pages.getD r.1 0 + r.2.1, r.2.2)

/-- Cells, numbered from 0, stored in a span of a save set. -/
def pasteSpans (pages : List Nat) (x n : Nat) (cells : Mem) (s : State) : State :=
  ((pageSpans pages x n).foldl (fun (a : Nat × State) p =>
    (a.1 + p.2, pasteMem p.1 p.2 (Mem.slice cells a.1 p.2) a.2)) (0, s)).2

/-- One tile's record and bank units in the save set (R248). -/
def putRecord (pages : List Nat) (x : Nat) (at_ : TilePlace) (t : Tile) (units : List Mem) (s : State) : State :=
  let s1 := (recordParts at_ t).foldl (fun a y => pasteSpans pages (x + y.1) y.2.1 y.2.2 a) s
  (units.zipIdx).foldl (fun a y => pasteSpans pages (x + 0x80000 + 0x10000 * y.2) 0x10000 y.1 a) s1

/-- The contents of a job's units in one tile. -/
def unitCells (s : State) (t : Nat) (us : List Nat) : List Mem := us.map fun u => Mem.slice s.mem (bankBase t + u * 65536) 65536

/-- Words in error of a tile's memories met in the scan-out: those corrected are counted, an uncorrectable one is a job fault of
cause 5 (R254, R321). -/
def scanTile (p : Part) (job : Nat) (s : State) (t : Nat) : State :=
  let es := s.mctl.errs.filter fun e => (e.kind == .regFile || e.kind == .accum || e.kind == .configStore) && e.addr / 2 ^ 20 == t
  let s1 := (es.filter fun e => e.syms < 2).foldl (fun a e => countCe e.kind a) s
  if running s1 then ueFault (es.filter fun e => e.syms ≥ 2) 5 (some p.first) (some (t % 64, t / 64)) job s1 else s1

/-- A bank unit read in the scan-out, with the outcome of R254 for bank data. -/
def scanUnit (p : Part) (job t : Nat) (s : State) (u : Nat) : State :=
  let r := eccRead .bank (bankBase t + u * 65536) 65536 s
  if running r.st then ueFault r.ue 3 (some p.first) (some (t % 64, t / 64)) job r.st else r.st

/-- Everything a save set holds, read through the symbol codes. -/
def scanOut (p : Part) (job : Nat) (us : List Nat) (s : State) : State :=
  (partNos p).foldl (fun a t => us.foldl (scanUnit p job t) (scanTile p job a t)) s

/-- CTX_SAVE_COMPLETE (R248-R251): the save set stands, the job's units are released and zeroed, the job is SAVED. -/
def execCtxSaveComplete (part : Nat) (s : State) : Out :=
  commit (
    match (Tbl.get? s.parts part).bind fun p => p.saving.map fun v => (p, v) with
    | none => s
    | some (p, v) =>
      match Tbl.get? s.jobs v.job with
      | none => s
      | some b =>
        if !running s || !((cmdAt s (v.queue, v.seq)).any (·.done.isNone)) then s
        else
          let us := savedUnits s p v.job
          let s0 := scanOut p v.job us s
          if !running s0 then s0
          else
            let nos := (partNos p).zipIdx
            let size := 524288 + us.length * 65536
            let objs := (s0.objs.filter fun e => e.2.job == v.job && e.2.bankUnit.isSome).map fun e =>
              (e.1, e.2.bankUnit.getD 0, e.2.len / 65536)
            let set : SaveSet :=
              { tier := v.tier, pages := v.pages, tiles := nos.map fun i => tileAt s0 i.1,
                phys := (partTiles p).map fun t => physTile s0 t.1 t.2,
                banks := nos.flatMap fun i => (us.zip (unitCells s0 i.1 us)).map fun y => (i.2, y.1, y.2),
                units := us, bindings := b.bindings, bankObjs := objs, freed := [], suspended := p.suspended.filter fun k =>
                  ((cmdAt s0 k).map (·.job)) == some v.job }
            let run := (set.suspended.head?.bind (cmdAt s0)).bind curRun
            let place := fun (n : Nat) => placeOf s0 p run (n % 64) (n / 64)
            let s1 := nos.foldl (fun a i => putRecord v.pages (i.2 * size) (place i.1) (tileAt a i.1) (unitCells a i.1 us) a) s0
            let s2 := us.foldl (fun a u => clearUnits p u 1 a) s1
            let free := b.bindings.map fun x => { x with base := none }
            let s3 := onJob v.job (fun b => { b with state := .saved, saveAsked := false, saveSet := some set, bindings := free }) s2
            let s4 := onPart part (fun p => { p with saving := none }) s3
            let s5 := decide_ (v.queue, v.seq) .ok (leBytes 8 v.bytes ++ [BitVec.ofNat 8 v.tier])
              (noteMoved (v.queue, v.seq) v.bytes 0 s4)
            settle (if b.closing.isSome then closeSaved v.job s5 else s5))

/-! ### The restore (R252) -/

/-- Are `n` units free at an offset? -/
def unitsFree (used : List Nat) (u n : Nat) : Bool := u + n ≤ 256 && !(used.any fun x => u ≤ x && x < u + n)

/-- The allocations of a save set so far: units in use, and each as saved unit, new unit and number of units. -/
abbrev Placed := List Nat × List (Nat × Nat × Nat)

/-- One region placed at a unit. -/
def placeAt (a : Placed) (r : Nat × Nat) (u : Nat) : Placed := (a.1 ++ (List.range r.2).map (u + ·), a.2 ++ [(r.1, u, r.2)])

/-- Regions (saved unit, number of units) allocated at the saved offsets that are free, then the others at the lowest fitting
offsets; none when one fails (R252). -/
def placeRegions (used : List Nat) (regions : List (Nat × Nat)) : Option Placed :=
  let kept := regions.filter fun r => unitsFree used r.1 r.2
  let moved := regions.filter fun r => !unitsFree used r.1 r.2
  moved.foldl (fun (a : Option Placed) r => a.bind fun x => (fitUnits x.1 r.2).map (placeAt x r))
    (some (kept.foldl (fun x r => placeAt x r r.1) (used, [])))

/-- Every allocation of a save set, the units of bank objects released since among them. -/
def restorePlan (s : State) (p : Part) (v : SaveSet) : Option (List (Nat × Nat × Nat)) :=
  let regions := (v.bindings.filterMap fun b => b.base.map fun a => (a / 1024, b.units))
    ++ v.bankObjs.map (·.2) ++ v.freed
  (placeRegions (usedUnits s p) regions).map (·.2)

/-- Where a saved unit lies now. -/
def movedUnit (plan : List (Nat × Nat × Nat)) (u : Nat) : Nat :=
  match plan.find? fun r => r.1 ≤ u && u < r.1 + r.2.2 with
  | some r => r.2.1 + (u - r.1)
  | none => u

/-- Words in error of tile memories that are written whole. -/
def freshTiles (nos : List Nat) (s : State) : State :=
  { s with mctl := { s.mctl with errs := s.mctl.errs.filter fun e =>
      !((e.kind == .regFile || e.kind == .accum || e.kind == .configStore) && nos.contains (e.addr / 2 ^ 20)) } }

/-- CTX_RESTORE at its start: a job without a save set after all, a lack of units, which leaves everything as it was, or the job's
state written back by the spare map in force (R37, R252). -/
def startRestore (p : Part) (c : Cmd) (s : State) : State :=
  match (Tbl.get? s.jobs c.job).bind (·.saveSet) with
  | none => decide_ c.key .stateConflict (conflictResult s c.queue c.pkt 0xFF 0xFF 0) (unqueue c.key s)
  | some v =>
    match restorePlan s p v with
    | none => failQueued p.first c .noPartition s
    | some plan =>
      let s0 := bindSpares p (takeHead p c s)
      let owned := v.banks.filter fun b => !v.freed.any fun r => r.1 ≤ b.2.1 && b.2.1 < r.1 + r.2
      let s1 := owned.foldl (fun a b =>
        pasteMem (bankBase ((partNos p).getD b.1 0) + movedUnit plan b.2.1 * 65536) 65536 b.2.2 a) s0
      let s2 := freshTiles (partNos p) (((partNos p).zip v.tiles).foldl (fun a t => setTile t.1 t.2 a) s1)
      let place := fun (b : Binding) => { b with base := b.base.map fun a => 1024 * movedUnit plan (a / 1024) }
      let s3 := onJob c.job (fun b => { b with state := .opened, saveSet := none, bindings := v.bindings.map place }) s2
      let s4 := v.bankObjs.foldl (fun a e => onObj e.1 (fun o => { o with bankUnit := some (movedUnit plan e.2.1) }) a) s3
      let back := v.suspended.filter fun k => (cmdAt s k).any fun x => x.done.isNone
      dispatch (decide_ c.key .ok [] (noteMoved c.key (saveBytes p v.units.length) 0
        (onPart p.first (fun x => { x with queue := back ++ x.queue, suspended := x.suspended.filter fun k => !v.suspended.contains k }) s4)))

/-! ### The rows of acceptance -/

def ctxSaveSpec : OpSpec :=
  { op := 0x58, aq := false, sq := true, flags := 0, minUnits := fun _ => 0, queued := true, used := fun _ => [(32, 1)]
    params := fun _ _ p => refuseIf (byteAt p 32 > 2) .badParam 32
    state := fun _ _ _ => none
    resources := fun s _ p => refuseIf (partOfJob s (pktJob p)).isNone .noPartition
    effect := fun c _ s => onJob c.job (fun b => { b with saveAsked := true }) s }

def ctxRestoreSpec : OpSpec :=
  { op := 0x59, aq := false, sq := true, flags := 0, minUnits := fun _ => 0, queued := true, used := fun _ => []
    params := fun _ _ _ => none
    state := fun _ _ _ => none
    resources := fun s _ p => refuseIf (partOfJob s (pktJob p)).isNone .noPartition
    effect := fun _ _ s => s }

def execCtxSave (q : Nat) (p : Pkt) (pick : Nat) (s : State) : Out := commit (hostCommand ctxSaveSpec q p pick s)
def execCtxRestore (q : Nat) (p : Pkt) (pick : Nat) (s : State) : Out := commit (hostCommand ctxRestoreSpec q p pick s)

end Sys2Proof.Machine
end

