-- ==== Sys2Proof/Machine/Serving.lean ====
section
/-! DEFINITION. The serving rows: REQ_OPEN, REQ_FEED, REQ_CLOSE, REQ_QUERY, RESULT_FETCH, admission at step boundaries, returning blocks
and expiries (R229-R232, R259-R281). -/
namespace Sys2Proof.Machine

/-! ### The commands (R229, R265-R267) -/

/-- Input rows in host memory. -/
def inputRows (s : State) (a n size : Nat) : List (List Byte) := (List.range n).map fun i => readHost s (a + i * size) size

/-- A turn as its command gives it. -/
def newTurn (s : State) (c : Cmd) (input : List (List Byte)) (last : Bool) (maxWait : Nat) : Turn :=
  { queue := c.queue, seq := c.seq, input, last, charge := 0, unmatched := 0, matched := 0, accepted := s.clk.rackTime,
    admitted := none, maxWait, order := s.srv.nextOrder, nodes := [], reserve := 0 }

/-- The maximum wait of a turn: MAXWAIT of REQ_OPEN, or DEFER_MAX_WAIT when that is 0 (R267). -/
def waitOf (s : State) (w : Nat) : Nat := if w = 0 then s.features.deferMaxWait else w

/-- A new request with its first turn. -/
def newReq (s : State) (c : Cmd) (v : Serving) (slotB : Bool) : Req :=
  let p := c.pkt
  let wait := fieldAt p 38 2
  { job := c.job, model := fieldAt p 32 2, slotB, epoch := (modelAt s c.job (fieldAt p 32 2)).epoch, account := fieldAt p 36 2,
    prio := byteAt p 34, draft := bitAt (byteAt p 35) 0, maxNew := fieldAt p 40 4, maxWait := wait, state := .deferred,
    turn := some (newTurn s c (inputRows s (fieldAt p 48 8) (fieldAt p 44 4) v.inRow) false (waitOf s wait)),
    held := none, seqRows := [], next := none, blocks := [], path := [], rows := [], degraded := false, outputs := [],
    draftL := 0, zeroRun := 0, suspended := 0, draftFrom := 0, drafts := [], draftLen := 0, draftBlocks := [], doneAt := s.clk.rackTime, lastUse := s.clk.rackTime }

/-- REQ_OPEN (R264, R265, R267). -/
def reqOpenSpec : OpSpec :=
  { op := 0x40, aq := false, sq := true, flags := 0, minUnits := fun _ => 0, queued := false, used := fun _ => [(32, 24)]
    params := fun s _ p =>
      let job := pktJob p
      let model := fieldAt p 32 2
      firstRef [refuseIf (model > 1023) .badParam 32, refuseIf (byteAt p 34 > 2) .badParam 34,
                refuseIf (byteAt p 35 > 1) .badParam 35, refuseIf (fieldAt p 36 2 > 4095) .badParam 36,
                refuseIf (fieldAt p 40 4 = 0) .badParam 40, refuseIf (fieldAt p 44 4 = 0) .badParam 44,
                match canServe s job model with
                | none => badParam 32
                | some v => firstRef [refuseIf (fieldAt p 44 4 + fieldAt p 40 4 > v.ctxMax) .badParam 40,
                                      refuseIf (!hostOk s (fieldAt p 48 8) (fieldAt p 44 4 * v.inRow)) .badAddr]]
    state := fun s q p =>
      let m := modelAt s (pktJob p) (fieldAt p 32 2)
      if (liveSlot m).isSome then none else modelConflict s q p m
    resources := fun _ _ _ => none
    effect := fun c _ s =>
      if s.srv.reqs.length ≥ 65536 then decide_ c.key .refusedBusy (leBytes 4 0 ++ leBytes 4 0 ++ leBytes 4 100) s
      else
        match canServe s c.job (fieldAt c.pkt 32 2), liveSlot (modelAt s c.job (fieldAt c.pkt 32 2)) with
        | some v, some b =>
          let r := s.srv.nextReq
          let s1 := onSrv (fun x => { x with reqs := Tbl.set x.reqs r (newReq s c v b), nextReq := (r + 1) % 2 ^ 32,
                                             nextOrder := x.nextOrder + 1 }) s
          dispatch (arrive r (bindSlot c.job (fieldAt c.pkt 32 2) b s1))
        | _, _ => decide_ c.key .badParam [] s }

/-- The request a command names: one that is not open, or is another job's, is gone (R263). -/
def nameReq (s : State) (job r : Nat) : Option Ref :=
  refuseIf (match reqAt s r with | some q => q.job != job | none => true) .resultGone

/-- Is a turn of the request open: waiting or admitted? -/
def turnOpen (q : Req) : Bool := q.state == .deferred || q.state == .prefill || q.state == .decode

/-- BAD_PARAM of REQ_FEED (R265). -/
def feedParams (s : State) (p : Pkt) (q : Req) : Option Ref :=
  let v := servOr s q.job q.model
  let len := q.seqRows.length + ofBool q.next.isSome + ((q.turn.map fun t => t.input.length).getD 0)
  firstRef [refuseIf (q.state == .finished || q.state == .ended) .badParam 32, refuseIf (fieldAt p 48 4 = 0) .badParam 48,
            refuseIf (len + fieldAt p 48 4 + q.maxNew > v.ctxMax) .badParam 48,
            refuseIf (!hostOk s (fieldAt p 40 8) (fieldAt p 48 4 * v.inRow)) .badAddr]

/-- REQ_FEED (R265): a turn in progress holds one feed; a second is refused. -/
def reqFeedSpec : OpSpec :=
  { op := 0x41, aq := false, sq := true, flags := 0, minUnits := fun _ => 0, queued := false, used := fun _ => [(32, 5), (40, 12)]
    params := fun s _ p =>
      firstRef [refuseIf (byteAt p 36 > 1) .badParam 36,
                match reqAt s (fieldAt p 32 4) with
                | some q => if q.job = pktJob p then feedParams s p q else none
                | none => refuseIf (fieldAt p 48 4 = 0) .badParam 48]
    state := fun _ _ _ => none
    resources := fun s _ p =>
      match reqAt s (fieldAt p 32 4) with
      | some q =>
        if q.job != pktJob p then nameReq s (pktJob p) (fieldAt p 32 4)
        else if turnOpen q && q.held.isSome then
          some { st := .refusedBusy, result := leBytes 4 (fieldAt p 32 4) ++ leBytes 4 0
                   ++ leBytes 4 (estWait s q.job q.model (queuePos s q.job q.model (reqClass s q) s.srv.nextOrder)) }
        else none
      | none => nameReq s (pktJob p) (fieldAt p 32 4)
    effect := fun c _ s =>
      let r := fieldAt c.pkt 32 4
      match reqAt s r with
      | none => decide_ c.key .resultGone [] s
      | some q =>
        let v := servOr s q.job q.model
        let t := newTurn s c (inputRows s (fieldAt c.pkt 40 8) (fieldAt c.pkt 48 4) v.inRow) (bitAt (byteAt c.pkt 36) 0)
          (waitOf s q.maxWait)
        let s1 := onSrv (fun x => { x with nextOrder := x.nextOrder + 1 }) s
        if turnOpen q then onReq r (fun q => { q with held := some t }) s1
        else dispatch (arrive r (onReq r (fun q => { q with turn := some t }) s1)) }

/-- REQ_CLOSE (R263, R281). -/
def reqCloseSpec : OpSpec :=
  { op := 0x42, aq := false, sq := true, flags := 0, minUnits := fun _ => 0, queued := false, used := fun _ => [(32, 4)]
    params := fun _ _ _ => none
    state := fun _ _ _ => none
    resources := fun s _ p => nameReq s (pktJob p) (fieldAt p 32 4)
    effect := fun c _ s => decide_ c.key .ok [] (closeReq (fieldAt c.pkt 32 4) s) }

/-- The draft length as it counts now: 0 when not drafting (R262, R278, R280). -/
def draftLen (s : State) (q : Req) : Nat := if q.suspended = 0 && (draftJob s q).isSome then q.draftL else 0

/-- The RESULT of REQ_QUERY (R262). -/
def queryResult (s : State) (q : Req) : List Byte :=
  let pos := if q.state = .deferred then queuePos s q.job q.model (reqClass s q) ((q.turn.map (·.order)).getD 0) else 0
  [BitVec.ofNat 8 (reqCode q.state), BitVec.ofNat 8 (draftLen s q), 0, 0] ++ leBytes 4 q.rows.length ++ leBytes 4 pos
    ++ leBytes 4 q.outputs.length

/-- REQ_QUERY (R262). -/
def reqQuerySpec : OpSpec :=
  { op := 0x43, aq := false, sq := true, flags := 0, minUnits := fun _ => 0, queued := false, used := fun _ => [(32, 4)]
    params := fun _ _ _ => none
    state := fun _ _ _ => none
    resources := fun s _ p => nameReq s (pktJob p) (fieldAt p 32 4)
    effect := fun c _ s =>
      match reqAt s (fieldAt c.pkt 32 4) with
      | some q => decide_ c.key .ok (queryResult s q) s
      | none => decide_ c.key .resultGone [] s }

/-- Bytes of output `k` (R266). -/
def outputBytes (k : Nat) (o : Output) : List Byte :=
  leBytes 4 k ++ leBytes 2 (statusCode o.status) ++ [BitVec.ofNat 8 o.ended, 0] ++ leBytes 4 o.rows.length ++ leBytes 4 o.rowSize
    ++ leBytes 8 o.time.toNat ++ leBytes 4 o.cost ++ leBytes 4 o.warren ++ o.rows.flatMap fun r => sliceB r 0 o.rowSize

/-- Rack time that an output or an idle request is kept: 10 s (R232, R263). -/
def retention : Nat := msUnits 10000

/-- RESULT_FETCH (R232). -/
def resultFetchSpec : OpSpec :=
  { op := 0x39, aq := false, sq := true, flags := 0, minUnits := fun _ => 0, queued := false, used := fun _ => [(32, 6), (40, 12)]
    params := fun _ _ _ => none
    state := fun _ _ _ => none
    resources := fun s _ p => nameReq s (pktJob p) (fieldAt p 32 4)
    effect := fun c _ s =>
      let r := fieldAt c.pkt 32 4
      let k := fieldAt c.pkt 36 2
      match (reqAt s r).bind fun q => q.outputs[k]? with
      | none => decide_ c.key .notReady [] s
      | some o =>
        if o.gone || passed s o.time retention then decide_ c.key .resultGone [] s
        else
          let b := (outputBytes k o).take (fieldAt c.pkt 48 4)
          if !hostOk s (fieldAt c.pkt 40 8) b.length then decide_ c.key .badAddr [] s
          else
            decide_ c.key (if o.fetched then .alreadyConsumed else .ok) (leBytes 4 b.length)
              (onReq r (fun q => { q with outputs := modAt q.outputs k fun o => { o with fetched := true } })
                (writeHost (fieldAt c.pkt 40 8) b s)) }

def execReqOpen (q : Nat) (p : Pkt) (pick : Nat) (s : State) : Out := commit (hostCommand reqOpenSpec q p pick s)
def execReqFeed (q : Nat) (p : Pkt) (pick : Nat) (s : State) : Out := commit (hostCommand reqFeedSpec q p pick s)
def execReqClose (q : Nat) (p : Pkt) (pick : Nat) (s : State) : Out := commit (hostCommand reqCloseSpec q p pick s)
def execReqQuery (q : Nat) (p : Pkt) (pick : Nat) (s : State) : Out := commit (hostCommand reqQuerySpec q p pick s)
def execResultFetch (q : Nat) (p : Pkt) (pick : Nat) (s : State) : Out := commit (hostCommand resultFetchSpec q p pick s)

/-! ### Steps in partition queues (R244, R261) -/

/-- Does a step run on a partition? -/
def stepRuns (s : State) (n : Nat) : Bool := (Tbl.vals s.parts).any fun p => p.running == some (fwQueue, n)

/-- Does a step stand in a partition's queue, or run there? -/
def stepStands (s : State) (n : Nat) : Bool :=
  stepRuns s n || (Tbl.vals s.parts).any fun p => p.queue.contains (fwQueue, n)

/-- The step of a model that is queued or runs. -/
def modelStep (s : State) (job model : Nat) : Option (Nat × ServStep) :=
  s.srv.steps.find? fun e => !e.2.draft && e.2.job == job && e.2.model == model && stepStands s e.1

/-- The draft step for a request that is queued or runs. -/
def draftStepOf (s : State) (req : Nat) : Option (Nat × ServStep) :=
  s.srv.steps.find? fun e => e.2.draft && (e.2.seqs.any (·.req == req)) && stepStands s e.1

/-- Is a model between steps: none of it runs? -/
def atStepBoundary (s : State) (job model : Nat) : Bool := !(modelStep s job model).any fun e => stepRuns s e.1

/-- Deferred turns admitted where the model is at a step boundary (R269). -/
def boundaryAdmit (job model : Nat) (s : State) : State :=
  if !running s || jobStateOf s job == .saved || !atStepBoundary s job model then s
  else admitDeferred job model (deferredQueue s job model).length s

/-- STEP_BOUNDARY_ADMISSION (R269). -/
def execStepBoundaryAdmission (job model : Nat) (s : State) : Out := commit (settle (dispatch (boundaryAdmit job model s)))

/-! ### Returning blocks (R273) -/

/-- A spilled block that a tier engine has brought back: widened into a new block in HBM. It waits while HBM has no room. -/
def returnBlock (t : TierJob) (s : State) : Option State :=
  match reqAt s t.seq with
  | none => some s
  | some q =>
    let v := servOr s q.job q.model
    let room := fun (job : Nat) => roomFor job (blockBytes v) (spillable s).length s
    match q.path[t.idx]? with
    | some n =>
      match Tbl.get? s.srv.nodes n with
      | none => some s
      | some d =>
        if !d.spilled then some s
        else (room d.job).map fun x => sweepKv (onSrv (fun z => { z with nodes := Tbl.upd z.nodes n fun d =>
            { d with kvAddr := x.1, spilled := false } })
          (copyBlock d.kvAddr (spillBytes v) x.1 d.job (widenBlock v) x.2))
    | none =>
      match q.blocks[t.idx - q.path.length]? with
      | none => some s
      | some b =>
        if !b.spilled then some s
        else (room q.job).map fun x => sweepKv (onReq t.seq (fun q => { q with
            blocks := modAt q.blocks (t.idx - q.path.length) fun b => { b with addr := x.1, spilled := false } })
          (copyBlock b.addr (spillBytes v) x.1 q.job (widenBlock v) x.2))

/-- A block brought back is noted for the turn that waits for it (R318). -/
def noteReturn (t : TierJob) (s : State) : State :=
  match reqAt s t.seq with
  | some q => match q.turn with
    | some u => noteMoved (u.queue, u.seq) (blockBytes (servOr s q.job q.model)) 0 s
    | none => s
  | none => s

/-- KV_BLOCK_RETURN (R273): tier engine `j` completes the return of a block. -/
def execKvBlockReturn (j : Nat) (s : State) : Out :=
  commit (
    match engineJob s j with
    | none => s
    | some t =>
      if t.kind != .kvReturn || s.dump.fault.isSome then s
      else match returnBlock t s with
        | some s1 => popEngine j (noteReturn t s1)
        | none => s)

/-! ### Expiries (R232, R263, R270) -/

/-- What an expiring turn leaves: its held feed goes to admission, or with the request. -/
def afterExpiry (r : Nat) (held : Option Turn) (s : State) : State :=
  match held with
  | none => s
  | some h =>
    match reqAt s r with
    | some _ => arrive r (onReq r (fun q => { q with held := none, turn := some h }) s)
    | none => decide_ (h.queue, h.seq) .resultGone [] s

/-- A deferred turn ends REFUSED_BUSY with its charge returned (R270). -/
def expireTurn (req : Nat) (s : State) : State :=
  match reqAt s req with
  | none => s
  | some q =>
    match q.turn with
    | none => s
    | some t =>
      if q.state != .deferred then s
      else
        let w := estWait s q.job q.model (queuePos s q.job q.model (reqClass s q) t.order)
        let s1 := decide_ (t.queue, t.seq) .refusedBusy (leBytes 4 req ++ leBytes 4 0 ++ leBytes 4 w)
          (refund q.account t.charge s)
        afterExpiry req q.held (undoTurn req s1)

/-- Has a deferred turn's maximum wait passed? -/
def waitOver (s : State) (q : Req) : Bool :=
  q.state == .deferred && q.turn.any fun t => passed s t.accepted (msUnits t.maxWait)

/-- DEFERRED_EXPIRY (R270): the turn's maximum wait has passed. At a step boundary the admissions of this rack time come first. -/
def execDeferredExpiry (req : Nat) (s : State) : Out :=
  commit (
    match reqAt s req with
    | none => s
    | some q =>
      if s.dump.fault.isSome || !waitOver s q then s
      else settle (dispatch (expireTurn req (boundaryAdmit q.job q.model s))))

/-- REQUEST_RETENTION_EXPIRY (R263): 10 s in IDLE, FINISHED or ENDED. -/
def execRequestRetentionExpiry (req : Nat) (s : State) : Out :=
  commit (
    match reqAt s req with
    | none => s
    | some q => if turnOpen q || !passed s q.doneAt retention then s else removeReq req s)

/-- OUTPUT_RETENTION_EXPIRY (R232): 10 s after an output was produced. -/
def execOutputRetentionExpiry (req idx : Nat) (s : State) : Out :=
  commit (
    match (reqAt s req).bind fun q => q.outputs[idx]? with
    | none => s
    | some o =>
      if !passed s o.time retention then s
      else onReq req (fun q => { q with outputs := modAt q.outputs idx fun o => { o with gone := true, rows := [] } }) s)

end Sys2Proof.Machine
end

