-- ==== Sys2Proof/Machine/ServeSteps.lean ====
section
/-! DEFINITION. Serving steps and drafting (R260, R261, R265, R272, R277-R281). The serving image itself is not executed: what it gives a
step, its output rows, STOP bits and status, comes with SERVING_STEP and DRAFT_STEP (log 30). -/
namespace Sys2Proof.Machine

/-! ### KV and rows of a sequence (R272, R277, R279) -/

/-- A KV row of free bytes at a position of a sequence, whose first block given is `first` (log 6). -/
def writeKvRow (v : Serving) (first : Nat) (blocks : List Nat) (pos : Nat) (s : State) : State :=
  match blocks[pos / 16 - first]? with
  | some a => if pos / 16 < first || v.kvRow > 1048576 then s
              else writeBlockAt a (blockBytes v) (pos % 16 * v.kvRow) (freeBytes s.fresh v.kvRow) { s with fresh := s.fresh + 1 }
  | none => s

/-- KV of `n` positions of a sequence from one on; positions without a block hold none. -/
def writeKv (r from_ n : Nat) (s : State) : State :=
  match reqAt s r with
  | none => s
  | some q =>
    let v := servOr s q.job q.model
    (List.range n).foldl (fun a i => writeKvRow v q.path.length (q.blocks.map (·.addr)) (from_ + i) a) s

/-- Rows fed to the model join the sequence, `kv` positions having been written; a block they fill enters the warren (R272, R277). -/
def feedRows (r : Nat) (rows : List (List Byte)) (kv : Nat) (s : State) : State :=
  match reqAt s r with
  | none => s
  | some q =>
    let n0 := q.seqRows.length
    let n1 := n0 + rows.length
    let s1 := onReq r (fun q => { q with seqRows := q.seqRows ++ rows, lastUse := s.clk.rackTime,
                                         blocks := q.blocks.map fun b => { b with lastUse := s.clk.rackTime } })
      (writeKv r n0 kv s)
    (List.range (n1 / 16 - n0 / 16)).foldl (fun a _ =>
      match reqAt a r with
      | some q => if q.path.length ≥ n0 / 16 && 16 * (q.path.length + 1) ≤ n1 then insertBlock r a else a
      | none => a) s1

/-- KV of rejected drafts rolled back in both models (R272, R279): private blocks that hold no row any more are freed, and the draft
model's blocks beyond its sequence. One within the turn's reservation goes back to it, so the turn still holds its room (log 30). -/
def rollBack (r : Nat) (s : State) : State :=
  match reqAt s r with
  | none => s
  | some q =>
    let full := ceilDiv q.seqRows.length 16
    let keep := max ((q.turn.map (·.reserve)).getD 0) full - q.path.length
    sweepKv (onReq r (fun q => { q with blocks := q.blocks.take keep, draftLen := min q.draftLen q.seqRows.length,
                                        draftBlocks := q.draftBlocks.take full }) s)

/-- Output rows yielded to a turn, in order, until its limit or a STOP; the rest is discarded (R265, R279). Answers the end
code, if the turn ends. -/
def yieldRows (maxNew : Nat) : List (List Byte × Bool) → List (List Byte) → List (List Byte) × Option Nat
  | [], acc => (acc, none)
  | x :: l, acc =>
    let acc1 := acc ++ [x.1]
    if acc1.length ≥ maxNew then (acc1, some 0) else if x.2 then (acc1, some 1) else yieldRows maxNew l acc1

/-- A decoding sequence takes what a step of `kv` tokens gave it: the row it fed joins the sequence, then the accepted drafts, and the
last yielded row is fed next. -/
def decodeRows (r : Nat) (out : List (List Byte × Bool)) (kv : Nat) (s : State) : State :=
  match reqAt s r with
  | none => s
  | some q =>
    let v := servOr s q.job q.model
    let (rows, ended) := yieldRows q.maxNew (out.map fun x => (sliceB x.1 0 v.outRow, x.2)) q.rows
    let new := (rows.drop q.rows.length).map fun b => sliceB b 0 v.inRow
    let fed := q.next.toList ++ new.dropLast
    let s1 := rollBack r (onReq r (fun q => { q with rows, next := new.getLast? }) (feedRows r fed (max kv fed.length) s))
    match ended with
    | some e => endTurn r (if ((reqAt s1 r).map (·.degraded)).getD false then .okDegraded else .ok) e s1
    | none => s1

/-- A prefilling sequence takes a chunk of its input; the row the turn before left is fed first. With its last input row it
goes to DECODE. -/
def prefillRows (r n : Nat) (s : State) : State :=
  match reqAt s r with
  | none => s
  | some q =>
    match q.turn with
    | none => s
    | some t =>
      let all := q.next.toList ++ t.input
      let rest := all.drop n
      feedRows r (all.take n) n (onReq r (fun q => { q with next := none, turn := some { t with input := rest },
                                                            state := if rest = [] then .decode else .prefill }) s)

/-! ### Forming a step (R261, R264) -/

/-- Is a turn of the request admitted? -/
def inTurn (q : Req) : Bool := q.state == .prefill || q.state == .decode

/-- Sequences of a model whose turns are admitted, in admission order. -/
def sequences (s : State) (job model : Nat) : List (Nat × Req) :=
  ((s.srv.reqs.filter fun r => r.2.job == job && r.2.model == model && inTurn r.2).mergeSort
    fun a b =>
      let t := fun (r : Req) => ((r.turn.bind (·.admitted)).getD 0).toNat
      t a.2 < t b.2 || (t a.2 == t b.2 && ((a.2.turn.map (·.order)).getD 0) ≤ ((b.2.turn.map (·.order)).getD 0)))

/-- Sequences of one slot: that of the sequence that has waited longest for a step (R264; DESIGN CHOICE, log 30). -/
def stepSlot (l : List (Nat × Req)) : List (Nat × Req) :=
  match l.foldl (fun (b : Option Req) x => match b with
    | none => some x.2
    | some y => if x.2.lastUse.toNat < y.lastUse.toNat then some x.2 else some y) none with
  | some q => l.filter fun x => x.2.slotB == q.slotB
  | none => []

/-- Is a sequence through with its input? -/
def decoding (q : Req) : Bool :=
  q.state == .decode || (q.next.isNone && ((q.turn.map fun t => t.input.isEmpty).getD true))

/-- Drafts that a step can verify for a sequence: L, with one token more than they in a step (R261). -/
def draftTokens (s : State) (q : Req) : Nat := min (draftLen s q) ((servOr s q.job q.model).stepTok - 1)

/-- Tokens a sequence can take in a step: one when decoding, L + 1 when its drafts are made and none while they are not; its input left
when prefilling. -/
def wantedTokens (s : State) (q : Req) : Nat :=
  if decoding q then
    let l := draftTokens s q
    if l ≤ q.drafts.length then l + 1 else 0
  else ofBool q.next.isSome + ((q.turn.map fun t => t.input.length).getD 0)

/-- A sequence as a step holds it. -/
def stepSeq (r : Nat) (q : Req) (n : Nat) : StepSeq :=
  { req := r, queue := (q.turn.map (·.queue)).getD 0, seq := (q.turn.map (·.seq)).getD 0, tokens := n }

/-- A step's sequences and the tokens of each (R261): decoding sequences first, prefill chunks of the others in the rest, in admission
order. -/
def planStep (s : State) (v : Serving) (l : List (Nat × Req)) : List StepSeq :=
  ((l.filter (fun x => decoding x.2) ++ l.filter fun x => !decoding x.2).foldl (fun (a : List StepSeq × Nat) x =>
    let w := wantedTokens s x.2
    let n := if w ≤ a.2 then w else if decoding x.2 then 0 else a.2
    if n = 0 || a.1.length ≥ v.cap then a else (a.1 ++ [stepSeq x.1 x.2 n], a.2 - n)) ([], v.stepTok)).1

/-- A step with its STEPTOK and NSEQ values. -/
def mkStep (job model : Nat) (draft : Bool) (l : List StepSeq) : ServStep :=
  { job, model, draft, seqs := l, dims := [(248, (l.map (·.tokens)).sum), (249, l.length)] }

/-- May a job's step enter its partition's queue now? -/
def stepRoom (s : State) (job : Nat) : Bool :=
  running s && jobStateOf s job != .saved
    && ((partOfJob s job).bind (Tbl.get? s.parts)).any fun p => decide (p.queue.length < 1024)

/-- A step enters the queue of its job's partition, like a RUN (R244). -/
def enqueueStep (x : ServStep) (s : State) : State :=
  match partOfJob s x.job with
  | none => s
  | some f =>
    let n := s.srv.nextStep
    onPart f (fun p => { p with queue := p.queue ++ [(fwQueue, n)] })
      (onSrv (fun v => { v with steps := Tbl.set (v.steps.filter fun e => stepStands s e.1) n x, nextStep := n + 1 }) s)

/-- A step of a model formed. -/
def formStep (job model : Nat) (s0 : State) : State :=
  let s := dropDrafts s0
  match canServe s job model with
  | none => s0
  | some v =>
    let l := planStep s v (stepSlot (sequences s job model))
    if l = [] || !stepRoom s job then s0 else enqueueStep (mkStep job model false l) s

/-! ### Starting a step (R244, R260, R273) -/

/-- The request of a step's sequence while the turn goes on with which the step was formed. -/
def seqLive (s : State) (x : StepSeq) : Option Req :=
  (reqAt s x.req).filter fun q => inTurn q && q.turn.any fun t => t.queue == x.queue && t.seq == x.seq

/-- Is what a partition would start a step none of whose turns goes on? -/
def stepEmpty (s : State) (c : Cmd) : Bool :=
  c.queue == fwQueue && (Tbl.get? s.srv.steps c.seq).any fun x => x.seqs.all fun y => (seqLive s y).isNone

/-- Is it a step that waits for a returning block? -/
def stepWaits (s : State) (c : Cmd) : Bool :=
  c.queue == fwQueue && (Tbl.get? s.srv.steps c.seq).any fun x => !x.draft && x.seqs.any fun y => (seqLive s y).any (awaitsBlock s)

/-- The SRV_SEQ entries of a step's sequences (R260). The KV block lists stand one after another in SRV_KV (DESIGN CHOICE, log 30). -/
def seqEntries (s : State) (l : List StepSeq) : List Byte :=
  (l.foldl (fun (a : Nat × List Byte) x =>
    let q := reqAt s x.req
    (a.1 + (q.map heldBlocks).getD 0,
     a.2 ++ leBytes 4 ((q.map (·.seqRows.length)).getD 0) ++ leBytes 4 a.1 ++ leBytes 2 x.tokens ++ List.replicate 6 0)) (0, [])).2

/-- Blocks for the draft rows of a step's sequences beyond what their turns reserved. -/
def draftRoom (s : State) (x : StepSeq) : State :=
  match reqAt s x.req with
  | none => s
  | some q =>
    let n := ceilDiv (q.seqRows.length + x.tokens) 16 - heldBlocks q
    (giveBlocks x.req q.job (blockBytes (servOr s q.job q.model)) n s).getD s

/-- A step starts: firmware writes SRV_SEQ. -/
def startStep (n : Nat) (s : State) : State :=
  match Tbl.get? s.srv.steps n with
  | none => s
  | some x =>
    if x.draft then s
    else
      let s1 := x.seqs.foldl draftRoom s
      onSrv (fun v => { v with seqTabs := Tbl.set v.seqTabs (1024 * x.job + x.model) (seqEntries s1 x.seqs) }) s1

/-! ### The end of a step (R261, R279-R281) -/

/-- A step ends: its partition is free, and its demand is over. -/
def endStep (n : Nat) (s : State) : State :=
  let s1 := ((Tbl.vals s.parts).filter fun p => p.running == some (fwQueue, n)).foldl (fun a p => freePart p.first a) s
  onSrv (fun v => { v with steps := Tbl.erase v.steps n }) s1

/-- A turn of a step that failed ends with its status, and its request is ENDED (R281). -/
def failTurn (st : Status) (r : Nat) (s : State) : State := endTurn r st 2 s

/-- A step of a suspended request counts; after 32 of them drafting resumes at L = 1 (R280). -/
def countSuspended (q : Req) : Req :=
  if q.suspended = 0 then q
  else if q.suspended = 1 then { q with suspended := 0, draftL := 1, zeroRun := 0 }
  else { q with suspended := q.suspended - 1 }

/-- L, the zero-run count and the steps of suspension after a drafted step with `a` accepted rows (R280). -/
def nextDraft (l a z : Nat) : Nat × Nat × Nat :=
  if a = l then (min (l + 1) 8, 0, 0)
  else if 0 < a then (l, 0, 0)
  else if z + 1 = 4 then (max (l / 2) 1, 4, 32)
  else (max (l / 2) 1, z + 1, 0)

/-- Draft rows accepted: equal, byte for byte, to the main model's outputs, up to the first that is not (R279). -/
def acceptedDrafts : List (List Byte) → List (List Byte) → Nat
  | d :: ds, o :: os => if d = o then acceptedDrafts ds os + 1 else 0
  | _, _ => 0

/-- What a step of `l` verified drafts makes of a request's drafting. -/
def noteDrafts (l a : Nat) (q : Req) : Req :=
  if l = 0 then countSuspended q
  else
    let (l1, z, sus) := nextDraft l a q.zeroRun
    { q with draftL := l1, zeroRun := z, suspended := sus, drafts := [] }

/-- A decoding sequence's output rows: one per token; a row the image has not given is free. -/
def outRows (v : Serving) (k n : Nat) (rows : List (List Byte × Bool)) : List (List Byte × Bool) :=
  (List.range n).map fun i => match rows[i]? with
    | some o => (sliceB o.1 0 v.outRow, o.2)
    | none => (freeBytes k v.outRow, false)

/-- A decoding sequence's step: drafts are verified against the outputs, and the accepted rows and the next are yielded (R279). -/
def verifyRows (r n : Nat) (rows : List (List Byte × Bool)) (s : State) : State :=
  match reqAt s r with
  | none => s
  | some q =>
    let (k, s1) := takeFresh s
    let os := outRows (servOr s q.job q.model) k n rows
    let a := acceptedDrafts (q.drafts.take (n - 1)) (os.map (·.1))
    decodeRows r (os.take (a + 1)) n (onReq r (fun q => { noteDrafts (n - 1) a q with state := .decode }) s1)

/-- What a step's outcome is to one of its sequences; `at_` is the place of its tokens in the step. -/
def stepSequence (st : Status) (rows : List (List Byte × Bool)) (s : State) (x : StepSeq) (at_ : Nat) : State :=
  match seqLive s x with
  | none => s
  | some q =>
    if !isOk st then failTurn st x.req s
    else
      let s1 := if st = .okDegraded then onReq x.req (fun q => { q with degraded := true }) s else s
      if decoding q then verifyRows x.req x.tokens (rows.drop at_) s1
      else prefillRows x.req x.tokens (onReq x.req countSuspended s1)

/-- Where each sequence's tokens stand in a step. -/
def withOffsets (l : List StepSeq) : List (StepSeq × Nat) :=
  (l.foldl (fun (a : Nat × List (StepSeq × Nat)) x => (a.1 + x.tokens, a.2 ++ [(x, a.1)])) (0, [])).2

/-- The STOP bit of each SRV_SEQ entry, as the image writes it (R260): for a sequence's last output row in the step. -/
def markStops (rows : List (List Byte × Bool)) (l : List (StepSeq × Nat)) (b : List Byte) : List Byte :=
  (l.zipIdx).foldl (fun a x =>
    putB a (16 * x.2 + 10) [BitVec.ofNat 8 (ofBool ((rows[x.1.2 + x.1.1.tokens - 1]?).any (·.2)))]) b

/-- A step of a model completes with its image's output rows, one per token, and status; a sequence that only prefills gives none of use. -/
def finishStep (n : Nat) (x : ServStep) (rows : List (List Byte × Bool)) (st : Status) (s : State) : State :=
  let l := withOffsets x.seqs
  let s1 := onSrv (fun v => { v with seqTabs := Tbl.upd v.seqTabs (1024 * x.job + x.model) (markStops rows l) }) (endStep n s)
  l.foldl (fun a y => stepSequence st rows a y.1 y.2) s1

/-- A model's serving goes on: a step that runs completes; one is formed where none stands in the queue. -/
def serve (job model : Nat) (rows : List (List Byte × Bool)) (st : Status) (s : State) : State :=
  match modelStep s job model with
  | some (n, x) => if running s && stepRuns s n then settle (dispatch (finishStep n x rows st s)) else s
  | none => formStep job model s

/-- SERVING_STEP (R261): a step of a model enters the partition queue; or the one that runs there completes. -/
def execServingStep (job model : Nat) (rows : List (List Byte × Bool)) (st : Status) (s : State) : Out :=
  commit (serve job model rows st s)

/-! ### Drafting (R278, R279) -/

/-- KV length of the draft model after the next draft step: the sequence, the row fed next and the drafts made. -/
def draftTarget (q : Req) : Nat := q.seqRows.length + ofBool q.next.isSome + q.drafts.length

/-- A draft step of a request formed in its draft job, with at most the MAX of the draft image's STEPTOK tokens (R261). Without room for
the draft model's KV the turn goes on undrafted (DESIGN CHOICE: log 30). -/
def formDraft (r : Nat) (q : Req) (dj : Nat) (s : State) : State :=
  let n := draftTarget q
  let v := servOr s dj q.model
  if !stepRoom s dj then s
  else
    match giveDraftBlocks r dj (blockBytes v) (ceilDiv n 16 - q.draftBlocks.length) s with
    | none => onReq r undraft s
    | some s1 => enqueueStep (mkStep dj q.model true [stepSeq r q (min (n - q.draftLen) v.stepTok)]) s1

/-- The draft model's KV grows by a draft step of `n` tokens; with the last of the sequence the step's row is the next draft (R279). -/
def takeDraft (n : Nat) (row : List Byte) (inRow : Nat) (st : Status) (q : Req) : Req :=
  { q with drafts := if draftTarget q ≤ q.draftLen + n then q.drafts ++ [sliceB row 0 inRow] else q.drafts,
           draftLen := min (draftTarget q) (q.draftLen + n), degraded := q.degraded || st == .okDegraded }

/-- A draft step completes: its rows' KV is written, and the request takes what it gave. -/
def finishDraft (n : Nat) (x : ServStep) (r : Nat) (row : List Byte) (st : Status) (s : State) : State :=
  let s1 := endStep n s
  match x.seqs.findSome? (seqLive s1) with
  | none => s1
  | some q =>
    if !isOk st then failTurn st r s1
    else
      let v := servOr s x.job x.model
      let t := (x.seqs.map (·.tokens)).sum
      let s2 := (List.range (min (draftTarget q - q.draftLen) t)).foldl (fun a i => writeKvRow v 0 q.draftBlocks (q.draftLen + i) a) s1
      onReq r (takeDraft t row (servOr s q.job q.model).inRow st) s2

/-- DRAFT_STEP (R279): the drafted decode step of a request goes on. Its draft steps run one after another, one row each; when L drafts
are made, the main model's step of L + 1 tokens verifies them. `out` is what that step gives, and the status of either. -/
def execDraftStep (req : Nat) (draft : List Byte) (out : List (List Byte × Bool) × Status) (s : State) : Out :=
  commit (
    match reqAt s req, draftStepOf s req with
    | none, _ => s
    | some _, some (n, x) => if running s && stepRuns s n then settle (dispatch (finishDraft n x req draft out.2 s)) else s
    | some q, none =>
      if !inTurn q || !decoding q || draftTokens s q = 0 then s
      else if q.drafts.length < draftTokens s q then
        match draftJob s q with
        | some dj => formDraft req q dj s
        | none => s
      else if (modelStep s q.job q.model).all fun e => e.2.seqs.any (·.req == req) then serve q.job q.model out.1 out.2 s
      else s)

end Sys2Proof.Machine
end

