-- ==== Sys2Proof/Machine/Start.lean ====
section
/-! DEFINITION. What a partition runs: command starts and their demand, innings, the end of a RUN and the stages of a chain (R15, R21,
R55, R68, R99-R102, R116, R122, R182, R185, R244, R310). -/
namespace Sys2Proof.Machine

/-! ### The start of a RUN or RUN stage (R55, R68, R100) -/

/-- A tile cleared and its generators seeded. -/
def clearTile (seed : W32) (t : Tile) : Tile :=
  { clearCompute t with
           srArray := srSeed seed false, srVector := srSeed seed true, gated := [], vqueue := [], voids := [] }

/-- The clearing of R55 and the seeding of R68, from the first inning's configuration. -/
def clearForRun (p : Part) (r : RunInfo) (s : State) : State :=
  let img := imgOf s r.image
  let cfg := ((imgInnings img).head?.map (·.cfg)).getD 0
  ((partNos p).zipIdx).foldl (fun a t =>
    onTile t.1 (clearTile (BitVec.ofNat 32 (blkSeed (memOfBytes (imgBlock img cfg t.2))))) a) s

/-- What an earlier command may have taken from an accepted RUN by now (R244). -/
def recheckRun (s : State) (job : Nat) (r : RunInfo) : Option Status :=
  match nameImage s job r.image with
  | some x => some x.st
  | none => if (bindingOf s job r.image).any fun b => b.base.isSome then none else some .badParam

/-- A RUN's work starts: an image without innings has run at once. -/
def startRun (k : Nat × Nat) (p : Part) (r : RunInfo) (s : State) : State :=
  match (cmdAt s k).bind fun c => recheckRun s c.job r with
  | some st => failRunning k st (onCmd k (fun c => if c.op = 0x30 then { c with errLoc := 32 } else c) s)
  | none =>
    let none_ := (imgInnings (imgOf s r.image)) == []
    clearForRun p r (onCmd k (fun c => setRun c { r with finished := none_ }) s)

/-- A stage of a chain starts (R116): a zero RUN is over at once. -/
def startStage (k : Nat × Nat) (p : Part) (s : State) : State :=
  match cmdAt s k with
  | none => s
  | some c =>
    match c.stages[c.stageAt]? with
    | none => s
    | some g =>
      match g.run with
      | none => startXfer k c.job g.pkt s
      | some r => if isZeroRun r then endStage k (scheduleHeaders c.job p.first r.hseqBase 0 true s) else startRun k p r s

/-! ### Demand (R310, R313) -/

/-- A command inherits the demand of one that ended when it stood next in the queue, or within 10 µs before its start. -/
def inherits (s : State) (p : Part) (c : Cmd) : Bool :=
  p.handed == some c.key || p.lastDemandEnd.any fun t => elapsed t s.clk.rackTime ≤ usUnits 10

/-- Input power at an FCLK with a partition's command running at its full demand, once the rises of other partitions have ended. -/
def startPower (s : State) (p : Part) (fclk : Nat) : Nat :=
  let s1 := { s with clk := { s.clk with fclk } }
  let others := (Tbl.vals s1.parts).filter fun q => q.first != p.first
  inputWith s1 ((others.map (peakLoad s1)).sum + looseTotal s1 + demandOf s1 p)

/-- FCLK lowered to the highest step that fits, where the demand would take power above the cap (R310). -/
def fitCap (p : Part) (s : State) : State := setFclk (fitStep (startPower s p) (capNow s) s.clk.fclk) s

/-- A command with demand starts, and takes the fill's place; one that was suspended goes on where it stopped (R247). One hinted light is
paced from the fill it finds up to its demand (R313). -/
def beginDemand (p : Part) (c : Cmd) (s : State) : State :=
  let s0 := fitCap p s
  let light : Option Fill :=
    if bitAt c.hints 1 && !inherits s p c then some (newFill s (fillNow s0 p) (demandOf s0 p) false) else p.pace
  let s1 := onPart p.first (fun x => { x with running := some c.key, held := false, huddle := none, lost := none, stalls := [],
                                              fill := newFill s 0 0 false, pace := light, handed := none }) (takeHead p c s0)
  let s2 := reshape s1
  if c.started then settle s2
  else settle (if c.queue = fwQueue then startStep c.seq s2
    else if c.op = 0x31 then startStage c.key p s2
    else match c.run with | some r => startRun c.key p r s2 | none => s2)

/-- May a command with demand start now: nothing shapes the input, it inherits a demand, it is hinted light, or the fill is
there? -/
def demandMet (s : State) (p : Part) (c : Cmd) : Bool :=
  !fillAllowed s || inherits s p c || bitAt c.hints 1 || fillNow s p ≥ demandOf (fitCap p s) p

/-- The fill rises for a held command, at the FCLK at which its demand fits under the cap (R306, R310). -/
def raiseFill (p : Part) (s : State) : State :=
  let s1 := fitCap p s
  let d := demandOf s1 p
  if p.fill.target = d then s1 else moveFill p.first d false s1

/-- PARTITION_COMMAND_START (R244): the head of the partition queue starts, or, with demand, waits for the load fill. -/
def execPartitionCommandStart (part _pick : Nat) (s : State) : Out :=
  commit (
    match Tbl.get? s.parts part with
    | none => s
    | some p =>
      if !running s || p.running.isSome || p.saving.isSome then s
      else
        match startHead s p with
        | none => s
        | some c =>
          if outside s p c || stepEmpty s c then settle (failQueued part c .noPartition s)
          else if c.op = 0x19 then settle (startBind p c (takeHead p c s))
          else if c.op = 0x11 then settle (decide_ c.key .ok [] (quitPart c.job (takeHead p c s)))
          else if c.op = 0x59 then settle (startRestore p c s)
          else if stepWaits s c then s
          else if hasDemand c.op then (if demandMet s p c then beginDemand p c s else raiseFill p s)
          else s)

/-- FILL_REACHES_DEMAND (R310): the fill equals the held command's demand, and it starts. -/
def execFillReachesDemand (part _pick : Nat) (s : State) : Out :=
  commit (
    match Tbl.get? s.parts part with
    | none => s
    | some p =>
      if !running s || p.running.isSome || p.saving.isSome then s
      else
        match startHead s p with
        | none => s
        | some c =>
          if outside s p c || stepEmpty s c then settle (failQueued part c .noPartition s)
          else if hasDemand c.op && !stepWaits s c && fillNow s p ≥ demandOf (fitCap p s) p then beginDemand p c s else s)

/-- CHAIN_STAGE_START (R116): the stage after one that has completed. -/
def execChainStageStart (part : Nat) (s : State) : Out :=
  commit (
    match Tbl.get? s.parts part with
    | none => s
    | some p =>
      match p.running.bind (cmdAt s) with
      | none => s
      | some c =>
        if !running s || !c.between || c.done.isSome || saveDue s p then s
        else settle (startStage c.key p (onCmd c.key (fun c => { c with stageAt := c.stageAt + 1, between := false }) s)))

/-! ### The start of an inning (R101, R102) -/

/-- Credits at a configuration switch: the reservation at the input that each output feeds (R21). -/
def startCredits (p : Part) (c r : Nat) (blk : Nat → Mem) : Tbl Nat :=
  (List.range 4).flatMap fun o =>
    match neighbour c r o with
    | some (c1, r1) =>
      if (partTiles p).contains (c1, r1) then
        ((List.range 16).map fun k => (16 * o + k, blkResv (blk (tileNo c1 r1)) (facing o) k)).filter fun e => e.2 != 0
      else []
    | none => []

/-- Every tile's slot filled where its tag differs (R101). -/
def fillSlots (p : Part) (job : Nat) (b : Binding) (e : Inning) (s : State) : State :=
  (partTiles p).foldl (fun a t =>
    let i := tileNo t.1 t.2
    if !running a || (((tileAt a i).slots[e.slot]?).bind (·.tag)) = some (b.image, e.cfg) then a
    else fillSlot p job b t.1 t.2 e.cfg e.slot a) s

/-- The preload of a block written into the register file (R100). -/
def preload (m : Mem) (rf : Mem) : Mem :=
  Mem.paste rf (64 * blkPreBase m) (64 * blkPreLen m) (Mem.slice m 0xC00 (64 * blkPreLen m))

/-- What an activation reads of a tile's slot, and rewrites of its register file: the block's tables, and the preload except at a restart
(R100, R102). An uncorrectable word there is a job fault (R254, R321; DEDUCED: log 16). -/
def activateReads (p : Part) (job slot : Nat) (restart : Bool) (blk : Nat → Mem) (s : State) (t : Nat × Nat) : State :=
  if !running s || s.mctl.errs = [] then s
  else
    let i := tileNo t.1 t.2
    let n := 64 * blkPreLen (blk i)
    let at_ := i * 2 ^ 20 + 32768 * slot
    let check := fun (a : State) (r : Nat × Nat) =>
      if !running a then a
      else let e := eccRead .configStore (at_ + r.1) r.2 a; ueFault e.ue 5 (some p.first) (some t) job e.st
    let s1 := [(0, 0x400), (0xC00, if restart then 0 else n)].foldl check s
    if running s1 && !restart then eccRewrite .regFile i (64 * blkPreBase (blk i)) n s1 else s1

/-- The slots of an inning's tiles, read for their activation. -/
def readSlots (p : Part) (job slot : Nat) (restart : Bool) (s : State) : State :=
  let blk := fun (i : Nat) => (((tileAt s i).slots[slot]?).map (·.mem)).getD []
  (partTiles p).foldl (activateReads p job slot restart blk) s

/-- A tile at the start of an inning. -/
def startTile (p : Part) (c r slot : Nat) (restart : Bool) (blk : Nat → Mem) (t : Tile) : Tile :=
  let m := blk (tileNo c r)
  { quietTile t with
    slot := slot, pc := 0, i0 := 0, i1 := 0, ended := false, prefetched := false, loads := 0, cycles := 0,
    gated := [], phase := if blkInitPhase m = 1 then .compute else .load, rf := if restart then t.rf else preload m t.rf,
    credits := startCredits p c r blk, creditsDue := [] }

/-- Gate ids that the configuration's preloaded GATE blocks report (R126). -/
def reportedGates (s : State) (nos : List Nat) : List Nat :=
  (nos.flatMap fun i =>
    let m := blkOf s i
    (List.range (blkNops m)).filterMap fun pc =>
      let w := blkOp m pc
      if opCode w = 0x0A && inPreload m (gatePaddr w) then
        let g := gateParams (Mem.read m (0xC00 + 64 * (gatePaddr w - blkPreBase m)) 64)
        if g.report then some g.gateId else none
      else none).eraseDups

/-- The last descriptor of a command whose chain goes on (R182, R185). -/
def openChain (s : State) (k : Nat × Nat) : Option Nat :=
  ((descsOf s k).reverse.find? fun e => dChain e.2.bytes && !(s.descs.any fun x => x.2.after == some e.1)).map (·.1)

/-- The inning's descriptors, in order (R98, R182). Bit i of a template's mask names the partition's i-th group. -/
def addInningDescs (p : Part) (c : Cmd) (r : RunInfo) (b : Binding) (e : Inning) (img : List Byte) (s : State) : State :=
  ((List.range e.sCount).foldl (fun (a : Option Nat × State) i =>
    let d0 := imgStream img (e.sFirst + i)
    let groups := dGroups d0 * 2 ^ p.first
    let d1 := putB d0 28 (leBytes 4 (groups % 2 ^ 32))
    let h := (symBind a.2 c.job r.bufs r.slot (dObj d0)).getD (0, 0)
    let d := { mkDesc c.key c.job (some p.first) (e.sFirst + i) r.entry d1 with
                 handle := h.1, beyond := decide (groups ≥ 2 ^ 32), objOff := dOff d0 + h.2, base := b.base.getD 0, after := a.1, gated := dGated d0 && !dEarly d0 }
    (if dChain d0 then some a.2.nextDesc else none, addDesc d a.2)) (openChain s c.key, s)).2

/-- Tiles that start in LOAD prefetch (R101). -/
def prefetchAll (p : Part) (s : State) : State :=
  (partTiles p).foldl (fun a t =>
    match ctxAt a t.1 t.2 with
    | some x => if (tileAt a x.t).phase = .load then prefetch x a else a
    | none => a) s

/-- INNING_START (R101, R102): the slots, the activation of every tile, the slot index at 0, and the inning's descriptors. -/
def execInningStart (part : Nat) (s : State) : Out :=
  commit (
    match runningRun s part with
    | none => s
    | some (p, c, r) =>
      if !running s || r.inInning || r.finished || c.between || saveDue s p then s
      else
        match (imgInnings (imgOf s r.image))[r.entry]?, bindingOf s c.job r.image with
        | some e, some b =>
          let s1 := readSlots p c.job e.slot r.restart (if r.restart then s else fillSlots p c.job b e s)
          if !running s1 || !((cmdAt s1 c.key).any (·.done.isNone)) then s1
          else
            let blk := fun (i : Nat) => (((tileAt s1 i).slots[e.slot]?).map (·.mem)).getD []
            let s2 := (partTiles p).foldl (fun a t => onTile (tileNo t.1 t.2) (startTile p t.1 t.2 e.slot r.restart blk) a) s1
            let gates := reportedGates s2 (partNos p)
            let r1 := { r with inInning := true, restart := false, huddleDone := false,
                               plans := [],
                               demand := r.demand.filter fun g => !gates.contains g.1 && Tbl.getD g.2 8193 0 != 1 + e.cfg }
            let frame := blkFrame (blk ((partNos p).headD 0))
            let s3 := onPart part (fun x => { x with slotIdx := 0, frame := frame, stalls := [] }) (onCmd c.key (fun c => setRun c r1) s2)
            sweepIdle (prefetchAll p (addInningDescs p c r1 b e (imgOf s r.image) s3))
        | _, _ => failRunning c.key .badParam s)

/-! ### The end of an inning and of a RUN (R99, R100) -/

/-- Does an entry end in a huddle: its flag, and an entry of the job's plan for this huddle? -/
def huddleDue (s : State) (c : Cmd) (r : RunInfo) (e : Inning) : Bool := bitAt e.flags 2 && r.huddleIdx < planHuddles s c.job

/-- The tiles of a partition are done with an inning. -/
def tilesDone (s : State) (p : Part) : Bool :=
  (partNos p).all fun i => let t := tileAt s i; t.ended && t.steer.all (·.armed == 0)

/-- Every descriptor of the inning has completed. -/
def descsDone (s : State) (c : Cmd) (r : RunInfo) : Bool := (descsOf s c.key).all fun e => e.2.entry != r.entry || e.2.done

/-- The entry after one (R99), with how often the loop's last entry has run since the loop was entered: loops do not nest, so one
count serves, and it stands while the other entries of the loop run. -/
def nextEntry (r : RunInfo) (e : Inning) : Nat × Nat :=
  let n := if bitAt e.flags 1 then Tbl.getD r.dims (e.loopCnt % 256) 0 else e.loopCnt
  if !bitAt e.flags 0 then (r.entry + 1, r.loops)
  else if r.loops + 1 < n then (e.loopTo, r.loops + 1)
  else (r.entry + 1, 0)

/-- INNING_END (R99). -/
def execInningEnd (part : Nat) (s : State) : Out :=
  commit (
    match runningRun s part with
    | none => s
    | some (p, c, r) =>
      let es := imgInnings (imgOf s r.image)
      match es[r.entry]? with
      | none => s
      | some e =>
        if !running s || !r.inInning || !tilesDone s p || !descsDone s c r || p.huddle.isSome
          || (bitAt e.flags 2 && !r.huddleDone && (huddleDue s c r e)) then s
        else
          let (nx, loops) := nextEntry r e
          let r1 := { r with inInning := false, executed := r.executed + 1, entry := nx, loops := loops, restart := nx = r.entry,
                             finished := es.length ≤ nx }
          let s1 := drainPart part (onCmd c.key (fun c => setRun c r1) s)
          let past := ((descsOf s1 c.key).filter fun d => d.2.done && !chainOpen s1 s1.descs.length d.1).map (·.1)
          { s1 with descs := s1.descs.filter fun d => !past.contains d.1 })

/-- RUN_COMPLETE (R99, R226): the graph of the RUN, or of a chain's stage, is complete. -/
def execRunComplete (part : Nat) (s : State) : Out :=
  commit (
    match runningRun s part with
    | none => s
    | some (p, c, r) =>
      if !running s || !r.finished || r.inInning || c.between || !((descsOf s c.key).all fun e => e.2.done) then s
      else
        let s1 := runEvents p c.job r { s with descs := s.descs.filter fun e => !(e.2.queue == c.queue && e.2.seq == c.seq) }
        if c.op = 0x31 then endStage c.key s1
        else
          let st := if r.cheaper then Status.okDegraded else .ok
          settle (freePart part (decide_ c.key st (runResult r) s1)))

end Sys2Proof.Machine
end

