-- ==== Sys2Proof/Machine/Huddle.lean ====
section
/-! DEFINITION. Exchange plans and huddles: EXCHANGE_PLAN, opening, segments out and in, closing and the loss of a peer
(R124, R147-R152, R235, R297-R299). -/
namespace Sys2Proof.Machine

/-! ### EXCHANGE_PLAN (R235) -/

def planAddr (p : Pkt) : Nat := fieldAt p 40 8
def planLen (p : Pkt) : Nat := fieldAt p 48 4

/-- Offsets of the plan's parts, each on a 64 B boundary: the gate table, the home tables, and the peer table after the last
home table. -/
def gateTableOff (nhud : Nat) : Nat := 64 + 64 * ceilDiv (4 * nhud) 64

/-- Gate `i` of the gate table. -/
def planGate (b : List Byte) (nhud i : Nat) : PlanGate :=
  let g := sliceB b (gateTableOff nhud + 32 * i) 32
  let e := fieldAt g 2 2
  { gateId := byteAt g 0, rwords := byteAt g 1, experts := e, homeBase := fieldAt g 8 4, stageBase := fieldAt g 12 4,
    wmul := fieldAt g 16 2, nlane := byteAt g 18,
    homes := (sliceB b (fieldAt g 4 4) e).map fun x => bitsOf x.toNat 0 6 }

/-- Where the home tables end: they stand one after the other, each on a 64 B boundary. -/
def homeEnd (b : List Byte) (nhud ngate : Nat) : Nat :=
  (List.range ngate).foldl (fun a i => max a (64 * ceilDiv (fieldAt b (gateTableOff nhud + 32 * i + 4) 4
    + fieldAt b (gateTableOff nhud + 32 * i + 2) 2) 64)) (gateTableOff nhud + 64 * ceilDiv (32 * ngate) 64)

/-- A plan as its bytes give it. -/
def readPlan (b : List Byte) : Plan :=
  let np := byteAt b 0
  let nh := byteAt b 1
  let ng := byteAt b 2
  let po := homeEnd b nh ng
  { rally0 := fieldAt b 8 8, period := fieldAt b 16 8,
    huddles := (List.range nh).map fun i => (byteAt b (64 + 4 * i), byteAt b (64 + 4 * i + 1)),
    gates := (List.range ng).map (planGate b nh),
    peers := (List.range np).map fun i => (byteAt b (po + 16 * i), byteAt b (po + 16 * i + 1), fieldAt b (po + 16 * i + 2) 2) }

/-- Bytes of the plan that its layout reserves are 0 (R5). -/
def planReservedOk (b : List Byte) : Bool :=
  let np := byteAt b 0
  let nh := byteAt b 1
  let ng := byteAt b 2
  let po := homeEnd b nh ng
  allZero (sliceB b 3 5) && allZero (sliceB b 24 40)
    && (List.range nh).all (fun i => allZero (sliceB b (64 + 4 * i + 2) 2))
    && (List.range ng).all (fun i => allZero (sliceB b (gateTableOff nh + 32 * i + 19) 13))
    && (List.range np).all fun i => allZero (sliceB b (po + 16 * i + 4) 12)

/-- Least extent of a gate's windows: one row for each expert and lane. -/
def windowsIn (data : Nat) (g : PlanGate) (own : Nat) : Bool :=
  let here := (g.homes.filter (· == own)).length
  let away := (g.homes.filter (· != own)).length
  g.homeBase + here * g.wmul ≤ data && g.stageBase + away * g.nlane ≤ data

/-- The data area of the job's bound images, the largest; none bound leaves it open. -/
def dataAreaOf (s : State) (job : Nat) : Option Nat :=
  ((Tbl.get? s.jobs job).map fun j => j.bindings.map (·.dataUnits)).bind List.max?

/-- BAD_PARAM of R235. -/
def planOk (s : State) (job : Nat) (b : List Byte) : Bool :=
  let p := readPlan b
  let own := s.glb.partId.toNat
  1 ≤ byteAt b 0 && byteAt b 0 ≤ 63 && 1 ≤ byteAt b 1 && byteAt b 1 ≤ 64 && 1 ≤ byteAt b 2 && byteAt b 2 ≤ 16
    && 1 ≤ p.period && planReservedOk b && homeEnd b (byteAt b 1) (byteAt b 2) + 16 * byteAt b 0 ≤ b.length
    && p.huddles.all (fun h => h.2 ≤ 1 && p.gates.any (·.gateId == h.1))
    && p.peers.all (fun q => q.1 < 64 && q.1 != own)
    && p.gates.all (fun g => 1 ≤ g.rwords && g.rwords ≤ 64 && g.homes.all (fun h => h == own || p.peers.any (·.1 == h))
      && (match dataAreaOf s job with | some d => windowsIn d g own | none => true))

/-- The plan's bytes in host memory. -/
def planBytes (s : State) (p : Pkt) : List Byte := readHost s (planAddr p) (planLen p)

def exchangePlanSpec : OpSpec :=
  { op := 0x68, aq := false, sq := true, flags := 0, minUnits := fun _ => 0, queued := false, used := fun _ => [(40, 12)]
    params := fun s _ p => firstRef [refuseIf (planLen p < 64) .badParam 48,
                                     refuseIf (!hostOk s (planAddr p) (planLen p)) .badAddr,
                                     refuseIf (!planOk s (pktJob p) (planBytes s p)) .badParam noLoc]
    state := fun _ _ _ => none
    resources := fun s _ p =>
      refuseIf ((readPlan (planBytes s p)).peers.any fun q => !enabled s q.1) .tenantBlocked
    effect := fun c _ s =>
      let l := readPlan (planBytes s c.pkt)
      decide_ c.key .ok [] (onJob c.job (fun j => { j with plan := some l, hseq := 0 }) s) }

/-- EXCHANGE_PLAN (R147, R235). -/
def execExchangePlan (q : Nat) (p : Pkt) (pick : Nat) (s : State) : Out := commit (hostCommand exchangePlanSpec q p pick s)

/-! ### Windows (R32, R150): which bank units hold a row -/

/-- What an exchange engine works with: the partition, its command and RUN, the bound region, the plan and the gate. -/
structure HudCtx where
  part : Part
  cmd : Cmd
  run : RunInfo
  base : Nat
  data : Nat
  plan : Plan
  gate : PlanGate
  info : GateInfo
  own : Nat
  /-- Tile and row stride of each slice of a window that starts at the home base and at the staging base. -/
  home : List (Nat × Nat)
  stage : List (Nat × Nat)

/-- The gate of a RUN as its executions left it; of a gate that has not run, as a preload of the image gives it. -/
def gateInfoOf (s : State) (r : RunInfo) (g : Nat) : GateInfo :=
  match Tbl.get? r.gates g with
  | some i => i
  | none =>
    let b := imgOf s r.image
    match (preloadGates b).find? (·.gateId == g) with
    | some q => { c := capacity (imgCf b) (Tbl.getD r.dims q.tokDim 0) q.kmean q.e, map := [], lanes := [], recv := [] }
    | none => { c := 0, map := [], lanes := [], recv := [] }

/-- Tiles of a partition whose steering units fill a bank window that starts at `start`, in tile order, with its stride. -/
def windowTiles (s : State) (p : Part) (start : Nat) : List (Nat × Nat) :=
  (partNos p).filterMap fun t =>
    let m := blkOf s t
    ((List.range 16).find? fun k =>
      let e := steerEntry m (k / 8) (k % 8)
      bitsOf e 62 2 = 2 && bitsOf e 32 18 = start).map fun k => (t, bitsOf (steerEntry m (k / 8) (k % 8)) 24 8)

/-- Bank address of word `w` of a window row: tile slice `w` of the window, or, where no unit fills one, the partition's
tiles in order (DESIGN CHOICE: log 20). None outside the data area. -/
def rowWord (h : HudCtx) (slices : List (Nat × Nat)) (start row w : Nat) : Option Nat :=
  let nos := partNos h.part
  let n := max 1 nos.length
  let (t, u) := match slices[w]? with
    | some x => (x.1, start + row * x.2)
    | none => (nos.getD (w % n) 0, start + row * ceilDiv h.gate.rwords n + w / n)
  if u < h.data then some (bankBase t + 64 * (h.base + u)) else none

/-- Every word of a row. -/
def rowWords (h : HudCtx) (slices : List (Nat × Nat)) (start row : Nat) : List (Option Nat) :=
  (List.range h.gate.rwords).map (rowWord h slices start row)

/-- Experts homed at a part, in ascending id. -/
def homedAt (g : PlanGate) (d : Nat) : List Nat := (List.range g.homes.length).filter fun e => g.homes.getD e 64 == d

/-- SLOT of an expert: its map entry's, else its rank among those homed with it. -/
def slotOfExpert (h : HudCtx) (e : Nat) : Nat :=
  match h.info.map[e]? with
  | some m => bitsOf m 3 11
  | none => ((homedAt h.gate (h.gate.homes.getD e 64)).idxOf? e).getD 0

/-- Staging rows of an expert: lane by lane, each lane's first COUNT rows (R132, R150). -/
def stagingRows (h : HudCtx) (e : Nat) : List Nat :=
  (List.range h.gate.nlane).flatMap fun l =>
    let k := (Tbl.getD h.info.lanes l []).getD e (0, none)
    (List.range k.1).map fun j => slotOfExpert h e * h.gate.nlane * h.info.c + k.2.getD (l * h.info.c) + j

/-- Home row `j` of an expert from a source (R150). -/
def homeRow (h : HudCtx) (e bmul j : Nat) : Nat := slotOfExpert h e * h.gate.wmul * h.info.c + bmul * h.info.c + j

/-! ### Segments out (R149) -/

/-- Rows a segment to a peer carries, by expert: in a dispatch the staging rows of the experts homed there, in a combine the
home rows that the peer filled. -/
def rowsFor (h : HudCtx) (combine : Bool) (peer bmul : Nat) : List (List Nat) :=
  if combine then
    ((homedAt h.gate h.own).zipIdx).map fun e =>
      (List.range ((Tbl.getD h.info.recv peer []).getD e.2 0)).map (homeRow h e.1 bmul)
  else (homedAt h.gate peer).map (stagingRows h)

/-- Bank units read in order, each through its code: the bytes, the uncorrectable words that end it, the state. -/
def readUnits : List (Option Nat) → List Byte → State → List Byte × List ErrWord × Bool × State
  | [], acc, s => (acc, [], true, s)
  | none :: _, acc, s => (acc, [], false, s)
  | some a :: l, acc, s =>
    let r := eccRead .bank a 64 s
    match r.ue with
    | e :: es => (acc, e :: es, true, r.st)
    | [] => readUnits l (acc ++ r.bytes) r.st

/-- A list of bytes padded with zeros to a multiple of 64. -/
def pad64 (b : List Byte) : List Byte := b ++ List.replicate (64 * ceilDiv b.length 64 - b.length) 0

/-- The segment for a peer. -/
def segmentFor (h : HudCtx) (hseq : Nat) (combine : Bool) (q : Nat × Nat × Nat) (s : State) :
    List Byte × List ErrWord × Bool × State :=
  let rows := rowsFor h combine q.1 q.2.2
  let n := (rows.map List.length).sum
  let flags := 4 * ofBool combine
  if n = 0 then (segHeader s hseq q.1 h.gate.gateId (1 + flags) 0 0 h.gate.rwords, [], true, s)
  else
    let (sl, st) := if combine then (h.home, h.gate.homeBase) else (h.stage, h.gate.stageBase)
    let (b, ue, ok, s1) := readUnits (rows.flatten.flatMap (rowWords h sl st)) [] s
    (segHeader s hseq q.1 h.gate.gateId flags n rows.length h.gate.rwords
      ++ pad64 (rows.flatMap fun r => leBytes 2 r.length) ++ b, ue, ok, s1)

/-- Peers in ascending part id. -/
def peersUp (p : Plan) : List (Nat × Nat × Nat) := p.peers.mergeSort fun a b => a.1 ≤ b.1

/-- The context of the huddle of a partition. -/
def hudCtx (s : State) (f gate : Nat) : Option HudCtx :=
  match runningRun s f with
  | none => none
  | some (p, c, r) =>
    match planOf s c.job, bindingOf s c.job r.image with
    | some l, some b =>
      (planGateOf l gate).map fun g =>
        { part := p, cmd := c, run := r, base := b.base.getD 0, data := b.dataUnits, plan := l, gate := g,
          info := gateInfoOf s r gate, own := s.glb.partId.toNat,
          home := windowTiles s p g.homeBase, stage := windowTiles s p g.stageBase }
    | _, _ => none

/-- The RUN of a huddle fails; PEER_LOST is posted for the peers with its cause (R152, R299). -/
def losePeers (h : HudCtx) (u : Huddle) (ps : List Nat) (cause : Nat) (s : State) : State :=
  let s1 := ps.foldl (fun a d => postPeerLost d u.gateId u.hseq cause h.part.first h.cmd.job a) s
  failRunning h.cmd.key .peerLost s1

/-- A huddle loses the peers of it among those that have gone down (R299). The others of its plan are noted, for those of them that go
down before the partition starts another command: each is posted too (DEDUCED, log 20: the worked example after R299). -/
def losePeersDown (ds : List Nat) (x : HudCtx × Huddle) (s : State) : State :=
  let all := x.1.plan.peers.map (·.1)
  onPart x.1.part.first (fun p => { p with lost := some { job := x.1.cmd.job, hseq := x.2.hseq, gateId := x.2.gateId,
                                                          peers := all.filter (!ds.contains ·) } })
    (losePeers x.1 x.2 (all.filter ds.contains) 2 s)

/-- Segments built peer by peer, in ascending part id: the messages to send, or the words or window that stop them. -/
def buildSegments (h : HudCtx) (u : Huddle) : List (Nat × Nat × Nat) → List (Nat × Nat × Nat × List Byte) → State →
    List (Nat × Nat × Nat × List Byte) × List ErrWord × Bool × State
  | [], acc, s => (acc, [], true, s)
  | q :: l, acc, s =>
    let (b, ue, ok, s1) := segmentFor h u.hseq u.combine q s
    if ue != [] || !ok then (acc, ue, ok, s1)
    else
      let (id, s2) := newMsgId s1
      buildSegments h u l (acc ++ [(q.1, 0, id, b)]) s2

/-- The huddle opens (R148, R149): its segments leave, headers first. A peer that is down fails it at once (R299). -/
def openHuddle (h : HudCtx) (u : Huddle) (s : State) : State :=
  let u1 := { u with opened := true, openedAt := s.clk.rackTime }
  let s1 := onPart h.part.first (fun p =>
    { p with huddle := some u1,
             counters := if u.late then { p.counters with huddleLate := p.counters.huddleLate + 1 } else p.counters }) s
  let gone := (peersUp h.plan).filter fun q => !(peerAt s q.1).up
  if gone != [] then losePeersDown (gone.map (·.1)) (h, u1) s1
  else
    let (ms, ue, ok, s2) := buildSegments h u1 (peersUp h.plan) [] s1
    match ue with
    | e :: es => ueFault (e :: es) 3 (some h.part.first) (bankTile [e]) h.cmd.job s2
    | [] =>
      if !ok then failRunning h.cmd.key .badParam s2
      else
        noteMoved h.cmd.key 0 ((ms.map fun m => m.2.2.2.length).sum) (sendMessages ms (onPart h.part.first (fun p =>
          { p with huddle := some { u1 with unacked := ms.map (·.2.2.1) } }) s2))

/-- A partition enters its huddle (R148): every tile in LOAD, and HSEQ taken. -/
def enterHuddle (p : Part) (c : Cmd) (r : RunInfo) (g : Nat × Nat) (at_ : W64) (s : State) : State × Huddle :=
  let u : Huddle := { hseq := r.hseqBase + r.huddleIdx, gateId := g.1, combine := g.2 == 1, opened := false,
                      openedAt := s.clk.rackTime, late := s.clk.rally != at_ && rallyReached s at_, headers := [], complete := [], unacked := [] }
  (onPart p.first (fun x => { x with held := true, huddle := some u })
    (onTiles (partNos p) (fun t => { t with phase := .load })
      (onCmd c.key (fun c => setRun c { r with huddleIdx := r.huddleIdx + 1 }) s)), u)

/-- Is a huddle that another partition has entered due before one at this rally count: huddles open in rally-count order, across all jobs
(R246)? -/
def earlierDue (s : State) (part : Nat) (at_ : W64) : Bool :=
  (Tbl.vals s.parts).any fun p => p.first != part && (match p.huddle, p.running.bind (cmdAt s) with
    | some u, some c => !u.opened && (planOf s c.job).any fun l =>
        let t := huddleRally l u.hseq
        rallyReached s t && t != at_ && decide ((at_ - t).toNat < 2 ^ 63)
    | _, _ => false)

/-- HUDDLE_OPEN (R148, R246): the partition enters its huddle when its tiles are done with the inning, and the huddle opens when the
rally count has come; one that enters after the count opens late. -/
def execHuddleOpen (part : Nat) (s : State) : Out :=
  commit (
    match runningRun s part with
    | none => s
    | some (p, c, r) =>
      if !running s then s
      else
        match p.huddle, planOf s c.job with
        | some u, some l =>
          let at_ := huddleRally l u.hseq
          if u.opened || !rallyReached s at_ || earlierDue s part at_ then s
          else match hudCtx s part u.gateId with
            | some h => openHuddle h u s
            | none => failRunning c.key .badParam s
        | none, some l =>
          match (imgInnings (imgOf s r.image))[r.entry]?, l.huddles[r.huddleIdx]? with
          | some e, some g =>
            if !r.inInning || r.huddleDone || !huddleDue s c r e || !tilesDone s p then s
            else
              let at_ := huddleRally l (r.hseqBase + r.huddleIdx)
              let (s1, u) := enterHuddle p c r g at_ s
              if rallyReached s1 at_ && !earlierDue s1 part at_ then
                match hudCtx s1 part u.gateId with
                | some h => openHuddle h u s1
                | none => failRunning c.key .badParam s1
              else s1
          | _, _ => s
        | _, none => s)

/-! ### Segments in (R150) -/

/-- A header as received. -/
structure SegHead where
  hseq : Nat
  gate : Nat
  flags : Nat
  nrows : Nat
  nexp : Nat
  rwords : Nat

def segHead (b : List Byte) : SegHead :=
  { hseq := fieldAt b 0 4, gate := byteAt b 6, flags := byteAt b 7, nrows := fieldAt b 8 4, nexp := fieldAt b 12 2,
    rwords := fieldAt b 14 2 }

/-- The oldest segment from a part whose header has arrived. -/
def segmentFrom (s : State) (src : Nat) : Option Msg :=
  s.lnk.msgs.find? fun m => m.src == src && m.kind == 0 && covered m.have_ 0 16

/-- The header is not of this huddle, or has reserved flag bits set (R149). -/
def badHeader (u : Huddle) (k : SegHead) : Bool := k.hseq != u.hseq || k.gate != u.gateId || k.flags ≥ 8

/-- Rows of expert number `i` (an id) from a source: the window, and its quota. -/
def landingRows (h : HudCtx) (combine : Bool) (q : Nat × Nat × Nat) (e : Nat) : List Nat :=
  if combine then stagingRows h e else (List.range (q.2.1 * h.info.c)).map (homeRow h e q.2.2)

/-- Experts whose rows a segment from a peer carries: in a dispatch those homed here, in a combine those homed there. -/
def carried (h : HudCtx) (combine : Bool) (peer : Nat) : List Nat :=
  homedAt h.gate (if combine then peer else h.own)

def zeroUnits (l : List (Option Nat)) (s : State) : State :=
  l.foldl (fun a u => match u with | some x => clearMem x 64 a | none => a) s

/-- Quota rows a count does not reach are cleared (R150); a combine has none. -/
def clearQuotas (h : HudCtx) (combine : Bool) (q : Nat × Nat × Nat) (counts : List Nat) (s : State) : State :=
  if combine then s
  else
    ((carried h false q.1).zipIdx).foldl (fun a e =>
      ((landingRows h false q e.1).drop (counts.getD e.2 0)).foldl (fun a r =>
        zeroUnits (rowWords h h.home h.gate.homeBase r) a) a) s

/-- Received rows written: row by row, word by word; false when one lies outside the data area. -/
def writeRows (h : HudCtx) (combine : Bool) (rwords : Nat) : List Nat → List Byte → State → Bool × State
  | [], _, s => (true, s)
  | r :: l, b, s =>
    let us := if combine then rowWords h h.stage h.gate.stageBase r else rowWords h h.home h.gate.homeBase r
    if us.any (·.isNone) then (false, s)
    else
      let s1 := (us.zipIdx).foldl (fun a u => match u.1 with
        | some x => if u.2 < rwords then writeMem x (sliceB b (64 * u.2) 64) a else a
        | none => a) s
      writeRows h combine rwords l (b.drop (64 * rwords)) s1

/-- The counts of a dispatch from a source kept for the combine (R150). -/
def noteRecv (h : HudCtx) (combine : Bool) (src : Nat) (counts : List Nat) (s : State) : State :=
  if combine then s
  else onCmd h.cmd.key (fun c => match curRun c with
    | some r => setRun c { r with gates := Tbl.set r.gates h.gate.gateId { h.info with recv := Tbl.set h.info.recv src counts } }
    | none => c) s

/-- The rows of a whole segment written, and its counts kept for the combine. -/
def takeRows (h : HudCtx) (combine : Bool) (q : Nat × Nat × Nat) (k : SegHead) (counts : List Nat) (b : List Byte) (s : State) :
    Bool × State :=
  let rows := ((carried h combine q.1).zipIdx).flatMap fun e => (landingRows h combine q e.1).take (counts.getD e.2 0)
  let (ok, s1) := writeRows h combine k.rwords rows b s
  (ok, noteRecv h combine q.1 counts s1)

def onHuddle (f : Nat) (g : Huddle → Huddle) (s : State) : State := onPart f (fun p => { p with huddle := p.huddle.map g }) s

/-- What the receiving engine does with a segment of its huddle. -/
def takeSegment (h : HudCtx) (u : Huddle) (q : Nat × Nat × Nat) (m : Msg) (s : State) : State :=
  let f := h.part.first
  let k := segHead (Mem.read m.bytes 0 16)
  let s0 := onHuddle f (fun u => { u with headers := if u.headers.contains q.1 then u.headers else u.headers ++ [q.1] }) s
  let end_ := fun (s : State) => dropMsg m (onHuddle f (fun u => { u with complete := u.complete ++ [q.1] }) s)
  if bitAt k.flags 1 then losePeers h u [q.1] 2 (dropMsg m s)
  else if bitAt k.flags 0 then end_ (noteRecv h u.combine q.1 [] (clearQuotas h u.combine q [] s0))
  else
    let tab := 64 * ceilDiv (2 * k.nexp) 64
    if !covered m.have_ 0 (16 + tab) && !msgComplete m then s0
    else
      let counts := (List.range k.nexp).map fun i => fieldAt (Mem.read m.bytes (16 + 2 * i) 2) 0 2
      let quota := (if u.combine then h.gate.nlane else q.2.1) * h.info.c
      if counts.any (· > quota) then failRunning h.cmd.key .badParam (dropMsg m s0)
      else
        let s1 := clearQuotas h u.combine q counts s0
        if !msgComplete m then s1
        else
          let (ok, s2) := takeRows h u.combine q k counts (Mem.read m.bytes (16 + tab) (64 * k.rwords * k.nrows)) s1
          if ok then end_ (noteMoved h.cmd.key 0 (m.len.getD 0) s2) else failRunning h.cmd.key .badParam (dropMsg m s2)

/-- The header that a zero RUN awaits from a peer (R124): an ABORT is a loss, posted as an event only. -/
def takeLater (s : State) (part src : Nat) (m : Msg) : Option State :=
  let k := segHead (Mem.read m.bytes 0 16)
  let is := fun (l : Later) => l.zero && l.sentAt.isSome && l.part == part && l.peer == src && l.hseq == k.hseq && l.gateId == k.gate
  match s.lnk.later.find? is with
  | none => none
  | some l =>
    let s1 := dropMsg m { s with lnk := { s.lnk with later := s.lnk.later.filter fun x => !is x } }
    some (if bitAt k.flags 1 then postPeerLost src l.gateId l.hseq 2 part l.job s1 else s1)

/-- SEGMENT_RECEIVED (R149, R150): the oldest segment from a part. One that is not of the open huddle is discarded and
counted in HUDDLE_BAD, unless a zero RUN awaits it. -/
def execSegmentReceived (part src : Nat) (s : State) : Out :=
  commit (
    if !running s then s
    else
      match segmentFrom s src, (Tbl.get? s.parts part).bind (·.huddle) with
      | some m, some u =>
        match (if u.opened then hudCtx s part u.gateId else none) with
        | none => (takeLater s part src m).getD s
        | some h =>
          match h.plan.peers.find? (·.1 == src) with
          | none => s
          | some q =>
            if u.complete.contains src || badHeader u (segHead (Mem.read m.bytes 0 16)) then
              match takeLater s part src m with
              | some s1 => s1
              | none => dropMsg m (onPart part (fun p =>
                  { p with counters := { p.counters with huddleBad := p.counters.huddleBad + 1 } }) s)
            else takeSegment h u q m s
      | some m, none => (takeLater s part src m).getD s
      | _, _ => s)

/-! ### The end of a huddle (R151, R152) -/

/-- Flits of the huddle's segments wait or are unacknowledged on a port: a burst whose first flit is there, or the rest of the
burst whose first flits are acknowledged. -/
def portOwes (p : LinkPort) (ids : List Nat) : Bool :=
  let sent := p.buf.map fun f => (bitsOf (fieldAt f.bytes 0 8) 20 4, bitAt (fieldAt f.bytes 0 8) 25, f.bytes.drop 8)
  let wait := p.queue.map fun q => (byteAt q.2 0, bitAt (byteAt q.2 2) 0, q.2.drop 3)
  ((sent ++ wait).filter fun x => x.1 == 1).zipIdx.any fun x =>
    if x.1.2.1 then ids.contains (fieldAt x.1.2.2 0 4) else x.2 == 0

/-- HUDDLE_CLOSE (R151): this part's segments are acknowledged and every peer's is complete. -/
def execHuddleClose (part : Nat) (s : State) : Out :=
  commit (
    match runningRun s part with
    | none => s
    | some (p, c, r) =>
      match p.huddle, planOf s c.job with
      | some u, some l =>
        if !running s || !u.opened || !(l.peers.all fun q => u.complete.contains q.1)
          || s.lnk.ports.any (fun x => portOwes x u.unacked) then s
        else onPart part (fun p => { p with huddle := none, held := false })
          (onCmd c.key (fun c => setRun c { r with huddleDone := true }) s)
      | _, _ => s)

/-- The cause for which a peer is lost in an open huddle now, if any (R152, R299). -/
def lossCause (s : State) (u : Huddle) (peer : Nat) : Option Nat :=
  if !u.opened || u.complete.contains peer then none
  else if !(peerAt s peer).up then some 2
  else
    match segmentFrom s peer with
    | some m =>
      if badHeader u (segHead (Mem.read m.bytes 0 16)) then
        (if passed s u.openedAt (msUnits 1) then some 0 else none)
      else if passed s (if elapsed u.openedAt m.at_ < 2 ^ 63 then m.at_ else u.openedAt) (msUnits 1) && !msgComplete m then some 1
      else none
    | none => if passed s u.openedAt (msUnits 1) then some (if u.headers.contains peer then 1 else 0) else none

/-- HUDDLE_PEER_TIMEOUT (R152): the peer is lost to the huddle of the partition, or to that of a zero RUN (R124). -/
def execHuddlePeerTimeout (part peer : Nat) (s : State) : Out :=
  commit (
    if !running s then s
    else
      let late := s.lnk.later.find? fun l => l.zero && l.part == part && l.peer == peer
        && (l.sentAt.any fun t => passed s t (msUnits 1))
      match late with
      | some l =>
        postPeerLost peer l.gateId l.hseq 0 part l.job { s with lnk := { s.lnk with later := s.lnk.later.erase l } }
      | none =>
        match (Tbl.get? s.parts part).bind (·.huddle) with
        | none => s
        | some u =>
          match hudCtx s part u.gateId with
          | none => s
          | some h =>
            if !(h.plan.peers.any (·.1 == peer)) then s
            else match lossCause s u peer with
              | some cause => losePeers h u [peer] cause s
              | none => s)

end Sys2Proof.Machine
end

