-- ==== Sys2Proof/Machine/Compute.lean ====
section
/-! DEFINITION. The spare map chosen by a tile test (R35, R38), RESET_COMPUTE (R257), and the hot reset that the host link
brings (R375, R391). -/
namespace Sys2Proof.Machine

/-! ### Tile test and spare map (R35, R38) -/

/-- Do a retired column and row cover every fault of a die? -/
def mapCovers (col row : Nat) (faults : List (Nat × Nat)) : Bool := faults.all fun f => f.1 == col || f.2 == row

/-- The spare first, then the others in order. -/
def spareFirst (n : Nat) : List Nat := n :: List.range n

/-- The map firmware chooses: the spare column and row where they serve, else the first pair, by column, that covers every
fault; none when the die is not repairable. -/
def chooseMap (faults : List (Nat × Nat)) : Option (Nat × Nat) :=
  ((spareFirst 16).flatMap fun c => (spareFirst 12).map fun r => (c, r)).find? fun m => mapCovers m.1 m.2 faults

/-- A die's map after a tile test. -/
def testDie (m : SpareMap) (faults : List (Nat × Nat)) : SpareMap :=
  match chooseMap faults with
  | some (c, r) => { applied := true, withdrawn := false, col := c, row := r, colReg := c, rowReg := r, faults }
  | none => { m with applied := true, withdrawn := true, faults }

/-- The tile test of one die: a map other than the one in force engages a spare (R329). -/
def testOne (die : Nat) (s : State) : State :=
  match s.ras.maps[die]? with
  | none => s
  | some m =>
    let found := (s.ras.latent.filter (·.1 == die)).map (·.2)
    let m1 := testDie m (m.faults ++ found.filter (!m.faults.contains ·))
    let now := s.ras.force.zipIdx.map fun f => if dieOfGroup f.2 == die then (m1.col, m1.row) else f.1
    let s1 := { s with ras := { s.ras with maps := modAt s.ras.maps die fun _ => m1, force := now } }
    if (m1.col, m1.row) != (m.col, m.row) then engageSpare 0 die 0 0 s1 else checkSpares false 0 die 0 0 s1

/-- Every tile tested, and the maps chosen anew from all faults known. -/
def testTiles (s : State) : State :=
  let s1 := (List.range 8).foldl (fun a d => testOne d a) s
  { s1 with ras := { s1.ras with latent := [] } }

/-! ### RESET_COMPUTE (R257) -/

/-- Commands that a job fault ends: those of jobs, on any queue. -/
def lostCmds (s : State) : List Cmd := s.cmds.filter (·.job != 0)

/-- RESULT of a command that completes JOB_LOST: a model command's slot, what a RUN or RUN_CHAIN says of itself (R224, R226, R227). -/
def lostResult (c : Cmd) : List Byte :=
  if c.op = 0x20 then slotResult c
  else if c.op = 0x30 || c.op = 0x31 then endResult c .jobLost
  else if c.op = 0x21 || c.op = 0x22 then c.result
  else []

/-- An IMAGE_LOAD that had its image and completes JOB_LOST leaves neither handle nor object (R83). -/
def loseImage (c : Cmd) (s : State) : State :=
  if c.op = 0x18 && c.done == some .ok then
    let h := leNat (c.result.take 4)
    dropObj h { s with images := Tbl.erase s.images h }
  else s

/-- A command completes JOB_LOST; the completion of a MODEL_STAGE returns its slot to EMPTY (R171). -/
def loseCmd (s : State) (c : Cmd) : State :=
  finishCmd c.key (onCmd c.key (fun c => { c with done := some .jobLost, result := lostResult c }) (loseImage c s))

/-- STAGING and RETIRING slots become EMPTY; nothing is bound to the others. -/
def resetSlot (j m : Nat) (b : Bool) (s : State) : State :=
  let x := slotOf (modelAt s j m) b
  match x.state with
  | .staging | .retiring => freeSlot j m b s
  | _ => setModel j m (setSlot (modelAt s j m) b { x with bound := 0 }) s

def resetSlots (j : Nat) (s : State) : State :=
  match Tbl.get? s.jobs j with
  | none => s
  | some b => (Tbl.keys b.models).foldl (fun a m => resetSlot j m true (resetSlot j m false a)) s

/-- A job as RESET_COMPUTE leaves it: OPEN, with no partition, binding, plan or save set. -/
def resetJob (b : Job) : Job :=
  { b with state := .opened, saveAsked := false, part := none, bindings := [], plan := none, hseq := 0, saveSet := none,
           closing := none }

/-- What RESET_COMPUTE does to requests, slots and bank objects. -/
def resetWork (s : State) : State :=
  let s1 := (Tbl.keys s.srv.reqs).foldl (fun a r => removeReq r a) s
  let s2 := (Tbl.keys s1.jobs).foldl (fun a j => dropNodesOf j (resetSlots j a)) s1
  (s2.objs.filter fun e => e.2.bankUnit.isSome).foldl (fun a e => dropObj e.1 a) s2

/-- Every tile, router, steering unit and engine queue reset, the tiles tested, the job fault over. Jobs become OPEN. -/
def resetCompute (s : State) : State :=
  let s1 := resetWork s
  let onBoard := fun (k : MemKind) => k == .hbm || k == .ddr || k == .firmwareArea
  let s2 :=
    { s1 with
      jobs := Tbl.mapVals s1.jobs resetJob
      objs := Tbl.mapVals s1.objs fun o => { o with moving := [] }
      cold := s1.cold.filter (·.landed)
      parts := []
      pwr := { s1.pwr with loose := s1.pwr.loose ++ (Tbl.vals s1.parts).flatMap (looseFill s1) }
      counts := s1.parts.foldl (fun a e => Tbl.set a e.1 e.2.counters) s1.counts
      tiles := []
      descs := []
      fox := s1.fox.map fun e => { e with bursts := [] }
      tiers := s1.tiers.map fun e => { e with work := [] }
      tierQueue := []
      mem := s1.mem.filter fun c => decide (0x600000000 ≤ c.1)
      lnk := { s1.lnk with msgs := [], rdreqs := [], taken := [], later := [], bridgeFails := [] }
      mctl := { s1.mctl with errs := s1.mctl.errs.filter fun e => onBoard e.kind }
      srv := { s1.srv with steps := [] }
      dump := { s1.dump with fault := none, errs := [], halted := false }
      glb := { s1.glb with state := if s1.glb.state == .service then .service else .ready } }
  testTiles (openEpisode (reshape (sweepObjs s2)))

/-- RESET_COMPUTE performed: its final entry is posted in READY, followed by the event READY; in SERVICE incomplete commands
complete JOB_LOST and the part stays there. -/
def performReset (s : State) : State :=
  let s1 := if s.glb.state == .service then (lostCmds s).foldl loseCmd s else s
  let s2 := resetCompute s1
  let ks := (s2.cmds.filter fun c => c.op == 0x7F).map Cmd.key
  let s3 := ks.foldl (fun a k => finishCmd k (decide_ k .ok [] a)) s2
  if s3.glb.state == .service then s3 else postEvent 0x0F03 0x00 0 [] s3

/-- FATAL_DUMP_READY releases a RESET_COMPUTE that was accepted in FAULT. -/
def releaseReset (s : State) : State := if s.cmds.any (·.op == 0x7F) then performReset s else s

/-- A faulty tile a number names: die, column and row of 17 × 13 physical tiles; none for 0. -/
def faultOf (pick : Nat) : List (Nat × Nat × Nat) :=
  if pick = 0 || pick > 8 * 221 then [] else [((pick - 1) / 221, (pick - 1) % 221 / 13, (pick - 1) % 13)]

/-- RESET_COMPUTE (R257). `pick` names a tile that its test finds faulty, if any. -/
def resetComputeSpec : OpSpec :=
  { op := 0x7F, aq := true, sq := false, flags := 0, minUnits := fun _ => 0, queued := false, used := fun _ => []
    params := fun _ _ _ => none
    state := fun _ _ _ => none
    resources := fun _ _ _ => none
    effect := fun _ pick s =>
      let s1 := { s with ras := { s.ras with latent := s.ras.latent ++ faultOf pick } }
      match s1.dump.fault with
      | some f => if f.ready then performReset s1 else s1
      | none => performReset s1 }

def execResetCompute (q : Nat) (p : Pkt) (pick : Nat) (s : State) : Out := commit (hostCommand resetComputeSpec q p pick s)

/-! ### Hot reset, link down, FLR (R375, R391) -/

/-- Every job closed as JOB_CLOSE with FORCE: their commands are cancelled, their huddles aborted (R152). -/
def closeAllJobs (s : State) : State :=
  let s1 := (cancelAll ((lostCmds s).map Cmd.key) s).2
  let s2 := { s1 with cmds := [], parts := Tbl.mapVals s1.parts fun p => { p with queue := [], running := none, suspended := [], saving := none, handed := none } }
  (Tbl.keys s2.jobs).foldl (fun a j => closeJob j a) s2

/-- The host link's reset: rings and the event queue disabled, QDB, EVQ and MSI-X at their reset values, the snoop filter empty.
From FAULT it first does what RESET_COMPUTE does. The alarm mirror stands in the management register space and stays. -/
def linkReset (s : State) : State :=
  let s1 := if s.glb.state == .fault then resetCompute { s with cmds := s.cmds.filter (·.job != 0) } else s
  let s2 := closeAllJobs s1
  let evq := { Evq.reset with everEn := s2.evq.everEn, bootHeld := s2.evq.bootHeld, mirror := s2.evq.mirror, ibi := s2.evq.ibi }
  let g := s2.glb
  let st := match g.state with
    | .off => DevState.off | .boot => .boot | .den => .den | .service => .service
    | .drain => if g.drainReq then .drain else .ready
    | _ => .ready
  { (if s2.glb.denEntry then domainsOn s2 else s2) with
    queues := []
    qdb := Qdb.reset
    evq := evq
    msix := Msix.reset
    interims := []
    att := { s2.att with snoop := [] }
    glb := { g with state := st, sleep := none, denEntry := false } }

/-- The host link trains again: 8 lanes, or 4 where fewer than 8 train, at the rate that training reaches (R367). -/
def trainLink (s : State) : State :=
  { s with fresh := s.fresh + 1,
           att := { s.att with linkUp := true, lanes := if Config.hostLanes s.fresh then 8 else 4,
                               rate := 1 + (Config.hostRate s.fresh).val } }

/-- HOT_RESET: hot reset, link down or FLR (R375). The link is up again afterwards where CXL_REFCLK is present. -/
def execHotReset (s : State) : Out :=
  commit (
    if s.glb.state == .off then s
    else
      let s1 := linkReset s
      if s1.clk.cxlRef then trainLink s1 else { s1 with att := { s1.att with linkUp := false } })

/-- CXL_REFCLK_LOSS (R391): the PLLs hold frequency from the internal reference; the CXL link goes down. -/
def execCxlRefclkLoss (s : State) : Out :=
  commit (
    if s.glb.state == .off then s
    else
      let s1 := linkReset s
      { s1 with clk := { s1.clk with cxlRef := false }, att := { s1.att with linkUp := false } })

end Sys2Proof.Machine
end

