-- ==== Sys2Proof/Machine/Links.lean ====
section
/-! DEFINITION. The Xanver ports at work: flits received, replay, ports going down and up, lanes spared, remote reads served,
liveness of peers, the rally counter and the rack manager's writes to the links (R282-R299, R364, R365). -/
namespace Sys2Proof.Machine

/-! ### Peers that disappear (R299) -/

/-- Open huddles that one of these peers takes part in. -/
def huddlesWith (s : State) (ds : List Nat) : List (HudCtx × Huddle) :=
  (Tbl.vals s.parts).filterMap fun p =>
    match p.huddle with
    | some u => if !u.opened then none
                else ((hudCtx s p.first u.gateId).filter fun h => h.plan.peers.any fun q => ds.contains q.1).map fun h => (h, u)
    | none => none

/-- PEER_LOST for a peer that goes down after others of a huddle have failed it. -/
def lateLoss (d : Nat) (s : State) : State :=
  (Tbl.vals s.parts).foldl (fun a p =>
    match p.lost with
    | some l =>
      if l.peers.contains d then
        postPeerLost d l.gateId l.hseq 2 p.first l.job
          (onPart p.first (fun p => { p with lost := some { l with peers := l.peers.erase d } }) a)
      else a
    | none => a) s

/-- Peers declared down: open huddles lose them, and remote work with them fails. -/
def peersDown (l : List Nat) (s : State) : State :=
  let ds := l.filter fun d => (peerAt s d).up
  let late := ds.foldl (fun a d => lateLoss d a) s
  let s1 := { late with lnk := { late.lnk with
    peers := ds.foldl (fun t d => Tbl.set t d { peerAt s d with up := false }) late.lnk.peers } }
  let s2 := (huddlesWith s1 ds).foldl (fun a x => losePeersDown ds x a) (refreshMaster s1)
  ds.foldl (fun a d => failRemote d a) (loseLater s2)

/-- Enabled peers that no port reaches any more are down. -/
def sweepPeers (s : State) : State :=
  peersDown (((s.lnk.peers.filter fun p => p.2.up && enabled s p.1).map (·.1)).filter fun d => !reachable s d) s

/-! ### Receiving (R286, R290, R292) -/

/-- The fields of a received flit. -/
structure Flit where
  type : Nat
  vc : Nat
  src : Nat
  tenant : Nat
  sob : Bool
  eob : Bool
  cred : Nat
  credvc : Nat
  plen : Nat
  payload : List Byte
  lseq : Nat
  ack : Nat
  nak : Bool

def readFlit (b : List Byte) : Flit :=
  let h := fieldAt b 0 8
  let t := fieldAt b 248 4
  { type := bitsOf h 20 4, vc := bitsOf h 24 1, src := bitsOf h 6 6, tenant := bitsOf h 12 8, sob := bitAt h 25, eob := bitAt h 26,
    cred := bitsOf h 32 8, credvc := bitsOf h 40 1, plen := min 240 (bitsOf h 48 8), payload := sliceB b 8 240,
    lseq := bitsOf t 0 12, ack := bitsOf t 12 12, nak := bitAt t 24 }

/-- Credits and acknowledgement that any good flit carries. -/
def takeLink (i : Nat) (f : Flit) (s : State) : State :=
  takeAck i f.ack f.nak (onPort i (fun p => { p with credit0 := if f.credvc = 0 then p.credit0 + f.cred else p.credit0,
                                                     credit1 := if f.credvc = 0 then p.credit1 else p.credit1 + f.cred }) s)

/-! ### What a peer asks of this part's memory (R284, R285, R291) -/

/-- Does a job of this account own the page that holds a chip address? -/
def pageOwned (s : State) (account a : Nat) : Bool :=
  (objAtAddr s a).any fun x => !x.2.gone && ((Tbl.get? s.jobs x.2.job).map (·.account)) == some account

/-- Bytes of the span a request names. -/
def spanLen (r : RdReq) : Nat := r.len - idOver r.id

/-- The spans a request names, or the outcome of the check of R285 that it fails: by raw address, pages of objects alone (R284); by
handle, the object, its account, its extent and FORM. -/
def requested (s : State) (r : RdReq) : Status ⊕ List (Nat × Nat) :=
  let n := spanLen r
  if r.handle = 0 then
    let a := r.off % 2 ^ 46
    if (span (a / pageSize) ((a + n - 1) / pageSize)).all fun g => pageOwned s r.account (g * pageSize) then .inr [(a, n)]
    else .inl .badAddr
  else
    match liveObj s (r.handle % 2 ^ 25) with
    | none => .inl .objectGone
    | some o =>
      if ((Tbl.get? s.jobs o.job).map (·.account)) != some r.account then .inl .badAddr
      else if o.bankUnit.isSome || r.off + n > o.len then .inl .badAddr
      else if idForm r.id != o.compressed then .inl .badParam
      else .inr (objSpans s o r.off n)

/-- The data of an answer (DESIGN CHOICE: log 21): the span's bytes and zeros up to the length asked for, after the object's code table
where the request has FORM 1. -/
def readAnswer (s : State) (r : RdReq) (b : List Byte) : List Byte :=
  let tab := ((liveObj s (r.handle % 2 ^ 25)).map (·.codetab)).getD 0
  (if idForm r.id then leBytes 8 tab else []) ++ sliceB b 0 r.len

/-- May a request be answered: not by raw address but over the board port (R283)? -/
def answerable (s : State) (r : RdReq) : Bool := r.handle != 0 || (r.port = 8 && r.src == boardPeer s && linked s 8)

/-- A write whose data has arrived is done, and acknowledged (R284). -/
def serveWrite (port : Nat) (m : Msg) (s : State) : State :=
  let h := Mem.read m.bytes 0 32
  let r : RdReq := { src := m.src, port, id := m.id, handle := fieldAt h 4 4, off := fieldAt h 8 8, len := fieldAt h 16 2,
                     account := fieldAt h 18 2 }
  let ack := fun (st : Status) (s : State) => match portsTo s r.src with
    | i :: _ => sendFlit i 5 1 r.src (wrackPayload r.id st) true true s
    | [] => s
  let s1 := dropMsg m s
  if !answerable s r then s1
  else match requested s r with
    | .inl st => ack st s1
    | .inr l => ack .ok (writeSpansTo l (Mem.read m.bytes 32 r.len) s1)

/-- Writes of a peer whose data is complete. The engines of a part in FAULT do none. -/
def serveWrites (port src : Nat) (s : State) : State :=
  if !running s then s
  else (s.lnk.msgs.filter fun m => m.src == src && m.kind == 2 && msgComplete m).foldl (fun a m => serveWrite port m a) s

/-! ### RALLY flits (R296) -/

/-- Payload of a RALLY flit (the source gives no layout; DESIGN CHOICE: log 21): 1 for a reply; the requester's count at sending; the
master's at receipt and at its own sending; RESID. -/
def rallyPayload (reply t1 t2 t3 resid : Nat) : List Byte :=
  leBytes 8 reply ++ leBytes 8 t1 ++ leBytes 8 t2 ++ leBytes 8 t3 ++ leBytes 8 resid

/-- A RALLY request is answered with this part's counts and the request's residence time. -/
def replyRally (i src : Nat) (b : List Byte) (s : State) : State :=
  if byteAt b 0 != 0 then s
  else sendFlit i 6 1 src (rallyPayload 1 (fieldAt b 8 8) s.clk.rally.toNat s.clk.rally.toNat (fieldAt b 32 8)) true true s

/-! ### Flits (R286, R290, R292) -/

/-- An accepted numbered flit by its TYPE (R290). A RALLY reply's content arrives with RALLY_EXCHANGE. -/
def deliver (i : Nat) (f : Flit) (s : State) : State :=
  if f.type ≥ 10 then protoDrop i s
  else if f.type = 8 then
    sweepPeers (onPort i (fun p => { p with reach := p.reach.filter (· != f.src) }) s)
  else if !enabled s f.src || f.tenant != s.lnk.tenant.toNat then
    onPort i (fun p => { p with tenantDrop := p.tenantDrop + 1 }) s
  else
    let s1 := heard i f.src s
    match f.type with
    | 1 => takeFlit i 1 f.vc f.src f.plen f.sob f.eob f.payload s1
    | 2 => takeRdreq i f.src f.payload s1
    | 3 => takeFlit i 3 f.vc f.src f.plen f.sob f.eob f.payload s1
    | 4 => serveWrites i f.src (takeFlit i 4 f.vc f.src f.plen f.sob f.eob f.payload s1)
    | 5 => ackWrite f.src f.payload s1
    | 6 => replyRally i f.src f.payload s1
    | _ => s1

/-- What a port owes after a flit goes back on an IDLE flit, where no other flit has taken it. -/
def answerFlit (port : Nat) (before s : State) : State :=
  if portUp? s port && (portAt s port).wire.length = (portAt before port).wire.length then sendIdle port s else s

/-- FLIT_RECEIVE (R290, R292): a flit that fails its CRC is discarded with a NAK due, one out of order is discarded. IDLE and
LINKCTL flits are not numbered. -/
def execFlitReceive (port : Nat) (flit : List Byte) (s : State) : Out :=
  commit (
    let b := sliceB flit 0 256
    if port > 8 || !portUp? s port then s
    else if crc32 (b.take 252) != fieldAt b 252 4 then
      sendIdle port (onPort port (fun p => { p with crcErr := p.crcErr + 1, nak := true }) s)
    else
      let f := readFlit b
      if f.type = 0 || f.type = 9 then takeLink port f s
      else if f.lseq != (portAt s port).rxSeq.toNat then s
      else
        let s1 := onPort port (fun p => { p with rxSeq := p.rxSeq + 1, ack := BitVec.ofNat 12 f.lseq,
                                                 owe0 := if f.vc = 0 then p.owe0 + 1 else p.owe0,
                                                 owe1 := if f.vc = 0 then p.owe1 else p.owe1 + 1 }) s
        answerFlit port s (deliver port f (takeLink port f s1)))

/-- REPLAY_TIMEOUT (R292): 2 µs without an acknowledgement. -/
def execReplayTimeout (port : Nat) (s : State) : Out :=
  commit (if port ≤ 8 && portUp? s port && (portAt s port).buf != [] && passed s (portAt s port).waiting (usUnits 2)
          then replay port s else s)

/-! ### Ports going down and up (R293, R294) -/

/-- A flit as it goes again on another port: TYPE, VC, DST, SOB, EOB, payload. -/
structure Resend where
  type : Nat
  vc : Nat
  dst : Nat
  sob : Bool
  eob : Bool
  payload : List Byte

def resendOf (b : List Byte) : Resend :=
  let h := fieldAt b 0 8
  { type := bitsOf h 20 4, vc := bitsOf h 24 1, dst := bitsOf h 0 6, sob := bitAt h 25, eob := bitAt h 26,
    payload := sliceB b 8 (min 240 (bitsOf h 48 8)) }

/-- Flits already acknowledged of the burst that a flit continues: those before it on the wire, from the burst's first. -/
def burstBefore (wire : List (List Byte)) (b : List Byte) : List (List Byte) :=
  let r := resendOf b
  let mine := (wire.filter fun x => (resendOf x).type == r.type && (resendOf x).vc == r.vc && (resendOf x).dst == r.dst).takeWhile
    (· != b)
  let back := mine.reverse
  match back.findIdx? fun x => (resendOf x).sob with
  | some i => ((back.take (i + 1)).reverse).eraseDups
  | none => []

/-- What a port leaves unsent: the bursts in its replay buffer, whole, and the flits that wait. -/
def leftovers (p : LinkPort) : List Resend :=
  let sent := p.buf.map (·.bytes)
  let heads := (List.range 2).flatMap fun vc =>
    match sent.find? fun b => (resendOf b).vc == vc with
    | some b => if (resendOf b).sob then [] else burstBefore p.wire b
    | none => []
  (heads ++ sent).map resendOf ++ p.queue.map fun q =>
    { type := byteAt q.2 0, vc := q.1, dst := byteAt q.2 1, sob := bitAt (byteAt q.2 2) 0, eob := bitAt (byteAt q.2 2) 1,
      payload := q.2.drop 3 }

/-- Does a flit belong to an access by raw board address: a request, a write, an acknowledgement, or the first flit of a burst of data?
Its payload begins with the id (R291). -/
def rawFlit (r : Resend) : Bool := 2 ≤ r.type && r.type ≤ 5 && idRaw (fieldAt r.payload 0 4)

/-- What may go to other ports of what a port leaves: nothing by raw address crosses the rack (R283). Later flits of a burst follow its
first, by TYPE. -/
def notRaw (l : List Resend) : List Resend :=
  (l.foldl (fun (a : Tbl Bool × List Resend) r =>
    let raw := if r.sob then rawFlit r else Tbl.getD a.1 r.type false
    (Tbl.set a.1 r.type raw, if raw then a.2 else a.2 ++ [r])) ([], [])).2

/-- They are sent again on the lowest remaining port that reaches their destination. RALLY and KEEPALIVE are not. -/
def sendAgain (l : List Resend) (s : State) : State :=
  ((notRaw l).filter fun r => 1 ≤ r.type && r.type ≤ 5).foldl (fun a r =>
    match portsTo a r.dst with
    | i :: _ => sendFlit i r.type r.vc r.dst r.payload r.sob r.eob a
    | [] => a) s

/-- Rack ports up, and the board port (R294). -/
def rackUp (s : State) : Nat := ((List.range 8).filter fun i => portUp? s i).length

/-- May this cause take the port down: 0 loss of signal, 1 training failed, 2 retraining failed, 3 good lanes below the
minimum? -/
def downCause (p : LinkPort) (port cause good : Nat) : Bool :=
  match cause with
  | 0 => p.state != .down
  | 1 => p.state == .training
  | 2 => p.state == .retraining
  | 3 => p.state != .down && good < minLanes port
  | _ => false

/-- A port goes down (R293): its unacknowledged bursts leave on other ports, and peers that only it reached are down. -/
def takeDown (port cause good : Nat) (s : State) : State :=
  let l := leftovers (portAt s port)
  let s1 := onPort port (portOff .down good s.clk.rackTime) s
  let s2 := postEvent 0x0501 (0x30 + port) 0 ([BitVec.ofNat 8 port, BitVec.ofNat 8 cause, BitVec.ofNat 8 good,
    BitVec.ofNat 8 (rackUp s1), BitVec.ofNat 8 (ofBool (portUp? s1 8))] ++ List.replicate 11 0) s1
  let s3 := sendAgain l (checkSpares false 4 port 3 0 s2)
  sweepPeers (if port = 8 then failRaw s3 else s3)

/-- LINK_DOWN (R293, R294). -/
def execLinkDown (port cause good : Nat) (s : State) : Out :=
  commit (if port ≤ 8 && powered s && downCause (portAt s port) port cause good then takeDown port cause good s else s)

/-- Lanes a port runs with, of those that are good (R294). -/
def lanesFor (port good : Nat) : Nat := if port = 8 then (if good ≥ 16 then 16 else 8) else 4

/-- A good lane fails and no spare is left: the board port goes on with 8 lanes, and a port below its minimum goes down (R294). -/
def loseLane (port : Nat) (s : State) : State :=
  let g := (portAt s port).good - 1
  if g < minLanes port then takeDown port 3 g s
  else onPort port (fun p => { p with good := g, lanes := lanesFor port g, spares := g - lanesFor port g }) s

/-- LANE_SPARED (R294): a lane fails, and a spare takes its place while there is one. -/
def execLaneSpared (port lane spare cause : Nat) (s : State) : Out :=
  commit (
    let p := portAt s port
    if port > 8 || p.state != .up || cause > 1 then s
    else if p.spares = 0 then loseLane port s
    else
      let s1 := onPort port (fun p => { p with spares := p.spares - 1, good := p.good - 1 }) s
      engageSpare 4 port 3 0 (postEvent 0x0503 (0x30 + port) 0 ([BitVec.ofNat 8 port, BitVec.ofNat 8 lane, BitVec.ofNat 8 spare,
        BitVec.ofNat 8 (p.spares - 1), BitVec.ofNat 8 cause] ++ List.replicate 11 0) s1))

/-- PORT_TRAIN_RETRY (R294): every 1 s. -/
def execPortTrainRetry (port : Nat) (s : State) : Out :=
  commit (
    let p := portAt s port
    if port ≤ 8 && powered s && p.state == .down && passed s p.tried (msUnits 1000) && (port = 8 || idKnown s) then
      onPort port (fun p => { p with state := .training, tried := s.clk.rackTime }) s
    else s)

/-- PORT_UP (R294, R329, R331): training or retraining ends with enough good lanes, and maybe without a spare one. After retraining no
flit is lost: what is unacknowledged goes out again. -/
def execPortUp (port good : Nat) (s : State) : Out :=
  commit (
    let p := portAt s port
    let all := if port = 8 then 18 else 5
    let g := min good all
    let lanes := lanesFor port g
    if port > 8 || !(p.state == .training || p.state == .retraining) || g < minLanes port then s
    else
      let up := fun (p : LinkPort) => { p with state := LinkState.up, good := g, lanes, spares := g - lanes }
      if p.state == .training then checkSpares false 4 port 3 0 (onPort port (fun p => up (portOff .up g s.clk.rackTime p)) s)
      else
        let s1 := onPort port (fun p => { up p with wire := p.wire ++ p.buf.map (·.bytes), waiting := s.clk.rackTime,
                                                    replays := p.replays + BitVec.ofNat 64 p.buf.length }) s
        checkSpares false 4 port 3 0 (pump port (portAt s1 port).queue.length s1))

/-! ### Remote reads (R285, R291) -/

/-- The bytes of spans, each through its code; none where a word is uncorrectable, which fails the peer's access (R322, R328). -/
def spanBytes (l : List (Nat × Nat)) (s : State) : Option (List Byte) × State :=
  l.foldl (fun (a : Option (List Byte) × State) x =>
    let r := eccReadAt x.1 x.2 a.2
    (match a.1, r.ue with | some b, [] => some (b ++ r.bytes) | _, _ => none, postUe r.ue false 5 none 0 r.st)) (some [], s)

/-- RDREQ_SERVE (R285, R291): the oldest request is served with read data; one that fails a check of R285, or meets uncorrectable
data, with the two bytes of its status (DESIGN CHOICE: log 21). -/
def execRdreqServe (s : State) : Out :=
  commit (
    match s.lnk.rdreqs with
    | [] => s
    | r :: rest =>
      if !running s then s
      else
        let s1 := { s with lnk := { s.lnk with rdreqs := rest } }
        if !enabled s r.src || !answerable s r then s1
        else
          let fail := fun (st : Status) (s : State) => sendMessages [(r.src, 1, r.id, leBytes 2 (statusCode st))] s
          match requested s r with
          | .inl st => fail st s1
          | .inr l => match spanBytes l s1 with
            | (some b, s2) => sendMessages [(r.src, 1, r.id, readAnswer s r b)] s2
            | (none, s2) => fail .uncorrectable s2)

/-! ### Liveness (R299) -/

/-- Ports a KEEPALIVE takes: every port up that leads toward the peer (R283). -/
def keepalivePorts (s : State) (d : Nat) : List Nat :=
  if d = boardPeer s && portUp? s 8 then [8] else (List.range 8).filter fun i => portUp? s i

/-- KEEPALIVE (R299): 10 µs after the last flit sent to an enabled peer. -/
def execKeepalive (peer : Nat) (s : State) : Out :=
  commit (if enabled s peer && passed s (peerAt s peer).lastTx (usUnits 10) then
      (keepalivePorts s peer).foldl (fun a i => sendFlit i 7 1 peer [] true true a) s
    else s)

/-- PEER_DOWN_TIMEOUT (R299): no flit from an enabled peer for 50 µs, or no port reaches it. -/
def execPeerDownTimeout (peer : Nat) (s : State) : Out :=
  commit (if enabled s peer && (peerAt s peer).up && (passed s (peerAt s peer).lastRx (usUnits 50) || !reachable s peer) then
      peersDown [peer] s else s)

/-! ### The rally counter (R296) -/

/-- The port that carries the exchange: the board port to a master that is the board peer, else the lowest that reaches it. -/
def rallyPort (s : State) : Option Nat :=
  if s.clk.rallyMaster = 0xFF then none else (portsTo s s.clk.rallyMaster.toNat).head?

/-- Synchronisation is lost: RALLY_UNSYNC. -/
def loseRally (cause : Nat) (s : State) : State :=
  let port := match rallyPort s with | some i => i | none => 0xFF
  postEvent 0x0504 (if port ≤ 8 then 0x30 + port else 0x00) 0
    ([BitVec.ofNat 8 cause, BitVec.ofNat 8 port] ++ leBytes 8 (ofSigned 64 s.clk.rallyOffset)
      ++ [s.clk.rallyMaster] ++ List.replicate 5 0)
    { s with clk := { s.clk with rallySync := false, rallyLocked := false, rallyGood := 0 } }

/-- The master's count less the own, from the four counts of an exchange and the residence times. -/
def rallyOffsetOf (t1 t2 t3 t4 : W64) (res1 res2 : Nat) : Int :=
  (toSigned 64 (t2 - t1).toNat - res1 + (toSigned 64 (t3 - t4).toNat + res2)) / 2

/-- The limit of ±20 ns, in ticks. -/
def rallyLimit : Int := 16

/-- RALLY_EXCHANGE (R296): every 10 µs a request leaves, and the counts of the exchange set the counter right. The reply itself stands in
the operands. -/
def execRallyExchange (port : Nat) (t1 t2 t3 t4 : W64) (res1 res2 : Nat) (s : State) : Out :=
  commit (
    if rallyPort s != some port || s.clk.rallyMaster.toNat = s.glb.partId.toNat || !passed s s.clk.rallyReplyAt (usUnits 10) then s
    else
      let off := rallyOffsetOf t1 t2 t3 t4 res1 res2
      let near := decide (-rallyLimit ≤ off ∧ off ≤ rallyLimit)
      let sent := sendFlit port 6 1 s.clk.rallyMaster.toNat (rallyPayload 0 t1.toNat 0 0 0) true true s
      let s1 := { sent with clk := { s.clk with rallyOffset := off, rallyReplyAt := s.clk.rackTime } }
      if !s.clk.rallyLocked then
        { s1 with clk := { s1.clk with rally := s.clk.rally + BitVec.ofInt 64 off, rallyLocked := true, rallyGood := 0 } }
      else if s.clk.rallySync then
        if near then
          let step : Int := if off > 0 then 1 else if off < 0 then -1 else 0
          { s1 with clk := { s1.clk with rally := s.clk.rally + BitVec.ofInt 64 step } }
        else loseRally 1 s1
      else
        let n := if near then s.clk.rallyGood + 1 else 0
        { s1 with clk := { s1.clk with rallyGood := n, rallySync := n ≥ 8 && s.clk.rackclk } })

/-- RALLY_UNSYNC (R296): no reply for 50 µs, to a part that is not itself the master. An offset too large is found by its exchange. -/
def execRallyUnsync (_port : Nat) (s : State) : Out :=
  commit (if s.clk.rallySync && s.clk.rallyMaster.toNat != s.glb.partId.toNat && passed s s.clk.rallyReplyAt (usUnits 50) then loseRally 0 s else s)

/-- RACKCLK_LOSS (R295). -/
def execRackclkLoss (s : State) : Out :=
  commit (
    if !s.clk.rackclk then s
    else
      let s1 := { s with clk := { s.clk with rackclk := false, rackclkLost := true } }
      if s.clk.rallySync then loseRally 2 s1 else { s1 with clk := { s1.clk with rallyGood := 0, rallyLocked := false } })

/-- RACKCLK_START (R394): rack time and the rally counter count from it again. -/
def execRackclkStart (s : State) : Out :=
  commit ({ s with clk := { s.clk with rackclk := true, rackclkLost := false } })

/-! ### The rack manager (R215, R282, R286, R295, R364, R365) -/

/-- MG_PARTID (R282, R365): under chip id source 1, once per boot; the rack ports then train. -/
def execMgPartid (v : Byte) (s : State) : Out :=
  commit (
    if !powered s || !s.pins.chipSrc || s.glb.partSet then s
    else
      let s1 := { s with glb := { s.glb with partId := v.setWidth 6, partSet := true } }
      refreshMaster ((List.range 8).foldl (fun a i => onPort i (fun p =>
        if p.state == .down then { p with state := .training, tried := s.clk.rackTime } else p) a) s1))

/-- MG_RACKTIME (R295, R364): once per boot, by a transfer that writes all eight bytes. -/
def execMgRacktime (v : W64) (be : BitVec 8) (s : State) : Out :=
  commit (if powered s && be = 0xFF && !s.clk.rtLoaded then { s with clk := { s.clk with rackTime := v, rtLoaded := true } } else s)

/-- MG_PEERMASK (R286): remote work with a newly disabled part fails. -/
def execMgPeermask (v : W64) (be : BitVec 8) (s : State) : Out :=
  commit (
    if !powered s then s
    else
      let s1 := { s with lnk := { s.lnk with mask := mergeBytes s.lnk.mask v be } }
      refreshMaster (((List.range 64).filter fun d => enabled s d && !enabled s1 d).foldl (fun a d => failRemote d a) s1))

/-- MG_TENANT (R286). -/
def execMgTenant (v : Byte) (s : State) : Out := commit (if powered s then { s with lnk := { s.lnk with tenant := v } } else s)

/-- MG_DRAIN (R215). -/
def execMgDrain (v : Byte) (s : State) : Out :=
  commit (if powered s then settle { s with glb := { s.glb with drainReq := v.getLsbD 0 } } else s)

end Sys2Proof.Machine
end

