-- ==== Sys2Proof/Machine/Den.lean ====
section
/-! DEFINITION. SLEEP, the entry into Den and the way back (R215, R319, R320). -/
namespace Sys2Proof.Machine

/-- SLEEP (R319): nothing more starts; Den entry begins when nothing executes (R215). -/
def sleepSpec : OpSpec :=
  { op := 0x78, aq := true, sq := false, flags := 0, minUnits := fun _ => 0, queued := false, used := fun _ => []
    params := fun _ _ _ => none
    state := fun _ _ _ => none
    resources := fun _ _ _ => none
    effect := fun c _ s => { s with glb := { s.glb with sleep := some c.seq, sleepPower := inputPower s } } }

def execSleep (q : Nat) (p : Pkt) (pick : Nat) (s : State) : Out := commit (hostCommand sleepSpec q p pick s)

/-- Every port down, with the peers it reached. -/
def portsOff (s : State) : State :=
  sweepPeers ((List.range 9).foldl (fun a i => onPort i (portOff .down 0 s.clk.rackTime) a) s)

/-- Ports that may train start to (R282, R294), and the rally master is found (R296). -/
def portsTrain (s : State) : State :=
  refreshMaster ((List.range 9).foldl (fun a i =>
    if i = 8 || idKnown s then onPort i (fun p => { p with state := .training, tried := s.clk.rackTime }) a else a) s)

/-- Words of the tile memories that were in error are gone with them. -/
def dropTiles (s : State) : State :=
  { s with tiles := [],
           mctl := { s.mctl with errs := s.mctl.errs.filter fun e =>
             !(e.kind == .regFile || e.kind == .accum || e.kind == .configStore) } }

/-- DEN_ENTERED (R319): the tile domains are off, the SLEEP completion and then DEN_ENTERED are posted. A doorbell written during
entry wakes the part from now on. -/
def execDenEntered (s : State) : Out :=
  commit (
    if !s.glb.denEntry || !passed s s.glb.sleepAt (denUnits s) then s
    else
      let s1 := portsOff (stopFill s)
      let s2 := { s1 with glb := { s1.glb with state := .den, denEntry := false, sleep := none, wakeAt := s.clk.rackTime },
                          pwr := { s1.pwr with domainsOff := tileDomains ++ s1.pwr.domainsOff } }
      let s3 := match s.glb.sleep with
        | some seq => finishCmd (64, seq) (decide_ (64, seq) .ok [] s2)
        | none => s2
      postEvent 0x0F04 0x00 0 [] (dropTiles s3))

/-- WOKE (R320): max(400 µs, 250 W / RAMP) after the doorbell the part is READY, and its ports retrain. -/
def execWoke (s : State) : Out :=
  commit (
    if s.glb.state == .den && s.glb.wake && passed s s.glb.wakeAt (max (usUnits 400) (rampUnits s 250)) then
      postEvent 0x0F05 0x00 0 []
        (portsTrain (domainsOn { s with glb := { s.glb with state := .ready, wake := false } }))
    else s)

end Sys2Proof.Machine
end

