-- ==== Sys2Proof/Machine/Firmware.lean ====
section
/-! DEFINITION. Boot record and firmware images in flash, FW_UPDATE and its ACTIVATE, ATTEST and DUMP_READ (R340, R376, R377,
R380-R384). -/
namespace Sys2Proof.Machine

/-! ### Flash (R376) -/

/-- First byte of the region of image A (false) or B (true), and its size. -/
def fwRegion (b : Bool) : Nat := if b then 0x1900000 else 0x100000
def fwRegionSize : Nat := 0x1800000

def chainBase : Nat := 0x3500000

/-- A boot record copy (R376). -/
def recordCopy (flash : Mem) (copy : Nat) : List Byte := Mem.read flash (4096 * copy) 64

def recordValid (r : List Byte) : Bool := fieldAt r 0 4 == 0x43425A4E && crc32 (r.take 60) == fieldAt r 60 4

/-- The copy that counts; none when neither is valid. -/
def recordInForce (flash : Mem) : Option Nat :=
  let a := recordCopy flash 0
  let b := recordCopy flash 1
  match recordValid a, recordValid b with
  | true, true => some (if fieldAt b 4 4 > fieldAt a 4 4 then 1 else 0)
  | true, false => some 0
  | false, true => some 1
  | false, false => none

/-- The image PREFERRED names (false A, true B). -/
def preferredImage (flash : Mem) : Bool :=
  match recordInForce flash with
  | some i => byteAt (recordCopy flash i) 8 == 1
  | none => false

/-- The boot record changed: the older copy is written with SEQ + 1. -/
def writeRecord (pref : Bool) (flash : Mem) : Mem :=
  let (copy, seq) := match recordInForce flash with
    | some i => (1 - i, fieldAt (recordCopy flash i) 4 4 + 1)
    | none => (0, 1)
  let r := leBytes 4 0x43425A4E ++ leBytes 4 seq ++ [BitVec.ofNat 8 (ofBool pref)] ++ List.replicate 51 0
  Mem.write (Mem.clear flash (4096 * copy) 4096) (4096 * copy) (r ++ leBytes 4 (crc32 r))

/-! ### Firmware images (R377) -/

def fwVersion (b : List Byte) : Nat := fieldAt b 4 4
def fwSvn (b : List Byte) : Nat := byteAt b 8
def fwBodyLen (b : List Byte) : Nat := fieldAt b 16 4
def fwDigest (b : List Byte) : List Byte := sliceB b 20 32

/-- Is the 4 KiB header well formed? -/
def fwHeaderOk (b : List Byte) : Bool :=
  fieldAt b 0 4 == 0x57465A4E && fwSvn b ≤ 127 && byteAt b 9 ≤ 1 && allZero (sliceB b 10 6) && allZero (sliceB b 3784 312)
    && 1 ≤ fwBodyLen b && fwBodyLen b ≤ fwRegionSize - 4096

/-- Do key, digest, signature and SVN pass? -/
def fwAuthOk (t : Boot) (b : List Byte) : Bool :=
  let key := sliceB b 52 1312
  let slot := byteAt b 9
  sha3 key == t.keys.getD slot [] && !(t.revoked.getD slot true)
    && sha3 (b.take 20 ++ sliceB b 4096 (fwBodyLen b)) == fwDigest b
    && mldsaVerify key (fwDigest b) (sliceB b 1364 2420) && decide (t.counter ≤ fwSvn b)

/-- The first check of R377 that an image fails. -/
def fwFails (t : Boot) (b : List Byte) : Option RomFail :=
  let key := sliceB b 52 1312
  let slot := byteAt b 9
  if !fwHeaderOk b then some .header
  else if sha3 key != t.keys.getD slot [] || t.revoked.getD slot true then some .key
  else if sha3 (b.take 20 ++ sliceB b 4096 (fwBodyLen b)) != fwDigest b then some .digest
  else if !mldsaVerify key (fwDigest b) (sliceB b 1364 2420) then some .signature
  else if fwSvn b < t.counter then some .svn
  else none

/-- An image as it stands in a region of the flash: its header, and its body where the header gives a length. -/
def fwImage (flash : Mem) (b : Bool) : List Byte :=
  let h := Mem.read flash (fwRegion b) 4096
  if fwHeaderOk h then h ++ Mem.read flash (fwRegion b + 4096) (fwBodyLen h) else h

/-- Does the boot ROM accept the image of a region? -/
def fwPasses (t : Boot) (b : Bool) : Bool := let i := fwImage t.flash b; fwHeaderOk i && fwAuthOk t i

/-- The image an FW_UPDATE names in host memory. -/
def fwSource (s : State) (p : Pkt) : List Byte := readHost s (fieldAt p 40 8) (fieldAt p 48 4)

/-- An FW_UPDATE is in progress. -/
def fwBusy (s : State) : Bool := s.cmds.any (·.op == 0x70)

/-- The flash region that is not running, erased and programmed; an image that reads back wrong leaves no valid one. -/
def programFlash (t : Boot) (img : List Byte) (good : Bool) : Boot :=
  let a := fwRegion !t.image
  let f := Mem.write (Mem.clear t.flash a fwRegionSize) a img
  { t with flash := if good then f else Mem.clear f a 4096 }

/-- FW_UPDATE (R380, R381). For ACTION 0 `pick` other than 0 is a readback that does not match. -/
def fwUpdateSpec : OpSpec :=
  { op := 0x70, aq := true, sq := false, flags := 0, minUnits := fun _ => 0, queued := false, used := fun _ => [(32, 1), (40, 12)]
    params := fun s _ p =>
      let n := fieldAt p 48 4
      if byteAt p 32 = 1 then none
      else firstRef [refuseIf (byteAt p 32 > 1) .badParam 32,
                     refuseIf (n < 4097 || n > fwRegionSize) .badParam 48,
                     refuseIf (!hostOk s (fieldAt p 40 8) n) .badAddr,
                     refuseIf (!fwHeaderOk (fwSource s p)) .badParam noLoc,
                     refuseIf (n != 4096 + fwBodyLen (fwSource s p)) .badParam 48]
    state := fun s q p => if byteAt p 32 = 1 && !(s.glb.state == .ready && s.jobs == []) then conflict s q p else none
    resources := fun s _ p =>
      firstRef [refuseIf (fwBusy s) .refusedBusy,
                refuseIf (!(if byteAt p 32 = 1 then fwPasses s.boot !s.boot.image else fwAuthOk s.boot (fwSource s p))) .authFail]
    effect := fun c pick s =>
      if byteAt c.pkt 32 = 1 then
        decide_ c.key .ok [] { s with boot := { s.boot with flash := writeRecord (!s.boot.image) s.boot.flash, activating := true,
                                                            prevVersion := s.glb.fwVer } }
      else
        decide_ c.key (if pick = 0 then .ok else .authFail) []
          { s with boot := programFlash s.boot (fwSource s c.pkt) (pick == 0) } }

/-- FW_UPDATE with ACTION 0, or with an ACTION that is refused (R380). -/
def execFwUpdate (q : Nat) (p : Pkt) (pick : Nat) (s : State) : Out :=
  commit (if byteAt p 32 = 1 then s else hostCommand fwUpdateSpec q p pick s)

/-- FW_UPDATE with ACTION 1, ACTIVATE (R381). -/
def execFwActivate (q : Nat) (p : Pkt) (pick : Nat) (s : State) : Out :=
  commit (if byteAt p 32 = 1 then hostCommand fwUpdateSpec q p pick s else s)

/-! ### ATTEST (R383, R384) -/

/-- The report of a nonce. -/
def attestReport (s : State) (nonce : List Byte) : List Byte :=
  let n := s.images.length
  let keys := (List.range 4).flatMap fun i => sliceB (Tbl.getD s.features.keys i []) 0 1312
  let other := !s.boot.image
  leBytes 4 0x54535441 ++ leBytes 2 1 ++ leBytes 2 n ++ leBytes 4 (192 + 48 * n) ++ leBytes 4 0 ++ sliceB nonce 0 32
    ++ leBytes 8 s.clk.rackTime.toNat ++ asciiPad "NZ-IX4-640-L" 16 ++ asciiPad "B1" 2
    ++ [BitVec.ofNat 8 s.glb.partId.toNat, BitVec.ofNat 8 (devCode s.glb.state)] ++ leBytes 4 s.glb.fwVer.toNat
    ++ [BitVec.ofNat 8 (ofBool s.boot.image), BitVec.ofNat 8 s.boot.svn, BitVec.ofNat 8 s.boot.counter,
        BitVec.ofNat 8 (ofBool s.boot.jtagLock + 2 * ofBool s.features.sigRequired + 4 * ofBool (s.glb.state == .service)
          + 8 * ofBool s.boot.prefFailed)]
    ++ sliceB s.boot.measurement 0 32
    ++ (if fwPasses s.boot other then fwDigest (fwImage s.boot.flash other) else List.replicate 32 0)
    ++ sha3 keys ++ List.replicate 12 0 ++ s.images.flatMap fun e => imageRecord e.1 e.2

/-- Report, its signature with the identity key of this boot, and padding to 64 bytes. -/
def signedReport (s : State) (nonce : List Byte) : List Byte :=
  let r := attestReport s nonce
  let b := r ++ sliceB (mldsaSign s.boot.seed s.boot.identity (freeBytes s.fresh 32) r) 0 2420
  b ++ List.replicate (ceilDiv b.length 64 * 64 - b.length) 0

/-- The certificate chain as stored, with its length prefix (R383). -/
def certChain (flash : Mem) : List Byte := Mem.read flash chainBase (min 0x10000 (4 + Mem.field flash chainBase 4))

/-- ATTEST (R384). -/
def attestSpec : OpSpec :=
  adminSpec 0x71 [(32, 32)] (fun _ _ _ => none) fun c _ s =>
    let r := signedReport s (sliceB c.pkt 32 32)
    let chain := certChain s.boot.flash
    answer c.key (r ++ chain) (leBytes 4 r.length ++ leBytes 4 chain.length) { s with fresh := s.fresh + 1 }

def execAttest (q : Nat) (p : Pkt) (pick : Nat) (s : State) : Out := commit (hostCommand attestSpec q p pick s)

/-! ### DUMP_READ (R340) -/

/-- DUMP_READ: any range of the 2 GiB dump area (R157). -/
def dumpReadSpec : OpSpec :=
  adminSpec 0x72 [(32, 8), (40, 12)]
    (fun _ _ p => firstRef [refuseIf (fieldAt p 48 4 = 0 || fieldAt p 48 4 > 16777216) .badParam 48,
                            refuseIf (fieldAt p 32 8 + fieldAt p 48 4 > 2147483648) .badParam 32])
    fun c _ s =>
      let n := fieldAt c.pkt 48 4
      writeOut c.key (fieldAt c.pkt 40 8) (Mem.read s.dump.bytes (fieldAt c.pkt 32 8) n) [] s

def execDumpRead (q : Nat) (p : Pkt) (pick : Nat) (s : State) : Out := commit (hostCommand dumpReadSpec q p pick s)

end Sys2Proof.Machine
end

