-- ==== Sys2Proof/Machine/Boot.lean ====
section
/-! DEFINITION. Power-up, resets, boot and the firmware restart (R301, R316, R329, R375-R382, R390-R397). -/
namespace Sys2Proof.Machine

/-! ### What a full boot starts from (R375) -/

/-- Part id by the strap (R282). -/
def strapId (p : Pins) : BitVec 6 :=
  if p.chipSrc then 0x3F else BitVec.ofNat 6 (2 * p.trayId.toNat + ofBool p.boardPos)

/-- The straps as a full boot samples them (R390). -/
def sampleStraps (x : Straps) (p : Pins) : Pins := { p with trayId := x.tray, boardPos := x.boardPos, chipSrc := x.chipSrc }

/-- The static address of the management target on its I3C bus (R387). -/
def mgStaticAddr (p : Pins) : Nat := 0x4A + ofBool p.boardPos

/-- The remap entries of the flash copy, and the retired rows and DIMMs that a boot finds again. -/
def bootMctl (flash : Mem) (m : Mctl) : Mctl := { Mctl.reset with remap := loadRemap flash, rows := m.rows, dimmGib := m.dimmGib }

/-- Unit health outlasts a boot; counts and what was reported as exhausted do not (R331). -/
def bootRas (r : Ras) : Ras := { r with exhausted := [], ce := [0, 0, 0, 0], ceNow := [0, 0, 0, 0], ceSince := 0 }

/-- Fuses and flash outlast a boot. -/
def bootBoot (b : Boot) : Boot :=
  { b with image := false, accepted := false, failed := false, measurement := List.replicate 32 0, svn := 0, prefFailed := false,
           activating := false, restart := false, prevVersion := 0, romReport := [], identity := [] }

/-- An FW_UPDATE that is cut off leaves the inactive image invalid (R380, R396). -/
def cutUpdate (s : State) : Boot :=
  if s.cmds.any (fun c => c.op == 0x70 && byteAt c.pkt 32 == 0) then
    { s.boot with flash := Mem.clear s.boot.flash (fwRegion !s.boot.image) 4096 }
  else s.boot

/-- Causes of the floor state that stand while the part boots (R396). -/
def refloor (s : State) : State :=
  let s1 := if s.pins.alert then enterFloor 0 (inputPower s) s else s
  if s.pins.vin < 5600 then enterFloor 1 (inputPower s) s1 else if s.pins.vin > 6800 then enterFloor 2 (inputPower s) s1 else s1

/-- A full boot: in BOOT with the registers at their reset values. Pins, fuses, flash, remap entries, unit health and host
memory stay; memory contents do not. -/
def bootReset (s : State) : State :=
  refloor
    { State.reset with
      pending := s.pending
      pins := s.pins
      clk := { Clk.reset with rackclk := s.clk.rackclk }
      glb := { Glb.reset with partId := strapId s.pins }
      boot := bootBoot (cutUpdate s)
      mctl := bootMctl s.boot.flash s.mctl
      ras := bootRas s.ras
      fox := s.fox.map fun e => { FoxEng.reset with failed := e.failed }
      tiers := s.tiers.map fun e => { TierEng.reset with failed := e.failed }
      pwr := { Pwr.reset with phases := s.pwr.phases, ceiling := s.pwr.ceiling }
      thm := { Thm.reset with sensors := s.thm.sensors }
      att := { Att.reset with reject := s.att.reject }
      dump := { Dump.reset with bytes := s.dump.bytes }
      fwPages := s.fwPages
      host := s.host
      fresh := s.fresh }

/-- The part off, with the domains given: every content lost, the dump too. -/
def switchOff (domains : List Nat) (s : State) : State :=
  let s1 := bootReset s
  { s1 with dump := Dump.reset, evq := Evq.reset, pwr := { Pwr.reset with phases := s.pwr.phases, ceiling := s.pwr.ceiling, domainsOff := domains },
            glb := { s1.glb with state := .off } }

/-! ### Power and reset pins -/

/-- POWER_UP (R394): VIN64 rises through 54 V, and the conversion layer starts. -/
def execPowerUp (vin : Nat) (s : State) : Out :=
  if vin > 7200 then .fault .absoluteMaximum
  else commit (
    if s.glb.state == .off && !s.pins.pwrGood && vin ≥ 5400 then { s with pins := { s.pins with vin := vin } } else s)

/-- PWR_GOOD (R387, R390, R394): released once the 6 V rail is up; the straps are sampled and, with the resets released, a full
boot starts. -/
def execPwrGood (tray : BitVec 5) (boardPos chipSrc : Bool) (s : State) : Out :=
  commit (
    if s.glb.state == .off && !s.pins.pwrGood && !s.pins.thermtrip && s.pins.vin ≥ 5200 then
      bootReset { s with pins := { sampleStraps ⟨tray, boardPos, chipSrc⟩ s.pins with pwrGood := true, clkreq := true } }
    else s)

/-- VIN64_UNDERVOLT_RESET (R300, R301, R316, R387): below 52 V the part stops, PWR_GOOD goes low and THERMTRIP_N is released. -/
def execVin64UndervoltReset (vin : Nat) (s : State) : Out :=
  if vin > 7200 then .fault .absoluteMaximum
  else commit (
    if vin ≥ 5200 then s
    else
      let s1 := switchOff (List.range 176) s
      { s1 with pins := { s1.pins with vin := vin, pwrGood := false, thermtrip := false, clkreq := false } })

/-- A reset pulse of this length on an input acts: 10 µs or more, or from 1 µs where this part takes it there (R395). It has no effect
while THERMTRIP_N is low (R396). -/
def resetActs (ns : Nat) (perst : Bool) (s : State) : Bool :=
  s.pins.pwrGood && !s.pins.thermtrip && (decide (ns ≥ 10000) || (decide (ns ≥ 1000) && Config.shortResetActs perst))

/-- RESET_N (R375, R395): a full boot, which samples the straps (R390, R396). -/
def execResetN (ns : Nat) (straps : Straps) (s : State) : Out :=
  commit (if resetActs ns false s then bootReset { s with pins := sampleStraps straps s.pins } else s)

/-- PERST_N: as RESET_N (R375). -/
def execPerstN (ns : Nat) (straps : Straps) (s : State) : Out :=
  commit (if resetActs ns true s then bootReset { s with pins := sampleStraps straps s.pins } else s)

/-- The compute, HBM and DDR5 domains (R304, R316). -/
def tripDomains : List Nat := List.range 128 ++ List.range' 141 12

/-- THERMTRIP_N (R316): at the trip threshold the part goes off until VIN64 is removed. -/
def execThermtripN (code : Nat) (temp : W16) (s : State) : Out :=
  commit (
    if !powered s || code ≥ 45 then s
    else
      let s1 := setReading code temp s
      if hotAt code s.thm.trip (positionTemp s1 code) then
        let s2 := switchOff tripDomains s1
        { s2 with pins := { s2.pins with thermtrip := true } }
      else s1)

/-- POWER_PHASE_FAILURE (R329, R330): a spare phase engages; below 22 phases the ceiling falls. With no phase left the conversion has
failed: PWR_GOOD goes low and the part is off (R387; DEDUCED: log 34). -/
def execPowerPhaseFailure (n : Nat) (s : State) : Out :=
  commit (
    if n < 24 && s.pwr.phases.getLsbD n then
      let s1 := { s with pwr := { s.pwr with phases := s.pwr.phases &&& ~~~(BitVec.ofNat 24 (2 ^ n)) } }
      let w := workingPhases s1
      let s2 := { s1 with pwr := { s1.pwr with ceiling := if w < 22 then 1950 * w / 22 else 1950 } }
      if w = 0 then
        let s3 := switchOff (List.range 176) s2
        { s3 with pins := { s3.pins with pwrGood := false, clkreq := false } }
      else
        let s3 := lowerCeiling s2
        if w ≥ 22 then engageSpare 6 n 3 0 s3 else checkSpares false 6 n 3 0 s3
    else s)

/-- PLL_LOCK_LOSS (R329): the hub's standby PLL takes over; a hub with no good PLL resets the part. -/
def execPllLockLoss (hub : Nat) (s : State) : Out :=
  commit (
    if !powered s || hub > 1 then s
    else
      match (List.range 2).find? fun i => s.clk.pllGood.getLsbD (2 * hub + i) with
      | none => s
      | some i =>
        let s1 := { s with clk := { s.clk with pllGood := s.clk.pllGood &&& ~~~(BitVec.ofNat 4 (2 ^ (2 * hub + i))) } }
        if bitsOf s1.clk.pllGood.toNat (2 * hub) 2 = 0 then bootReset s1 else engageSpare 7 hub 3 0 s1)

/-! ### Boot ROM and firmware (R377-R382) -/

/-- The restart an ACTIVATE brings (R381): registers and features at their boot values; the host link, HBM and DDR5, the clocks,
the management registers, the energy counters, spares and remap entries stay; the ports retrain. -/
def restartReset (s : State) : State :=
  let port := fun (x : LinkPort × Nat) =>
    { LinkPort.reset x.1.spares with
      good := x.1.good
      tried := s.clk.rackTime
      state := if x.2 = 8 || idKnown s then LinkState.training else .down }
  { State.reset with
    pending := s.pending
    pins := s.pins
    clk := { s.clk with stretchCount := 0 }
    slow := { s.slow with posted := [] }
    glb := { Glb.reset with partId := s.glb.partId, partSet := s.glb.partSet, drainReq := s.glb.drainReq }
    evq := { Evq.reset with mirror := s.evq.mirror, ibi := s.evq.ibi }
    msix := s.msix
    boot := { bootBoot s.boot with restart := true, prevVersion := s.boot.prevVersion }
    mctl := { s.mctl with ctl := 0 }
    ras := bootRas s.ras
    fox := s.fox.map fun e => { FoxEng.reset with failed := e.failed }
    tiers := s.tiers.map fun e => { TierEng.reset with failed := e.failed }
    pwr := { s.pwr with vrOffset := 0, vrDomain := 0, loose := s.pwr.loose ++ (Tbl.vals s.parts).flatMap (looseFill s) }
    thm := { Thm.reset with sensors := s.thm.sensors }
    nrg := { s.nrg with snap := false, copies := [], moved := [] }
    lnk := { Lnk.reset with mask := s.lnk.mask, tenant := s.lnk.tenant, ports := s.lnk.ports.zipIdx.map port }
    att := { s.att with uartLog := false }
    dump := { Dump.reset with bytes := s.dump.bytes }
    fwPages := s.fwPages
    mem := s.mem
    host := s.host
    fresh := s.fresh }

/-- The boot ROM checks the image PREFERRED names, then the other (R377, R378); none passing leaves the part in BOOT, with the causes on
UART_TX (R379). It derives the identity key from the fused seed (R383). -/
def checkImages (s0 : State) : State :=
  let s := { s0 with boot := { s0.boot with identity := mldsaPublic s0.boot.seed } }
  let pref := preferredImage s.boot.flash
  match [pref, !pref].find? (fwPasses s.boot) with
  | some b =>
    let i := fwImage s.boot.flash b
    { s with glb := { s.glb with fwVer := BitVec.ofNat 32 (fwVersion i) },
             boot := { s.boot with image := b, accepted := true, failed := false, measurement := fwDigest i, svn := fwSvn i,
                                   prefFailed := b != pref } }
  | none =>
    let why := [pref, !pref].filterMap fun b => (fwFails s.boot (fwImage s.boot.flash b)).map fun c => (b, c)
    { s with glb := { s.glb with fwVer := 0xFFFFFFFF }, boot := { s.boot with failed := true, romReport := why } }

/-- BOOT_IMAGE_CHECK (R377-R379, R381): in BOOT once, and at the restart that follows an ACTIVATE whose completion is posted. -/
def execBootImageCheck (s : State) : Out :=
  commit (
    if s.boot.activating then (if fwBusy s then s else checkImages (reshape (restartReset s)))
    else if s.glb.state == .boot && !s.boot.accepted && !s.boot.failed then checkImages s
    else s)

/-! ### READY (R378, R382) -/

/-- The lowest eight good Badger cores (R329). -/
def activeCores (good : BitVec 10) : BitVec 10 :=
  let l := ((List.range 10).filter fun i => good.getLsbD i).take 8
  BitVec.ofNat 10 (l.map (2 ^ ·)).sum

/-- Badger cores tested: each that newly becomes active is a spare engaged. -/
def testCores (s : State) : State :=
  let new := activeCores s.ras.bcGood
  let added := (List.range 10).filter fun i => new.getLsbD i && !s.ras.bcActive.getLsbD i
  let s1 := { s with ras := { s.ras with bcActive := new } }
  checkSpares true 1 0 0 0 (added.foldl (fun a i => engageSpare 1 i 0 0 a) s1)

/-- A failed Fox engine is replaced by its half's spare, where it has one. -/
def testFox (n : Nat) (s : State) : State :=
  if !((s.fox[n]?).map (·.failed)).getD false then s
  else if s.ras.foxSpare.getD (n / 8) 0 = 0 then checkSpares true 2 n 0 0 s
  else
    engageSpare 2 n 0 0
      { s with fox := modAt s.fox n fun e => { e with failed := false },
               ras := { s.ras with foxSpare := modAt s.ras.foxSpare (n / 8) (· - 1) } }

/-- The same for a tier engine. -/
def testTier (n : Nat) (s : State) : State :=
  if !((s.tiers[n]?).map (·.failed)).getD false then s
  else if s.ras.teSpare = 0 then checkSpares true 3 n 0 0 s
  else
    engageSpare 3 n 0 0
      { s with tiers := modAt s.tiers n fun e => { e with failed := false }, ras := { s.ras with teSpare := s.ras.teSpare - 1 } }

/-- Unit tests of a full boot: cores, engines, tiles; and SPARES_EXHAUSTED again where it still holds (R331). -/
def testUnits (s : State) : State :=
  let s1 := (List.range 4).foldl (fun a n => testTier n a) ((List.range 16).foldl (fun a n => testFox n a) (testCores s))
  let s2 := testTiles s1
  let banks := ((s2.mctl.rows.map fun r => r.1 / 0x1000000).eraseDups).map fun t => (5, t)
  let rest := (spareInstances 8).map (fun i => (8, i)) ++ (spareInstances 9).map (fun i => (9, i)) ++ [(6, 0), (7, 0), (7, 1), (10, 0)]
  domainsOn ((banks ++ rest).foldl (fun a x => checkSpares true x.1 x.2 0 0 a) s2)

/-- The fuses blown at the first READY reached from the preferred image (R382). -/
def blowFuses (b : Boot) : Boot := if !b.prefFailed && b.svn > b.counter then { b with counter := b.svn } else b

/-- READY (R378, R381): training and tests are done. A restart keeps both, and rewrites the boot record when the activated image
failed. Every doorbell takes its reset value (R215). -/
def execReady (hbm : Byte) (ddr : BitVec 12) (dimmGib : List Nat) (faults : List (Nat × Nat × Nat)) (s : State) : Out :=
  commit (
    if s.glb.state != .boot || !s.boot.accepted then s
    else
      let s1 :=
        if s.boot.restart then
          (if s.boot.prefFailed then
            { s with boot := { s.boot with flash := writeRecord s.boot.image s.boot.flash, restart := false } } else s)
        else
          let trained := { s.mctl with hbmTrained := hbm, ddrTrained := ddr, dimmGib := (dimmGib ++ List.replicate 12 0).take 12 }
          portsTrain (testUnits { s with mctl := trained, att := { s.att with memActive := hbm != 0 },
                                         ras := { s.ras with latent := s.ras.latent ++ faults } })
      postEvent 0x0F03 0x00 0 []
        { s1 with glb := { s1.glb with state := .ready }, boot := blowFuses s1.boot, qdb := { s1.qdb with doorbells := [] } })

/-- FW_ACTIVATED (R381): after READY, when the activated image runs. -/
def execFwActivated (s : State) : Out :=
  commit (
    if s.boot.restart && s.glb.state != .boot && s.glb.state != .off then
      postEvent 0x0F06 0x00 0
        (leBytes 4 s.glb.fwVer.toNat ++ leBytes 4 s.boot.prevVersion.toNat
          ++ [BitVec.ofNat 8 (ofBool s.boot.image), BitVec.ofNat 8 s.boot.svn, BitVec.ofNat 8 s.boot.counter, 0, 0, 0, 0, 0])
        { s with boot := { s.boot with restart := false } }
    else s)

end Sys2Proof.Machine
end

