-- ==== Sys2Proof/Machine/Errors.lean ====
section
/-! DEFINITION. A job fault and what follows it: JOB_FAULT, ALL_JOBS_LOST and the fatal dump (R254-R257, R337-R340). -/
namespace Sys2Proof.Machine

/-! ### JOB_FAULT (R255, R256) -/

/-- Command running on the faulted partition: a RUN, RUN_CHAIN or serving step, or the CTX_SAVE whose save set is scanned out (R256). -/
def faultCmd (s : State) (f : FaultInfo) : Option Cmd :=
  ((f.part.bind (Tbl.get? s.parts)).bind fun p => p.running.or (p.saving.map fun v => (v.queue, v.seq))).bind (queueCmd s)

/-- First and last column group of the faulted partition, or 0xFF. -/
def faultGroups (s : State) (f : FaultInfo) : List Byte :=
  match f.part.bind (Tbl.get? s.parts) with
  | some p => [BitVec.ofNat 8 p.first, BitVec.ofNat 8 (p.first + p.count - 1)]
  | none => [0xFF, 0xFF]

/-- The detail of JOB_FAULT (R256). A serving step stands on no SQ and has no SEQ. -/
def faultDetail (s : State) (f : FaultInfo) : List Byte :=
  let t := match f.tile with | some x => [BitVec.ofNat 8 x.1, BitVec.ofNat 8 x.2] | none => [0xFF, 0xFF]
  let (seq, q) := match faultCmd s f with | some c => if c.queue = fwQueue then (0, 0xFF) else (c.seq, c.queue) | none => (0, 0xFF)
  [BitVec.ofNat 8 f.cause] ++ leBytes 2 f.origin.code ++ faultGroups s f ++ t ++ [0] ++ leBytes 4 seq ++ [BitVec.ofNat 8 q, 0, 0, 0]

/-- The work of a command stops with the part: nothing further issues, issued bursts land void, its huddles are aborted. -/
def stopCmd (s : State) (c : Cmd) : State :=
  let s1 := discardTier c.key (discardDescs c.key s)
  match c.part with
  | some f => abortHuddles f c s1
  | none => s1

/-- JOB_FAULT (R255): the part stands in FAULT. Its load falls at the ramp limit. -/
def execJobFault (s : State) : Out :=
  commit (
    match s.dump.fault with
    | none => s
    | some f =>
      if f.record.isSome then s
      else
        let src := match f.part with | some p => 0x40 + p | none => 0
        let (r, s1) := postEventAt 0x0303 src (((faultCmd s f).map (·.job)).getD 0) (faultDetail s f) 0 0xFF s
        let s2 := s1.cmds.foldl stopCmd s1
        let drew := ((Tbl.vals s2.parts).filter fun p => demandRunning s2 p || p.handed.isSome).map fun p => (p.first, runPower s2 p)
        let s3 := drew.foldl (fun a x => endDemand x.1 x.2 (onPart x.1 (fun p => { p with handed := none }) a))
          { s2 with glb := { s2.glb with state := .fault, denEntry := false } }
        let s3 := if s2.glb.denEntry then domainsOn s3 else s3
        { s3 with dump := { s3.dump with halted := true, bytes := dumpStates s1 (Mem.put s3.dump.bytes 6 0),
                                         fault := some { f with record := some r } } })

/-! ### ALL_JOBS_LOST (R255) -/

/-- ALL_JOBS_LOST (R255, R256). -/
def execAllJobsLost (s : State) : Out :=
  commit (
    match s.dump.fault with
    | none => s
    | some f =>
      if f.record.isNone || f.lost then s
      else
        let cs := lostCmds s
        let n := s.srv.reqs.length
        let jobs := s.jobs.length
        let s1 := cs.foldl loseCmd s
        let s2 := (Tbl.keys s1.srv.reqs).foldl (fun a r => removeReq r a) s1
        let s3 := { s2 with jobs := Tbl.mapVals s2.jobs fun j => { j with state := .lost, saveAsked := false, closing := none },
                            tierQueue := [], dump := { s2.dump with fault := some { f with lost := true } } }
        postEvent 0x0304 0x00 0 (leBytes 2 jobs ++ leBytes 4 cs.length ++ leBytes 4 n ++ List.replicate 6 0) s3)

/-! ### The fatal dump (R337-R339) -/

/-- One error record (R339). Check bits read are undefined (log 6). -/
def errBytes (k : Nat) (e : ErrRec) (posted : Bool) : List Byte :=
  recBytes e.rec_ posted ++ leBytes 8 e.addr ++ (if e.mem = 0xFF then List.replicate 4 0 else freeBytes k 4)
    ++ [e.mem, BitVec.ofNat 8 (ofBool e.notPosted + 2 * ofBool e.inFault)] ++ List.replicate 18 0

/-- Error records in the dump's order: the originating event, then the others, the newest 16,383. -/
def dumpErrs (s : State) (f : FaultInfo) : List ErrRec :=
  let first := (s.dump.errs.find? (isOrigin s)).getD { rec_ := f.origin, addr := 0, mem := 0xFF, notPosted := false, inFault := false }
  let rest := s.dump.errs.filter fun e => !isOrigin s e
  first :: rest.drop (rest.length - 16383)

/-- Words of a tile's memories that read uncorrectable in the scan. -/
def scanErrs (s : State) (t : Nat) : List ErrWord :=
  s.mctl.errs.filter fun e => e.syms ≥ 2 && (e.kind == .regFile || e.kind == .accum || e.kind == .configStore)
    && e.addr / 2 ^ 20 == t

/-- A tile with the uncorrectable words of its memories as zeros. -/
def scanned (es : List ErrWord) (t : Tile) : Tile :=
  es.foldl (fun t e =>
    let a := e.addr % 2 ^ 20 / 32 * 32
    match e.kind with
    | .regFile => { t with rf := Mem.clear t.rf a 32 }
    | .accum => { t with acc := Mem.clear t.acc a 32 }
    | _ => { t with slots := modAt t.slots (a / 0x8000) fun x => { x with mem := Mem.clear x.mem (a % 0x8000) 32 } }) t

/-- One tile record in the dump (R248, R337). -/
def dumpTile (off : Nat) (at_ : TilePlace) (t : Tile) (es : List ErrWord) (m : Mem) : Mem :=
  (recordParts at_ (scanned es t)).foldl (fun a y => Mem.paste a (off + y.1) y.2.1 y.2.2) m

/-- Uncorrectable words met in the scan are recorded, not posted. -/
def noteScan (part : Option Nat) (es : List ErrWord) (s : State) : State :=
  es.foldl (fun a e =>
    let (r, a1) := raiseRec 0x0202 (ueSource e part) 0 (ueDetail e false 2 false) a
    keepRec r 0 (BitVec.ofNat 8 (memCode e.kind)) false a1) s

/-- The header (R338), VALID set. -/
def dumpHeader (s : State) (f : FaultInfo) (r : EvRec) (n errs len : Nat) (digest : List Byte) : List Byte :=
  leBytes 4 0x504D5544 ++ leBytes 2 1 ++ [1, 0] ++ leBytes 8 f.at_.toNat ++ recBytes f.origin true ++ recBytes r true
    ++ leBytes 4 errs ++ leBytes 2 n ++ faultGroups s f ++ leBytes 8 len ++ leBytes 4 s.glb.fwVer.toNat
    ++ [BitVec.ofNat 8 s.glb.partId.toNat, 0, 0, 0] ++ digest

/-- The counters of the dump: a device-scope snapshot, the energy counters, the correctable counts, and the LNK retry and drop counters;
the places behind the snapshot are the model's (log 41). -/
def dumpCounters (s : State) : Mem :=
  placeParts [(0, snapshot s (Tbl.vals s.parts)),
    (0x2000, (List.range 0x100).flatMap fun i => leBytes 4 (readNrg s (4 * i))),
    (0x2400, s.ras.ce.flatMap fun w => leBytes 8 w.toNat),
    (0x2440, (List.range 10).flatMap fun i => leBytes 4 (Tbl.getD s.lnk.bridge i 0).toNat),
    (0x2480, (List.range 9).flatMap fun i => (List.range 8).flatMap fun w => leBytes 4 (readLnk s (0x108 + 0x40 * i + 4 * w))
      ++ leBytes 4 (readLnk s (0x128 + 0x40 * i)))]

/-- The dump's bytes before its header: error records, counters and the scan, with the queue states and summaries that stand there since
the fault was posted. -/
def dumpBody (s : State) (es : List ErrRec) (f : FaultInfo) (nos : List Nat) (k : Nat) : Mem :=
  let old := Mem.clear (Mem.clear (Mem.clear s.dump.bytes 0x10000 0x100000) 0x120000 0x10000) 0x150000 0x80000000
  let m1 := (es.zipIdx).foldl (fun a e => Mem.write a (0x10000 + 64 * e.2) (errBytes (k + e.2) e.1 true)) old
  let m2 := Mem.paste m1 0x120000 0x10000 (dumpCounters s)
  match f.part.bind (Tbl.get? s.parts) with
  | none => m2
  | some p => (nos.zipIdx).foldl (fun a t =>
      dumpTile (0x1000000 + 0x80000 * t.2) (placeOf s p none (t.1 % 64) (t.1 / 64)) (tileAt s t.1) (scanErrs s t.1) a) m2

/-- FATAL_DUMP_READY (R337, R340): the dump is written whole, and VALID last. A RESET_COMPUTE that waits for it then resets the
compute part (R257). -/
def execFatalDumpReady (s : State) : Out :=
  commit (
    match s.dump.fault with
    | none => s
    | some f =>
      match f.record with
      | none => s
      | some r =>
        if !f.lost || f.ready then s
        else
          let nos := match f.part.bind (Tbl.get? s.parts) with | some p => partNos p | none => []
          let s1 := noteScan f.part (nos.flatMap (scanErrs s)) s
          let es := dumpErrs s1 f
          let len := 0x1000000 + nos.length * 524288
          let body := dumpBody s1 es f nos s1.fresh
          let digest := sha3 (Mem.read body 0x10000 (len - 0x10000))
          let bytes := Mem.write body 0 (dumpHeader s1 f r nos.length es.length len digest)
          let s2 := { s1 with fresh := s1.fresh + 30000, dump := { s1.dump with bytes, fault := some { f with ready := true } } }
          releaseReset (postEvent 0x0F01 0x00 0 (leBytes 4 0 ++ leBytes 4 len ++ [BitVec.ofNat 8 f.cause] ++ leBytes 2 nos.length
            ++ List.replicate 5 0) s2))

end Sys2Proof.Machine
end

