-- ==== Sys2Proof/Machine/Accept.lean ====
section
/-! DEFINITION. PACKET_ACCEPT: the next packet of the rings in round robin, read, checked and refused or accepted (R206-R208,
R212, R217). -/
namespace Sys2Proof.Machine

/-- What a packet's opcode is; MODEL_STAGE with RESUPPLY and OBJ_MOVE with TIER NONE have checks of their own. -/
def specOf (p : Pkt) : Option OpSpec :=
  let op := byteAt p 0
  if op = 0x20 then some (if pktFlag p 0 then resupplySpec else modelStageSpec)
  else if op = 0x29 then some (if byteAt p 36 = 0xFF then objReleaseSpec else objMoveSpec)
  else
    [nopSpec, identifySpec, setFeatureSpec, getFeatureSpec, jobOpenSpec, jobCloseSpec, partitionAllocSpec, partitionFreeSpec,
     imageLoadSpec, imageBindSpec, modelCommitSpec, modelEvictSpec, objPlaceSpec, objPinSpec, runSpec, runChainSpec,
     stepContinueSpec, cancelSpec, xferSpec, resultFetchSpec, reqOpenSpec, reqFeedSpec, reqCloseSpec, reqQuerySpec,
     budgetSetSpec, budgetQuerySpec, powerHintSpec, ctxSaveSpec, ctxRestoreSpec, traceCtlSpec, counterSnapshotSpec,
     exchangePlanSpec, fwUpdateSpec, attestSpec, dumpReadSpec, sleepSpec, resetComputeSpec].find? fun sp => sp.op == op

/-- Host addresses of `n` units of a ring from its head, wrapping. -/
def unitAddrs (k : Queue) (n : Nat) : List Nat := (List.range n).map fun i => k.base + 64 * ((k.head + i) % k.size)

/-- Submitted units. -/
def unitsReady (k : Queue) : Nat := (k.tail + k.size - k.head) % k.size

/-- The packet at a ring's head as far as it may be read now: how many units it takes, its bytes, and whether all its units could
be reached. A header whose PUNITS exceeds 7 stands alone (R207). -/
def nextPacket (s : State) (k : Queue) : Option (Nat × Pkt × Bool) :=
  if unitsReady k = 0 || !hostOk s (k.base + 64 * k.head) 64 then none
  else
    let h := readHost s (k.base + 64 * k.head) 64
    let n := if byteAt h 8 > 7 then 1 else 1 + byteAt h 8
    if unitsReady k < n then none
    else
      let as_ := unitAddrs k n
      some (n, as_.flatMap (fun a => readHost s a 64), as_.all fun a => hostOk s a 64)

/-- Is there a packet on a queue that may be read now? -/
def queueReady (s : State) (q : Nat) : Bool :=
  match (Tbl.get? s.queues q).bind (nextPacket s) with
  | none => false
  | some (_, p, _) =>
    match specOf p with
    | some sp => mayRead sp q s p
    | none => mayRead nopSpec q s p

/-- The queue whose turn it is, after the one read last. -/
def turnQueue (s : State) : Option Nat :=
  ((List.range 65).map fun i => (s.qdb.lastRead + 1 + i) % 65).find? (queueReady s)

/-- The packet judged, in the state with the head moved past it. -/
def takePacket (q : Nat) (p : Pkt) (reached : Bool) (pick : Nat) (s : State) : State :=
  if byteAt p 8 > 7 then refuse q p { st := .badParam, loc := 8 } s
  else if !reached then refuse q p { st := .badAddr } s
  else
    match specOf p with
    | none => refuse q p { st := .badOpcode } s
    | some sp => judge sp q p pick s

/-- PACKET_ACCEPT (R207, R208, R212). -/
def execPacketAccept (pick : Nat) (s : State) : Out :=
  commit (
    match turnQueue s with
    | none => s
    | some q =>
      match (Tbl.get? s.queues q).bind (nextPacket s) with
      | none => s
      | some (n, p, reached) =>
        let s1 := onQueue q (fun k => { k with head := (k.head + n) % k.size }) { s with qdb := { s.qdb with lastRead := q } }
        takePacket q p reached pick s1)

end Sys2Proof.Machine
end

