-- ==== Sys2Proof/Machine/HostAttach.lean ====
section
/-! DEFINITION. Host accesses to device memory: the CXL.mem range and BAR2 (R369, R372-R374). -/
namespace Sys2Proof.Machine

/-- Does the state serve host accesses (R374)? -/
def hostServed (s : State) : Bool :=
  s.glb.state == .ready || s.glb.state == .active || s.glb.state == .drain || s.glb.state == .service || s.glb.state == .fault

/-- Does the whole span lie in pages of objects in HBM or DDR5? -/
def hostMapped (s : State) (a n : Nat) : Bool :=
  n != 0 && (List.range ((a % pageSize + n - 1) / pageSize + 1)).all fun i => (objAtAddr s (a / pageSize * pageSize + i * pageSize)).isSome

/-- Lines that the host may hold after a load: its own are renewed, the oldest give way beyond 4 M (R372). -/
def holdLines (a n : Nat) (s : State) : State :=
  let ls := (List.range ((a % 64 + n + 63) / 64)).map fun i => a / 64 * 64 + 64 * i
  let all := (s.att.snoop.filter fun x => !ls.contains x) ++ ls
  { s with att := { s.att with snoop := all.drop (all.length - 4 * 2 ^ 20) } }

/-- What the host gets back. -/
def respond (b : List Byte) (err : RespErr) (s : State) : State := { s with att := { s.att with resp := b, respErr := err } }

/-- A host access to a chip address (R374): data of an object's page, poisoned where it is uncorrectable; else all bytes 0xFF, poisoned
through CXL.mem and an Unsupported Request through BAR2, and a store is dropped. R374 posts no event for any of these cases, so
R328's outcome 5 is a peer access's (DEDUCED:
log 36). -/
def hostAccess (bar2 : Bool) (a n : Nat) (store : Option (List Byte)) (s : State) : State :=
  match store with
  | some b => if hostServed s && hostMapped s a b.length then storeMem a b s else s
  | none =>
    if hostServed s && hostMapped s a n then
      let r := eccReadAt a n s
      respond r.bytes (if r.ue = [] then .none else .poison) r.st
    else respond (List.replicate n 0xFF) (if bar2 then .unsupported else .poison) s

/-- CXL_MEM_ACCESS (R372): device physical address `d` of the 256 GiB range. -/
def execCxlMemAccess (d n : Nat) (store : Option (List Byte)) (s : State) : Out :=
  commit (
    let len := match store with | some b => b.length | none => n
    if !s.att.linkUp || d + len > 256 * 2 ^ 30 then s
    else
      let a := hbmBase + s.att.hdmBase.toNat * 2 ^ 30 + d
      let s1 := hostAccess false a n store s
      if hostServed s && hostMapped s a len then holdLines a len s1 else s1)

/-- BAR2_ACCESS (R373): offset `x` of the 64 GiB window, at the target in force. -/
def execBar2Access (x n : Nat) (store : Option (List Byte)) (s : State) : Out :=
  commit (
    let len := match store with | some b => b.length | none => n
    if !s.att.linkUp || x + len > 64 * 2 ^ 30 then s else hostAccess true (s.att.bar2tgt.toNat * 2 ^ 30 + x) n store s)

end Sys2Proof.Machine
end

