-- ==== Sys2Proof/Machine/RegWrite.lean ====
section
/-! DEFINITION. Register writes: doorbells, rings, the event queue and every writable word (R206-R208, R341-R363, R369). -/
namespace Sys2Proof.Machine

/-- Does the register space take writes of every kind (R344)? -/
def regsOpen (s : State) : Bool := s.glb.state != .off && s.glb.state != .boot

def setDoorbell (k : Nat) (v : Nat) (s : State) : State :=
  { s with qdb := { s.qdb with doorbells := Tbl.set s.qdb.doorbells k (BitVec.ofNat 16 v) } }

/-- A doorbell write in DEN, or while Den is entered, wakes the X4 (R319, R320, R351). -/
def wakeBy (s : State) : State :=
  if (s.glb.state == .den || s.glb.denEntry) && !s.glb.wake then
    { s with glb := { s.glb with wake := true, wakeAt := s.clk.rackTime } }
  else s

/-- A tail doorbell's error bit (R349, R351). -/
def tailErr (q : Nat) (s : State) : State :=
  if q = 64 then { s with qdb := { s.qdb with errAq := true } }
  else { s with qdb := { s.qdb with errSq := s.qdb.errSq ||| BitVec.ofNat 64 (2 ^ q) } }

def headErr (q : Nat) (s : State) : State :=
  if q = 64 then { s with qdb := { s.qdb with errAcq := true } }
  else { s with qdb := { s.qdb with errCq := s.qdb.errCq ||| BitVec.ofNat 64 (2 ^ q) } }

/-- The queue as a doorbell finds it: it exists, and the AQ is enabled. -/
def ringAt (s : State) (q : Nat) : Option Queue := if q = 64 && !s.qdb.aqEn then none else Tbl.get? s.queues q

/-- A tail doorbell (R207, R351). In BOOT it is kept in its register (R215). -/
def writeTail (q : Nat) (v : W32) (s : State) : State :=
  let x := v.toNat % 65536
  let key := if q = 64 then 128 else q
  match s.glb.state with
  | .off => s
  | .boot => if s.att.cfgUp then setDoorbell key x s else s
  | _ =>
    let s1 := wakeBy s
    match ringAt s1 q with
    | none => tailErr q s1
    | some k => if x ≥ k.size then tailErr q s1 else setDoorbell key x (onQueue q (fun k => { k with tail := x }) s1)

/-- A completion head doorbell (R208, R351): it may not release entries that have not been posted. -/
def writeHead (q : Nat) (v : W32) (s : State) : State :=
  let x := v.toNat % 65536
  let key := if q = 64 then 129 else 64 + q
  match s.glb.state with
  | .off => s
  | .boot => if s.att.cfgUp then setDoorbell key x s else s
  | _ =>
    let s1 := wakeBy s
    match ringAt s1 q with
    | none => headErr q s1
    | some k =>
      let n := k.cqSize
      if x ≥ n || (x + n - k.cqHead) % n > (k.cqTail + n - k.cqHead) % n then headErr q s1
      else consumed k.vector q ((k.cqTail + n - x) % n) (setDoorbell key x (onQueue q (fun k => { k with cqHead := x }) s1))

/-- EVQ_HEAD: a head doorbell like the others, also in DEN (R236, R351, R352). -/
def writeEvqHead (v : W32) (s : State) : State :=
  if !regsOpen s then s
  else
    let s := wakeBy s
    let x := v.toNat % 2 ^ 20
    let n := 2 ^ s.evq.size.toNat
    let e := s.evq
    if !e.en || x ≥ n || (x + n - e.head) % n > (e.tail + n - e.head) % n then
      { s with qdb := { s.qdb with errEvq := true } }
    else consumed 0 65 ((e.tail + n - x) % n) { s with evq := { e with head := x } }

/-- QDB_AQ_ENABLE (R350). -/
def writeAqEnable (v : W32) (s : State) : State :=
  if !regsOpen s then s
  else if v.getLsbD 0 then
    if s.qdb.aqEn then s
    else if s.qdb.aqSize < 6 || s.qdb.aqSize > 12 || s.qdb.acqSize < 6 || s.qdb.acqSize > 12 then
      { s with glb := { s.glb with errCfg := true } }
    else
      let q : Queue := { base := s.qdb.aqBase.toNat, size := 2 ^ s.qdb.aqSize.toNat, tail := 0, head := 0,
                         cqBase := s.qdb.acqBase.toNat, cqSize := 2 ^ s.qdb.acqSize.toNat, cqTail := 0, cqPhase := true,
                         cqHead := 0, reserved := (s.cmds.filter fun c => c.queue == 64).length, vector := 1, depth := 64,
                         job := 0 }
      setDoorbell 128 0 (setDoorbell 129 0
        { s with qdb := { s.qdb with aqEn := true, aqActive := true }, queues := Tbl.set s.queues 64 q })
  else
    { s with qdb := { s.qdb with aqEn := false,
                                 aqActive := s.qdb.aqActive && s.cmds.any (fun c => c.queue == 64) } }

/-- EVQ_ENABLE (R352): write index 0, phase 1, EVQ_HEAD 0; records held from boot follow unless EVQ_OVERFLOW goes first. -/
def writeEvqEnable (v : W32) (s : State) : State :=
  if !regsOpen s then s
  else if v.getLsbD 0 then
    if s.evq.en then s
    else if s.evq.size < 12 || s.evq.size > 20 then { s with glb := { s.glb with errCfg := true } }
    else
      let s1 := { s with evq := { s.evq with en := true, everEn := true, tail := 0, phase := true, head := 0,
                                             overflow := s.evq.overflow || s.evq.reserve != [] } }
      if s1.evq.overflow then s1 else flushEvq s1
  else { s with evq := { s.evq with en := false } }

/-- A 64-bit RW value written through its staging latch (R347): `key` names the _LO word. A _HI write with no _LO staged
leaves the low half as it is. -/
def stagedHi (key : Nat) (old : Nat) (hi : W32) (s : State) : Nat × State :=
  let lo := ((Tbl.get? s.qdb.loStage key).map (·.toNat)).getD (old % 2 ^ 32)
  (hi.toNat * 2 ^ 32 + lo, { s with qdb := { s.qdb with loStage := Tbl.erase s.qdb.loStage key } })

def stageLo (key : Nat) (v : W32) (s : State) : State :=
  { s with qdb := { s.qdb with loStage := Tbl.set s.qdb.loStage key v } }

def locked (s : State) : State := { s with glb := { s.glb with errLocked := true } }

/-- Where LO_WORD_STAGE and REGISTER_WRITE find the window DVSEC: behind BAR0's 32 MiB (DESIGN CHOICE: log 17). -/
def dvsecBase : Nat := 0x2000000

/-- The _LO words that stage: QDB_AQ_BASE, QDB_ACQ_BASE and EVQ_BASE in BAR0, HDMBASE and BAR2TGT in the window DVSEC (R347, R369). -/
def isDvsecLo (off : Nat) : Bool := off = dvsecBase + 0x0C || off = dvsecBase + 0x14
def isLoWord (off : Nat) : Bool :=
  (regBlock off = 1 && (regWord off = 0 || regWord off = 0x10)) || (regBlock off = 2 && regWord off = 0)

/-- Key of a staged _LO word: its block and word. -/
def loKey (off : Nat) : Nat := regBlock off * 0x10000 + regWord off

/-- A write to a _HI word of the window DVSEC (R347, R369): with the staged _LO word it takes effect, HDMBASE not while the HDM decoder is
committed. -/
def writeDvsecHi (off : Nat) (v : W32) (s : State) : State :=
  if !s.att.cfgUp then s
  else if off = dvsecBase + 0x10 && !s.att.committed then
    let (x, s1) := stagedHi (dvsecBase + 0x0C) (s.att.hdmBase.toNat * 2 ^ 30) v s
    { s1 with att := { s1.att with hdmBase := BitVec.ofNat 34 (x / 2 ^ 30) } }
  else if off = dvsecBase + 0x18 then
    let (x, s1) := stagedHi (dvsecBase + 0x14) (s.att.bar2tgt.toNat * 2 ^ 30) v s
    { s1 with att := { s1.att with bar2tgt := BitVec.ofNat 34 (x / 2 ^ 30) } }
  else s

/-- A write to a _LO word (R347); an enabled ring's base is locked (R206), and a committed HDMBASE takes no write (R369). -/
def writeLo (off : Nat) (v : W32) (s : State) : State :=
  if dvsecBase ≤ off then
    (if isDvsecLo off && s.att.cfgUp && !(off == dvsecBase + 0x0C && s.att.committed) then stageLo off v s else s)
  else if !regsOpen s || !isLoWord off then s
  else if (if regBlock off = 1 then s.qdb.aqActive else s.evq.en) then locked s
  else stageLo (loKey off) v s

/-- QDB words without a row of their own (R349). -/
def writeQdb (o : Nat) (v : W32) (s : State) : State :=
  let b := fun (x : Nat) => BitVec.ofNat 64 (x / 4096 * 4096)
  match o with
  | 0x04 =>
    if s.qdb.aqActive then locked s
    else let (x, s1) := stagedHi 0x10000 s.qdb.aqBase.toNat v s; { s1 with qdb := { s1.qdb with aqBase := b x } }
  | 0x08 => if s.qdb.aqActive then locked s else { s with qdb := { s.qdb with aqSize := v.setWidth 5 } }
  | 0x14 =>
    if s.qdb.aqActive then locked s
    else let (x, s1) := stagedHi 0x10010 s.qdb.acqBase.toNat v s; { s1 with qdb := { s1.qdb with acqBase := b x } }
  | 0x18 => if s.qdb.aqActive then locked s else { s with qdb := { s.qdb with acqSize := v.setWidth 5 } }
  | 0x30 => { s with qdb := { s.qdb with errSq := s.qdb.errSq &&& ~~~(v.setWidth 64) } }
  | 0x34 => { s with qdb := { s.qdb with errSq := s.qdb.errSq &&& ~~~((v.setWidth 64) <<< 32) } }
  | 0x38 => { s with qdb := { s.qdb with errCq := s.qdb.errCq &&& ~~~(v.setWidth 64) } }
  | 0x3C => { s with qdb := { s.qdb with errCq := s.qdb.errCq &&& ~~~((v.setWidth 64) <<< 32) } }
  | 0x40 => { s with qdb := { s.qdb with errAq := s.qdb.errAq && !v.getLsbD 0, errAcq := s.qdb.errAcq && !v.getLsbD 1,
                                         errEvq := s.qdb.errEvq && !v.getLsbD 2 } }
  | _ => s

/-- GLB words (R348). -/
def writeGlb (o : Nat) (v : W32) (s : State) : State :=
  match o with
  | 0x10 => { s with glb := { s.glb with errPartial := s.glb.errPartial && !v.getLsbD 0,
                                         errLocked := s.glb.errLocked && !v.getLsbD 1,
                                         errCfg := s.glb.errCfg && !v.getLsbD 2 } }
  | 0x14 => { s with glb := { s.glb with scratch := v } }
  | _ => s

/-- EVQ words without a row of their own (R352). -/
def writeEvqWord (o : Nat) (v : W32) (s : State) : State :=
  match o with
  | 0x04 =>
    if s.evq.en then locked s
    else let (x, s1) := stagedHi 0x20000 s.evq.base.toNat v s
         { s1 with evq := { s1.evq with base := BitVec.ofNat 64 (x / 4096 * 4096) } }
  | 0x08 => if s.evq.en then locked s else { s with evq := { s.evq with size := v.setWidth 5 } }
  | _ => s

/-- NRG_SNAP (R357): a write of 1 while it reads 1 has no effect. -/
def writeNrgSnap (v : W32) (s : State) : State :=
  if regsOpen s && v.getLsbD 0 then { s with nrg := { s.nrg with snap := true } } else s

/-- FAB_WDOG_CTL (R358). -/
def writeWdog (v : W32) (s : State) : State := if regsOpen s then { s with wdog := v.setWidth 5 } else s

/-- A write of PWR_VR_OVERRIDE or THM_TRIP is posted to the slow domain (R345). -/
def postSlow (o : Nat) (v : W32) (s : State) : State :=
  if regsOpen s then { s with slow := { s.slow with posted := s.slow.posted ++ [(o, v)] } } else s

/-- PWR_VR_OVERRIDE (R354). -/
def writeVr (v : W32) (s : State) : State := postSlow 0x40 v s

/-- THM_TRIP (R355). -/
def writeTrip (v : W32) (s : State) : State := postSlow 0x44 v s

/-- MEM_ECC_CTL (R360): INJARM is set by 1 where INJSEL names a target, and stays set until the injection is done. -/
def writeEccCtl (v : W32) (s : State) : State :=
  if regsOpen s then
    let keep := v &&& 0x00FC0307
    let sel := bitsOf v.toNat 20 4
    let arm := (v.getLsbD 17 && 1 ≤ sel && sel ≤ 3) || s.mctl.ctl.getLsbD 17
    { s with mctl := { s.mctl with ctl := if arm then keep ||| 0x20000 else keep } }
  else s

/-- RAS_SPARE_MAP of die `n` (R362). -/
def writeSpareMap (n : Nat) (v : W32) (s : State) : State :=
  let row := bitsOf v.toNat 9 4
  let col := bitsOf v.toNat 4 5
  if regsOpen s && row ≤ 12 && col ≤ 16 then
    { s with ras := { s.ras with maps := modAt s.ras.maps n fun m =>
        if m.withdrawn then m else { m with rowReg := row, colReg := col, applied := false } } }
  else s

/-- DBG_CTL (R363). -/
def writeDbg (v : W32) (s : State) : State :=
  if regsOpen s then { s with att := { s.att with uartLog := v.getLsbD 0 } } else s

/-- A whole-word write at a BAR0 offset (R341-R347). -/
def writeWord (off : Nat) (v : W32) (s : State) : State :=
  let b := regBlock off
  let o := regWord off
  if b = 1 && 0x100 ≤ o && o < 0x200 then writeTail ((o - 0x100) / 4) v s
  else if b = 1 && 0x200 ≤ o && o < 0x300 then writeHead ((o - 0x200) / 4) v s
  else if b = 1 && o = 0x20 then writeTail 64 v s
  else if b = 1 && o = 0x24 then writeHead 64 v s
  else if !regsOpen s then s
  else if isLoWord off then writeLo off v s
  else match b with
    | 0 => writeGlb o v s
    | 1 => if o = 0x0C then writeAqEnable v s else writeQdb o v s
    | 2 => if o = 0x0C then writeEvqEnable v s else if o = 0x10 then writeEvqHead v s else writeEvqWord o v s
    | 3 => if o = 0x40 then writeVr v s else if o = 0x44 then writeTrip v s else s
    | 5 => if o = 0x28 then writeNrgSnap v s else s
    | 8 => if o = 0 then writeWdog v s else s
    | 16 => if o = 0 then writeEccCtl v s else s
    | 24 => if o < 0x20 then writeSpareMap (o / 4) v s else s
    | 28 => if o = 0 then writeDbg v s else s
    | _ => s

/-- REGISTER_WRITE (R343): a write with fewer than four byte enables has no effect and sets GLB_ERR.PARTIAL. In the window DVSEC it writes
a _HI word whole. -/
def execRegisterWrite (off : Nat) (v : W32) (be : BitVec 4) (s : State) : Out :=
  commit (if dvsecBase ≤ off then (if be = 0xF then writeDvsecHi off v s else s)
    else if be = 0xF then writeWord off v s
    else if regsOpen s then { s with glb := { s.glb with errPartial := true } } else s)

/-- QDB_SQ_TAIL[n] (R207). -/
def execQdbSqTail (n : Nat) (v : W32) (s : State) : Out := commit (writeTail (n % 64) v s)
/-- QDB_AQ_TAIL (R207). -/
def execQdbAqTail (v : W32) (s : State) : Out := commit (writeTail 64 v s)
/-- QDB_CQ_HEAD[n] (R208). -/
def execQdbCqHead (n : Nat) (v : W32) (s : State) : Out := commit (writeHead (n % 64) v s)
/-- QDB_ACQ_HEAD (R208). -/
def execQdbAcqHead (v : W32) (s : State) : Out := commit (writeHead 64 v s)
/-- EVQ_HEAD (R236). -/
def execEvqHead (v : W32) (s : State) : Out := commit (writeEvqHead v s)
/-- QDB_AQ_ENABLE (R350). -/
def execQdbAqEnable (v : W32) (s : State) : Out := commit (writeAqEnable v s)
/-- EVQ_ENABLE (R352). -/
def execEvqEnable (v : W32) (s : State) : Out := commit (writeEvqEnable v s)
/-- EVQ_OVERFLOW (R335): posted at the first free entry after the reserve was used, with the held records. -/
def execEvqOverflow (s : State) : Out :=
  commit (if s.evq.overflow || s.evq.reserve != [] || (s.evq.everEn && s.evq.bootHeld != []) then flushEvq s else s)

/-- Is a vector due: an urgent entry, COUNT entries, or TIME µs since the oldest not yet signalled (R239)? -/
def vecDue (s : State) (v : Vec) : Bool :=
  match v.ents with
  | [] => false
  | e :: _ => v.urgent || v.ents.length ≥ s.features.irqCount || passed s e.2 (usUnits s.features.irqTime)

/-- MSIX_FIRE (R239, R370): a due vector sends its message, or sets its pending bit while masked. -/
def execMsixFire (vec : Nat) (s : State) : Out :=
  let v := vecAt s vec
  commit (
    if vec < 128 && vecDue s v then
      let s1 := onVec vec (fun x => { x with ents := [], urgent := false, pend := x.pend || x.masked }) s
      if v.masked then s1 else { s1 with msix := { s1.msix with sent := s1.msix.sent ++ [vec] } }
    else s)

/-- MSIX_UNMASK (R370): the message goes out when its pending bit is still set. -/
def execMsixUnmask (vec : Nat) (s : State) : Out :=
  let v := vecAt s vec
  commit (
    if vec < 128 && v.masked then
      let s1 := onVec vec (fun x => { x with masked := false, pend := false }) s
      if v.pend then { s1 with msix := { s1.msix with sent := s1.msix.sent ++ [vec] } } else s1
    else s)

/-- NRG_SNAP (R357). -/
def execNrgSnap (v : W32) (s : State) : Out := commit (writeNrgSnap v s)
/-- FAB_WDOG_CTL (R358). -/
def execFabWdogCtl (v : W32) (s : State) : Out := commit (writeWdog v s)
/-- PWR_VR_OVERRIDE (R354). -/
def execPwrVrOverride (v : W32) (s : State) : Out := commit (writeVr v s)
/-- THM_TRIP (R355). -/
def execThmTrip (v : W32) (s : State) : Out := commit (writeTrip v s)
/-- ECC_INJECT_ARM: a write of MEM_ECC_CTL (R360). -/
def execEccInjectArm (v : W32) (s : State) : Out := commit (writeEccCtl v s)
/-- ECC_CHECK_DISABLE: a write of MEM_ECC_CTL (R360). -/
def execEccCheckDisable (v : W32) (s : State) : Out := commit (writeEccCtl v s)
/-- ECC_WRITEBACK_DISABLE: a write of MEM_ECC_CTL (R360). -/
def execEccWritebackDisable (v : W32) (s : State) : Out := commit (writeEccCtl v s)
/-- RAS_SPARE_MAP (R362). -/
def execRasSpareMap (n : Nat) (v : W32) (s : State) : Out := commit (writeSpareMap n v s)
/-- DBG_CTL (R363). -/
def execDbgCtl (v : W32) (s : State) : Out := commit (writeDbg v s)

/-- The two words of a 64-bit value of the window DVSEC, _LO and then _HI (R347). -/
def writeDvsec (lo : Nat) (v : W64) (s : State) : State :=
  writeDvsecHi (dvsecBase + lo + 4) (BitVec.ofNat 32 (v.toNat / 2 ^ 32)) (writeLo (dvsecBase + lo) (BitVec.ofNat 32 v.toNat) s)

/-- HDMBASE (R369): no effect while the HDM decoder is committed. Configuration space answers once it is up. -/
def execHdmbase (v : W64) (s : State) : Out := commit (writeDvsec 0x0C v s)

/-- BAR2TGT (R369): for all later requests. -/
def execBar2tgt (v : W64) (s : State) : Out := commit (writeDvsec 0x14 v s)

/-- LO_WORD_STAGE (R347). -/
def execLoWordStage (off : Nat) (v : W32) (s : State) : Out := commit (writeLo off v s)

end Sys2Proof.Machine
end

