-- ==== Sys2Proof/Machine/Dispatch.lean ====
section
/-! DEFINITION. One arm per command of the table: the call of its meaning. -/
namespace Sys2Proof.Machine

/-- The effect of a command on everything but the queue. -/
def exec (i : Instr) (s : State) : Host.Outcome State Fault Refusal :=
  match i with
  | .nop q p pick => Sys2Proof.Machine.execNop q p pick s
  | .identify q p pick => Sys2Proof.Machine.execIdentify q p pick s
  | .setFeature q p pick => Sys2Proof.Machine.execSetFeature q p pick s
  | .getFeature q p pick => Sys2Proof.Machine.execGetFeature q p pick s
  | .jobOpen q p pick => Sys2Proof.Machine.execJobOpen q p pick s
  | .jobClose q p pick => Sys2Proof.Machine.execJobClose q p pick s
  | .partitionAlloc q p pick => Sys2Proof.Machine.execPartitionAlloc q p pick s
  | .partitionFree q p pick => Sys2Proof.Machine.execPartitionFree q p pick s
  | .imageLoad q p pick => Sys2Proof.Machine.execImageLoad q p pick s
  | .imageBind q p pick => Sys2Proof.Machine.execImageBind q p pick s
  | .modelStage q p pick => Sys2Proof.Machine.execModelStage q p pick s
  | .modelStageResupply q p pick => Sys2Proof.Machine.execModelStageResupply q p pick s
  | .modelCommit q p pick => Sys2Proof.Machine.execModelCommit q p pick s
  | .modelEvict q p pick => Sys2Proof.Machine.execModelEvict q p pick s
  | .objPlace q p pick => Sys2Proof.Machine.execObjPlace q p pick s
  | .objMove q p pick => Sys2Proof.Machine.execObjMove q p pick s
  | .objRelease q p pick => Sys2Proof.Machine.execObjRelease q p pick s
  | .objPin q p pick => Sys2Proof.Machine.execObjPin q p pick s
  | .run q p pick => Sys2Proof.Machine.execRun q p pick s
  | .runChain q p pick => Sys2Proof.Machine.execRunChain q p pick s
  | .chainStageStart part => Sys2Proof.Machine.execChainStageStart part s
  | .stepContinue q p pick => Sys2Proof.Machine.execStepContinue q p pick s
  | .cancel q p pick => Sys2Proof.Machine.execCancel q p pick s
  | .xfer q p pick => Sys2Proof.Machine.execXfer q p pick s
  | .resultFetch q p pick => Sys2Proof.Machine.execResultFetch q p pick s
  | .reqOpen q p pick => Sys2Proof.Machine.execReqOpen q p pick s
  | .reqFeed q p pick => Sys2Proof.Machine.execReqFeed q p pick s
  | .reqClose q p pick => Sys2Proof.Machine.execReqClose q p pick s
  | .reqQuery q p pick => Sys2Proof.Machine.execReqQuery q p pick s
  | .budgetSet q p pick => Sys2Proof.Machine.execBudgetSet q p pick s
  | .budgetQuery q p pick => Sys2Proof.Machine.execBudgetQuery q p pick s
  | .powerHint q p pick => Sys2Proof.Machine.execPowerHint q p pick s
  | .ctxSave q p pick => Sys2Proof.Machine.execCtxSave q p pick s
  | .ctxRestore q p pick => Sys2Proof.Machine.execCtxRestore q p pick s
  | .traceCtl q p pick => Sys2Proof.Machine.execTraceCtl q p pick s
  | .counterSnapshot q p pick => Sys2Proof.Machine.execCounterSnapshot q p pick s
  | .exchangePlan q p pick => Sys2Proof.Machine.execExchangePlan q p pick s
  | .fwUpdate q p pick => Sys2Proof.Machine.execFwUpdate q p pick s
  | .fwActivate q p pick => Sys2Proof.Machine.execFwActivate q p pick s
  | .attest q p pick => Sys2Proof.Machine.execAttest q p pick s
  | .dumpRead q p pick => Sys2Proof.Machine.execDumpRead q p pick s
  | .sleep q p pick => Sys2Proof.Machine.execSleep q p pick s
  | .resetCompute q p pick => Sys2Proof.Machine.execResetCompute q p pick s
  | .packetAccept pick => Sys2Proof.Machine.execPacketAccept pick s
  | .partitionCommandStart part pick => Sys2Proof.Machine.execPartitionCommandStart part pick s
  | .commandComplete q seq => Sys2Proof.Machine.execCommandComplete q seq s
  | .interimEntryPost q => Sys2Proof.Machine.execInterimEntryPost q s
  | .loadw c r => Sys2Proof.Machine.execLoadw c r s
  | .stream c r => Sys2Proof.Machine.execStream c r s
  | .streamComplete c r => Sys2Proof.Machine.execStreamComplete c r s
  | .accrd c r => Sys2Proof.Machine.execAccrd c r s
  | .accwr c r => Sys2Proof.Machine.execAccwr c r s
  | .vop c r => Sys2Proof.Machine.execVop c r s
  | .scan c r => Sys2Proof.Machine.execScan c r s
  | .send c r => Sys2Proof.Machine.execSend c r s
  | .recv c r => Sys2Proof.Machine.execRecv c r s
  | .steer c r => Sys2Proof.Machine.execSteer c r s
  | .gate c r => Sys2Proof.Machine.execGate c r s
  | .routeReport part gateId => Sys2Proof.Machine.execRouteReport part gateId s
  | .waitph c r => Sys2Proof.Machine.execWaitph c r s
  | .waitphRelease c r => Sys2Proof.Machine.execWaitphRelease c r s
  | .waitphStall c r => Sys2Proof.Machine.execWaitphStall c r s
  | .phase c r => Sys2Proof.Machine.execPhase c r s
  | .drainComplete c r => Sys2Proof.Machine.execDrainComplete c r s
  | .endLoop c r => Sys2Proof.Machine.execEndLoop c r s
  | .endFinal c r => Sys2Proof.Machine.execEndFinal c r s
  | .routerForward c r inp cid => Sys2Proof.Machine.execRouterForward c r inp cid s
  | .creditReturn c r out cid => Sys2Proof.Machine.execCreditReturn c r out cid s
  | .fabricStall part => Sys2Proof.Machine.execFabricStall part s
  | .steerPair c r unit => Sys2Proof.Machine.execSteerPair c r unit s
  | .inningStart part => Sys2Proof.Machine.execInningStart part s
  | .inningEnd part => Sys2Proof.Machine.execInningEnd part s
  | .huddleOpen part => Sys2Proof.Machine.execHuddleOpen part s
  | .segmentReceived part src => Sys2Proof.Machine.execSegmentReceived part src s
  | .huddleClose part => Sys2Proof.Machine.execHuddleClose part s
  | .huddlePeerTimeout part peer => Sys2Proof.Machine.execHuddlePeerTimeout part peer s
  | .runComplete part => Sys2Proof.Machine.execRunComplete part s
  | .stepTimeout part => Sys2Proof.Machine.execStepTimeout part s
  | .descriptorIssue q => Sys2Proof.Machine.execDescriptorIssue q s
  | .foxBlockTransfer k => Sys2Proof.Machine.execFoxBlockTransfer k s
  | .descriptorResume d => Sys2Proof.Machine.execDescriptorResume d s
  | .burstLanded k => Sys2Proof.Machine.execBurstLanded k s
  | .deadlineReached d => Sys2Proof.Machine.execDeadlineReached d s
  | .altdescIssue d => Sys2Proof.Machine.execAltdescIssue d s
  | .deadlineMiss d => Sys2Proof.Machine.execDeadlineMiss d s
  | .coldFetchStart j h pick => Sys2Proof.Machine.execColdFetchStart j h pick s
  | .coldFetchLanded j => Sys2Proof.Machine.execColdFetchLanded j s
  | .shardCopied j => Sys2Proof.Machine.execShardCopied j s
  | .stageTimeout q seq => Sys2Proof.Machine.execStageTimeout q seq s
  | .pageSwitch j pick => Sys2Proof.Machine.execPageSwitch j pick s
  | .ctxSavePoint part => Sys2Proof.Machine.execCtxSavePoint part s
  | .ctxSaveComplete part => Sys2Proof.Machine.execCtxSaveComplete part s
  | .servingStep job model rows st => Sys2Proof.Machine.execServingStep job model rows st s
  | .stepBoundaryAdmission job model => Sys2Proof.Machine.execStepBoundaryAdmission job model s
  | .kvBlockReturn j => Sys2Proof.Machine.execKvBlockReturn j s
  | .deferredExpiry req => Sys2Proof.Machine.execDeferredExpiry req s
  | .requestRetentionExpiry req => Sys2Proof.Machine.execRequestRetentionExpiry req s
  | .draftStep req draft out => Sys2Proof.Machine.execDraftStep req draft out s
  | .qdbSqTail n v => Sys2Proof.Machine.execQdbSqTail n v s
  | .qdbAqTail v => Sys2Proof.Machine.execQdbAqTail v s
  | .qdbCqHead n v => Sys2Proof.Machine.execQdbCqHead n v s
  | .qdbAcqHead v => Sys2Proof.Machine.execQdbAcqHead v s
  | .evqHead v => Sys2Proof.Machine.execEvqHead v s
  | .qdbAqEnable v => Sys2Proof.Machine.execQdbAqEnable v s
  | .evqEnable v => Sys2Proof.Machine.execEvqEnable v s
  | .evqOverflow => Sys2Proof.Machine.execEvqOverflow s
  | .msixFire vec => Sys2Proof.Machine.execMsixFire vec s
  | .msixUnmask vec => Sys2Proof.Machine.execMsixUnmask vec s
  | .nrgSnap v => Sys2Proof.Machine.execNrgSnap v s
  | .energyUpdate total fill cgs units => Sys2Proof.Machine.execEnergyUpdate total fill cgs units s
  | .fabWdogCtl v => Sys2Proof.Machine.execFabWdogCtl v s
  | .pwrVrOverride v => Sys2Proof.Machine.execPwrVrOverride v s
  | .thmTrip v => Sys2Proof.Machine.execThmTrip v s
  | .eccInjectArm v => Sys2Proof.Machine.execEccInjectArm v s
  | .eccCheckDisable v => Sys2Proof.Machine.execEccCheckDisable v s
  | .eccWritebackDisable v => Sys2Proof.Machine.execEccWritebackDisable v s
  | .rasSpareMap n v => Sys2Proof.Machine.execRasSpareMap n v s
  | .dbgCtl v => Sys2Proof.Machine.execDbgCtl v s
  | .hdmbase v => Sys2Proof.Machine.execHdmbase v s
  | .bar2tgt v => Sys2Proof.Machine.execBar2tgt v s
  | .loWordStage off v => Sys2Proof.Machine.execLoWordStage off v s
  | .registerWrite off v be => Sys2Proof.Machine.execRegisterWrite off v be s
  | .mgPartid v => Sys2Proof.Machine.execMgPartid v s
  | .mgRacktime v be => Sys2Proof.Machine.execMgRacktime v be s
  | .mgCap cap deadline capAt => Sys2Proof.Machine.execMgCap cap deadline capAt s
  | .mgCapSlew v => Sys2Proof.Machine.execMgCapSlew v s
  | .mgRamp v => Sys2Proof.Machine.execMgRamp v s
  | .mgPeermask v be => Sys2Proof.Machine.execMgPeermask v be s
  | .mgTenant v => Sys2Proof.Machine.execMgTenant v s
  | .mgDrain v => Sys2Proof.Machine.execMgDrain v s
  | .cxlMemAccess d n store => Sys2Proof.Machine.execCxlMemAccess d n store s
  | .bar2Access x n store => Sys2Proof.Machine.execBar2Access x n store s
  | .jobFault => Sys2Proof.Machine.execJobFault s
  | .allJobsLost => Sys2Proof.Machine.execAllJobsLost s
  | .fatalDumpReady => Sys2Proof.Machine.execFatalDumpReady s
  | .tileParityError c r => Sys2Proof.Machine.execTileParityError c r s
  | .patrolScrub k addr => Sys2Proof.Machine.execPatrolScrub k addr s
  | .blockRetire k addr spare => Sys2Proof.Machine.execBlockRetire k addr spare s
  | .ceSummary => Sys2Proof.Machine.execCeSummary s
  | .bridgeCrcRetry c r inp => Sys2Proof.Machine.execBridgeCrcRetry c r inp s
  | .unitFailure code n => Sys2Proof.Machine.execUnitFailure code n s
  | .powerPhaseFailure n => Sys2Proof.Machine.execPowerPhaseFailure n s
  | .pllLockLoss hub => Sys2Proof.Machine.execPllLockLoss hub s
  | .sensorDisagree code a b => Sys2Proof.Machine.execSensorDisagree code a b s
  | .vin64UndervoltReset vin => Sys2Proof.Machine.execVin64UndervoltReset vin s
  | .vin64OutOfRange vin power => Sys2Proof.Machine.execVin64OutOfRange vin power s
  | .pwrAlertN low ns power => Sys2Proof.Machine.execPwrAlertN low ns power s
  | .floorExit => Sys2Proof.Machine.execFloorExit s
  | .capEffective power => Sys2Proof.Machine.execCapEffective power s
  | .capLag power => Sys2Proof.Machine.execCapLag power s
  | .fillReachesDemand part pick => Sys2Proof.Machine.execFillReachesDemand part pick s
  | .hintFillTimeout part => Sys2Proof.Machine.execHintFillTimeout part s
  | .rampFill power energy => Sys2Proof.Machine.execRampFill power energy s
  | .thermThrottle code temp => Sys2Proof.Machine.execThermThrottle code temp s
  | .throttleStep => Sys2Proof.Machine.execThrottleStep s
  | .throttleRelease code temp => Sys2Proof.Machine.execThrottleRelease code temp s
  | .thermalFloor code temp power => Sys2Proof.Machine.execThermalFloor code temp power s
  | .thermtripN code temp => Sys2Proof.Machine.execThermtripN code temp s
  | .droopDetect => Sys2Proof.Machine.execDroopDetect s
  | .droopRecover => Sys2Proof.Machine.execDroopRecover s
  | .denEntered => Sys2Proof.Machine.execDenEntered s
  | .woke => Sys2Proof.Machine.execWoke s
  | .powerUp vin => Sys2Proof.Machine.execPowerUp vin s
  | .pwrGood tray boardPos chipSrc => Sys2Proof.Machine.execPwrGood tray boardPos chipSrc s
  | .resetN ns straps => Sys2Proof.Machine.execResetN ns straps s
  | .perstN ns straps => Sys2Proof.Machine.execPerstN ns straps s
  | .bootImageCheck => Sys2Proof.Machine.execBootImageCheck s
  | .ready hbm ddr dimmGib faults => Sys2Proof.Machine.execReady hbm ddr dimmGib faults s
  | .hotReset => Sys2Proof.Machine.execHotReset s
  | .cxlRefclkLoss => Sys2Proof.Machine.execCxlRefclkLoss s
  | .rackclkLoss => Sys2Proof.Machine.execRackclkLoss s
  | .fwActivated => Sys2Proof.Machine.execFwActivated s
  | .flitReceive port flit => Sys2Proof.Machine.execFlitReceive port flit s
  | .replayTimeout port => Sys2Proof.Machine.execReplayTimeout port s
  | .linkDown port cause good => Sys2Proof.Machine.execLinkDown port cause good s
  | .laneSpared port lane spare cause => Sys2Proof.Machine.execLaneSpared port lane spare cause s
  | .portTrainRetry port => Sys2Proof.Machine.execPortTrainRetry port s
  | .rdreqServe => Sys2Proof.Machine.execRdreqServe s
  | .keepalive peer => Sys2Proof.Machine.execKeepalive peer s
  | .peerDownTimeout peer => Sys2Proof.Machine.execPeerDownTimeout peer s
  | .rallyExchange port t1 t2 t3 t4 res1 res2 => Sys2Proof.Machine.execRallyExchange port t1 t2 t3 t4 res1 res2 s
  | .rallyUnsync port => Sys2Proof.Machine.execRallyUnsync port s
  | .outputRetentionExpiry req idx => Sys2Proof.Machine.execOutputRetentionExpiry req idx s
  | .portUp port good => Sys2Proof.Machine.execPortUp port good s
  | .rackclkStart => Sys2Proof.Machine.execRackclkStart s
  | .hintLeadTime part => Sys2Proof.Machine.execHintLeadTime part s
  | .hintLightRecovery part => Sys2Proof.Machine.execHintLightRecovery part s
  | .capMet power fclk => Sys2Proof.Machine.execCapMet power fclk s

end Sys2Proof.Machine
end

