-- ==== Sys2Proof/Machine/Tick.lean ====
section
/-! DEFINITION. What one FCLK period does when no command waits: clocks, slot indices, cycle and stall counts, the rise of FCLK
(R15, R28, R95, R177, R295, R296, R305, R308, R314, R315; log 1). -/
namespace Sys2Proof.Machine

/-- The length of this FCLK period in 1/255 of its nominal length: up to twice it while stretched (R305; free). -/
def periodLength (s : State) : Nat := if s.clk.stretched then 255 + (Config.freeByte s.fresh 0).toNat else 255

/-- Rack time, the rally counter and SCLK over one FCLK period: 400, 800 and 25 units of theirs make 1 µs. The first two count once RACKCLK
has run (R295, R345, R394). -/
def advanceClocks (s : State) : State :=
  let c := s.clk
  let n := periodLength s
  let rack := c.rackPhase + 400 * n
  let rally := c.rallyPhase + 800 * n
  let unit := 255 * c.fclk
  let counts := c.rackclk || c.rackclkLost
  let c1 := if counts then
      { c with rackTime := c.rackTime + BitVec.ofNat 64 (rack / unit), rackPhase := rack % unit,
               rally := c.rally + BitVec.ofNat 64 (rally / unit), rallyPhase := rally % unit }
    else c
  let sclk := s.slow.phase + 25 * n
  let s1 := { s with clk := c1, slow := { s.slow with phase := sclk % unit }, fresh := if c.stretched then s.fresh + 1 else s.fresh }
  if unit ≤ sclk then slowEdge s1 else s1

/-- FCLK counts (R305). -/
def countFclk (s : State) : State :=
  let c := s.clk
  { s with clk := { c with ticks := c.ticks + 1,
                           stretchCount := if c.stretched then c.stretchCount + 1 else c.stretchCount,
                           recovered := if c.stretched then c.recovered + 1 else c.recovered } }

/-- The inning count of a tile; a WAITPH's stall count pauses while its partition is held or its data may still come (R28, R95,
R177). -/
def tickTile (s : State) (held : Bool) (i : Nat) (t : Tile) : Tile :=
  let w := match t.wait with
    | .waitph cond bid gmask value since => .waitph cond bid gmask value (if held || awaitsOpen s i then since + 1 else since)
    | w => w
  { t with cycles := t.cycles + 1, wait := w }

/-- One FCLK of a partition whose tiles work on an inning. -/
def tickPart (s : State) (p : Part) : State :=
  match runningRun s p.first with
  | none => s
  | some (_, _, r) =>
    if !r.inInning then s
    else
      let stalls := countStalls s p
      let s1 := (partNos p).foldl (fun a i => if Tbl.has a.tiles i then onTile i (tickTile s p.held i) a else a) s
      onPart p.first (fun x => { x with slotIdx := (x.slotIdx + 1) % max 1 x.frame, stalls }) s1

/-- Rack-time units for a rise of FCLK by 25 MHz: 62.5 W at the ramp limit, and 0.5 ms after a throttle (R314, R315). -/
def riseUnits (s : State) : Nat := max (25000000 / max 1 s.pwr.ramp) (if s.pwr.throttleRise then 200000 else 0)

/-- FCLK rises by a step where nothing holds it down, no other rise takes the ramp limit, and the power that this and the rises under way
come to fits under the cap (R306, R308, R314, R315). -/
def riseFclk (s : State) : State :=
  let f := s.clk.fclk + 25
  if f ≤ 700 && fillAllowed s && leftUp s = 0 && peakAt s f ≤ capNow s && passed s s.pwr.riseAt (riseUnits s) then
    setFclk f { s with pwr := { s.pwr with throttleRise := s.pwr.throttleRise && f < 700 } }
  else s

/-- In a cap-follow, once the fill is gone, FCLK falls by a step as often as CAP_SLEW asks while power is above the cap (R308). -/
def fallFclk (s : State) : State :=
  let f := s.clk.fclk - 25
  if s.pwr.follow.any (fun x => inputPower s > x.cap) && !s.pwr.floor && fillTotal s = 0 && 100 ≤ f
    && passed s s.pwr.riseAt (rateUnits (inputPower s - powerAt s f) s.pwr.slew) then setFclk f s
  else s

/-- Outside a cap-follow FCLK is never above the highest step whose power fits under the cap (R308). -/
def holdCap (s : State) : State :=
  if s.pwr.follow.isNone && !s.pwr.floor && inputPower s > capNow s then setFclk (fitStep (powerAt s) (capNow s) s.clk.fclk) s else s

/-- The fill that the entry into Den raised begins to fall with all other (R312, R319). -/
def startFalls (s : State) : State :=
  if s.pwr.loose.any fun l => l.fill.dur = fillHeld then openEpisode (reshape s) else s

/-- One FCLK period (log 1). In DEN FCLK is stopped and time goes on (R305, R319); in OFF nothing runs. -/
def idleTick (s : State) : Out :=
  commit (
    match s.glb.state with
    | .off => s
    | .den => advanceClocks s
    | _ =>
      let s1 := if running s then (Tbl.vals s.parts).foldl tickPart s else s
      sendLater (holdCap (fallFclk (riseFclk (startFalls (countFclk (advanceClocks s1)))))))

end Sys2Proof.Machine
end

