-- ==== Sys2Proof/Safety.lean ====
section
/-! DEFINITION. What counts as a sound state and a safe step, in the terms the statements use. -/
namespace Sys2Proof.Machine

/-- Chip memory and host memory are in canonical form. -/
def memoriesOk (s : State) : Prop := Mem.wf s.mem = true ∧ Mem.wf s.host = true

/-- A byte of chip memory, and of host memory. -/
def chipByte (s : State) (a : Nat) : Byte := Mem.get s.mem a
def hostByte (s : State) (a : Nat) : Byte := Mem.get s.host a

/-! ### Tables and stores -/

/-- Every partition stands under its first group, has groups of the 32, and shares none with another. -/
def partsOk (s : State) : Prop :=
  (∀ e ∈ s.parts, e.2.first = e.1 ∧ 1 ≤ e.2.count ∧ e.1 + e.2.count ≤ 32) ∧ s.parts.Pairwise fun a b => a.1 + a.2.count ≤ b.1

/-- The indices of a ring pair lie inside its rings. -/
def ringOk (k : Queue) : Prop := k.head < k.size ∧ k.tail < k.size ∧ k.cqHead < k.cqSize ∧ k.cqTail < k.cqSize

/-- No two accepted commands have the same queue and SEQ, and a JOB_OPEN among them names rings that hold something. -/
def cmdsOk (s : State) : Prop :=
  (s.cmds.map Cmd.key).Nodup ∧ ∀ c ∈ s.cmds, c.op = 0x08 → 0 < fieldAt c.pkt 36 4 ∧ 0 < fieldAt c.pkt 56 4

/-- A tile's register file and accumulators are in canonical form. -/
def tileOk (t : Tile) : Prop := Mem.wf t.rf = true ∧ Mem.wf t.acc = true

/-- The flash, the dump, the tiles and the tiles of save sets are in canonical form. -/
def storesOk (s : State) : Prop :=
  Mem.wf s.boot.flash = true ∧ Mem.wf s.dump.bytes = true ∧ (∀ e ∈ s.tiles, tileOk e.2) ∧
    ∀ e ∈ s.jobs, ∀ v, e.2.saveSet = some v → ∀ t ∈ v.tiles, tileOk t

/-- The partition table, the rings, the command table and the stores beside the memories are sound. -/
def tablesOk (s : State) : Prop := partsOk s ∧ (∀ e ∈ s.queues, ringOk e.2) ∧ cmdsOk s ∧ storesOk s

/-- The step goes on: it answers a next state. -/
def goesOn (s : State) : Prop := ∃ t, step s = .next t

/-! ### Host commands -/

/-- The packet a row supplies is read and passes every check. -/
def takes (sp : OpSpec) (q : Nat) (p : Pkt) (s : State) : Prop :=
  mayRead sp q s (rowPacket sp.op p) = true ∧ checkPacket sp s q (rowPacket sp.op p) = none

/-- Its name among the accepted commands: queue and SEQ. -/
def takenKey (sp : OpSpec) (q : Nat) (p : Pkt) : Nat × Nat := (q, pktSeq (rowPacket sp.op p))

/-- The host commands of R217 for a packet, each with its checks. -/
def hostRows (q : Nat) (p : Pkt) (pick : Nat) : List (Instr × OpSpec) :=
  [(.nop q p pick, nopSpec), (.identify q p pick, identifySpec), (.setFeature q p pick, setFeatureSpec),
   (.getFeature q p pick, getFeatureSpec), (.jobOpen q p pick, jobOpenSpec), (.jobClose q p pick, jobCloseSpec),
   (.partitionAlloc q p pick, partitionAllocSpec), (.partitionFree q p pick, partitionFreeSpec),
   (.imageLoad q p pick, imageLoadSpec), (.imageBind q p pick, imageBindSpec),
   if bitAt (byteAt p 1) 0 then (.modelStageResupply q p pick, resupplySpec) else (.modelStage q p pick, modelStageSpec),
   (.modelCommit q p pick, modelCommitSpec), (.modelEvict q p pick, modelEvictSpec), (.objPlace q p pick, objPlaceSpec),
   if byteAt p 36 = 0xFF then (.objRelease q p pick, objReleaseSpec) else (.objMove q p pick, objMoveSpec),
   (.objPin q p pick, objPinSpec), (.run q p pick, runSpec), (.runChain q p pick, runChainSpec),
   (.stepContinue q p pick, stepContinueSpec), (.cancel q p pick, cancelSpec), (.xfer q p pick, xferSpec),
   (.resultFetch q p pick, resultFetchSpec), (.reqOpen q p pick, reqOpenSpec), (.reqFeed q p pick, reqFeedSpec),
   (.reqClose q p pick, reqCloseSpec), (.reqQuery q p pick, reqQuerySpec), (.budgetSet q p pick, budgetSetSpec),
   (.budgetQuery q p pick, budgetQuerySpec), (.powerHint q p pick, powerHintSpec), (.ctxSave q p pick, ctxSaveSpec),
   (.ctxRestore q p pick, ctxRestoreSpec), (.traceCtl q p pick, traceCtlSpec), (.counterSnapshot q p pick, counterSnapshotSpec),
   (.exchangePlan q p pick, exchangePlanSpec), (if byteAt p 32 = 1 then .fwActivate q p pick else .fwUpdate q p pick, fwUpdateSpec),
   (.attest q p pick, attestSpec), (.dumpRead q p pick, dumpReadSpec), (.sleep q p pick, sleepSpec),
   (.resetCompute q p pick, resetComputeSpec)]

/-- The command's status, once decided. -/
def statusOf (s : State) (k : Nat × Nat) : Option Status := (cmdAt s k).bind (·.done)

/-- The result of a command, once decided: RESULT bytes 16-31 of its final entry. -/
def resultOf (s : State) (k : Nat × Nat) : List Byte := ((cmdAt s k).map (·.result)).getD []

/-! ### Tiles -/

/-- `t` differs from `s` in tile `i` alone. -/
def onlyTile (i : Nat) (s t : State) : Prop := t = { s with tiles := t.tiles } ∧ ∀ j, j ≠ i → tileAt t j = tileAt s j

/-- A micro-op changes its tile alone, where its word in the config store is free of errors to count (R321). -/
def opInTile (x : Ctx) (s t : State) : Prop := errsIn s .configStore (opWordAt s x.t) 8 = [] → onlyTile x.t s t

/-- The addresses, spans and symbol codes of a micro-op's accesses let it act, where it reads `reads` of its spans (R87, R114,
R322). -/
def readsOf (x : Ctx) (accs reads : List Access) (acc : List Nat) (s : State) : Prop :=
  accs.all (accessOk x) = true ∧ spansFree x (tileAt s x.t) (readSpans accs) (writeSpans accs) = true ∧
    (checkReads x reads acc s).1 = []

/-- The same where it reads all of its read spans. -/
def readsPass (x : Ctx) (accs : List Access) (acc : List Nat) (s : State) : Prop := readsOf x accs accs acc s

/-- The tile's sequencer stands at the next micro-op in `t`. -/
def wentOn (x : Ctx) (s t : State) : Prop := (tileAt t x.t).pc = (tileAt s x.t).pc + 1

end Sys2Proof.Machine
end

