-- ==== Sys2Proof/WellFormed.lean ====
section
/-! DEFINITION. When a command's operands name something the X4 has: a queue, a tile, a port, an engine. The machine answers
every command, well formed or not; this is what a sender keeps to. -/
namespace Sys2Proof

/-- SQ0-SQ63, or 64 the admin queue (R206). -/
def queueOk (q : Nat) : Bool := decide (q ≤ 64)

/-- A header and at most seven parameter units of 64 B (R207, R211). -/
def packetOk (p : Pkt) : Bool := decide (p.length % 64 = 0 && 64 ≤ p.length && p.length ≤ 512)

/-- A tile T(c, r) of the 64 × 24 grid (R8). -/
def tileOk (c r : Nat) : Bool := decide (c < 64 && r < 24)

/-- Units of a spare code: Badger cores, Fox engines, tier engines (R329). -/
def unitCount (code : Nat) : Nat := if code = 1 then 10 else if code = 2 then 16 else 4

/-- A physical tile of a die: 17 columns by 13 rows (R35). -/
def faultOk (f : Nat × Nat × Nat) : Bool := decide (f.1 < 8 && f.2.1 < 17 && f.2.2 < 13)

/-- A store carries as many bytes as it names. -/
def storeOk (n : Nat) (store : Option (List Byte)) : Bool :=
  match store with
  | some b => decide (b.length = n)
  | none => true

/-- Does every operand name something that exists? -/
def wellFormed : Instr → Bool
  | .nop q p _ => queueOk q && packetOk p
  | .identify q p _ => queueOk q && packetOk p
  | .setFeature q p _ => queueOk q && packetOk p
  | .getFeature q p _ => queueOk q && packetOk p
  | .jobOpen q p _ => queueOk q && packetOk p
  | .jobClose q p _ => queueOk q && packetOk p
  | .partitionAlloc q p _ => queueOk q && packetOk p
  | .partitionFree q p _ => queueOk q && packetOk p
  | .imageLoad q p _ => queueOk q && packetOk p
  | .imageBind q p _ => queueOk q && packetOk p
  | .modelStage q p _ => queueOk q && packetOk p
  | .modelStageResupply q p _ => queueOk q && packetOk p
  | .modelCommit q p _ => queueOk q && packetOk p
  | .modelEvict q p _ => queueOk q && packetOk p
  | .objPlace q p _ => queueOk q && packetOk p
  | .objMove q p _ => queueOk q && packetOk p
  | .objRelease q p _ => queueOk q && packetOk p
  | .objPin q p _ => queueOk q && packetOk p
  | .run q p _ => queueOk q && packetOk p
  | .runChain q p _ => queueOk q && packetOk p
  | .chainStageStart part => decide (part < 32)
  | .stepContinue q p _ => queueOk q && packetOk p
  | .cancel q p _ => queueOk q && packetOk p
  | .xfer q p _ => queueOk q && packetOk p
  | .resultFetch q p _ => queueOk q && packetOk p
  | .reqOpen q p _ => queueOk q && packetOk p
  | .reqFeed q p _ => queueOk q && packetOk p
  | .reqClose q p _ => queueOk q && packetOk p
  | .reqQuery q p _ => queueOk q && packetOk p
  | .budgetSet q p _ => queueOk q && packetOk p
  | .budgetQuery q p _ => queueOk q && packetOk p
  | .powerHint q p _ => queueOk q && packetOk p
  | .ctxSave q p _ => queueOk q && packetOk p
  | .ctxRestore q p _ => queueOk q && packetOk p
  | .traceCtl q p _ => queueOk q && packetOk p
  | .counterSnapshot q p _ => queueOk q && packetOk p
  | .exchangePlan q p _ => queueOk q && packetOk p
  | .fwUpdate q p _ => queueOk q && packetOk p
  | .fwActivate q p _ => queueOk q && packetOk p
  | .attest q p _ => queueOk q && packetOk p
  | .dumpRead q p _ => queueOk q && packetOk p
  | .sleep q p _ => queueOk q && packetOk p
  | .resetCompute q p _ => queueOk q && packetOk p
  | .packetAccept _ => true
  | .partitionCommandStart part _ => decide (part < 32)
  | .commandComplete q seq => queueOk q && decide (seq < 2 ^ 32)
  | .interimEntryPost q => queueOk q
  | .loadw c r => tileOk c r
  | .stream c r => tileOk c r
  | .streamComplete c r => tileOk c r
  | .accrd c r => tileOk c r
  | .accwr c r => tileOk c r
  | .vop c r => tileOk c r
  | .scan c r => tileOk c r
  | .send c r => tileOk c r
  | .recv c r => tileOk c r
  | .steer c r => tileOk c r
  | .gate c r => tileOk c r
  | .routeReport part gateId => decide (part < 32) && decide (gateId < 256)
  | .waitph c r => tileOk c r
  | .waitphRelease c r => tileOk c r
  | .waitphStall c r => tileOk c r
  | .phase c r => tileOk c r
  | .drainComplete c r => tileOk c r
  | .endLoop c r => tileOk c r
  | .endFinal c r => tileOk c r
  | .routerForward c r _ cid => tileOk c r && decide (cid < 16)
  | .creditReturn c r _ cid => tileOk c r && decide (cid < 16)
  | .fabricStall part => decide (part < 32)
  | .steerPair c r unit => tileOk c r && decide (unit < 2)
  | .inningStart part => decide (part < 32)
  | .inningEnd part => decide (part < 32)
  | .huddleOpen part => decide (part < 32)
  | .segmentReceived part src => decide (part < 32) && decide (src < 64)
  | .huddleClose part => decide (part < 32)
  | .huddlePeerTimeout part peer => decide (part < 32) && decide (peer < 64)
  | .runComplete part => decide (part < 32)
  | .stepTimeout part => decide (part < 32)
  | .descriptorIssue q => queueOk q
  | .foxBlockTransfer k => decide (k < 16)
  | .descriptorResume _ => true
  | .burstLanded k => decide (k < 16)
  | .deadlineReached _ => true
  | .altdescIssue _ => true
  | .deadlineMiss _ => true
  | .coldFetchStart j h _ => decide (j < 4) && decide (h < 2 ^ 25)
  | .coldFetchLanded j => decide (j < 4)
  | .shardCopied j => decide (j < 4)
  | .stageTimeout q seq => queueOk q && decide (seq < 2 ^ 32)
  | .pageSwitch j _ => decide (j < 4)
  | .ctxSavePoint part => decide (part < 32)
  | .ctxSaveComplete part => decide (part < 32)
  | .servingStep job model _ _ => decide (1 ≤ job && job < 2 ^ 16) && decide (model < 1024)
  | .stepBoundaryAdmission job model => decide (1 ≤ job && job < 2 ^ 16) && decide (model < 1024)
  | .kvBlockReturn j => decide (j < 4)
  | .deferredExpiry req => decide (req < 2 ^ 32)
  | .requestRetentionExpiry req => decide (req < 2 ^ 32)
  | .draftStep req _ _ => decide (req < 2 ^ 32)
  | .qdbSqTail n _ => decide (n < 64)
  | .qdbAqTail _ => true
  | .qdbCqHead n _ => decide (n < 64)
  | .qdbAcqHead _ => true
  | .evqHead _ => true
  | .qdbAqEnable _ => true
  | .evqEnable _ => true
  | .evqOverflow => true
  | .msixFire vec => decide (vec < 128)
  | .msixUnmask vec => decide (vec < 128)
  | .nrgSnap _ => true
  | .energyUpdate _ _ cgs queues => decide (cgs.length ≤ 32) && decide (queues.length ≤ 65)
  | .fabWdogCtl _ => true
  | .pwrVrOverride _ => true
  | .thmTrip _ => true
  | .eccInjectArm _ => true
  | .eccCheckDisable _ => true
  | .eccWritebackDisable _ => true
  | .rasSpareMap n _ => decide (n < 8)
  | .dbgCtl _ => true
  | .hdmbase _ => true
  | .bar2tgt _ => true
  | .loWordStage off _ => decide (off < 2 ^ 25 + 0x1000 && off % 4 = 0)
  | .registerWrite off _ _ => decide (off < 2 ^ 25 + 0x1000 && off % 4 = 0)
  | .mgPartid _ => true
  | .mgRacktime _ _ => true
  | .mgCap _ _ _ => true
  | .mgCapSlew _ => true
  | .mgRamp _ => true
  | .mgPeermask _ _ => true
  | .mgTenant _ => true
  | .mgDrain _ => true
  | .cxlMemAccess d n store => decide (d + n ≤ 2 ^ 38) && storeOk n store
  | .bar2Access x n store => decide (x + n ≤ 2 ^ 36) && storeOk n store
  | .jobFault => true
  | .allJobsLost => true
  | .fatalDumpReady => true
  | .tileParityError c r => tileOk c r
  | .patrolScrub _ addr => decide (addr < 2 ^ 46)
  | .blockRetire _ addr _ => decide (addr < 2 ^ 46)
  | .ceSummary => true
  | .bridgeCrcRetry c r _ => tileOk c r
  | .unitFailure code n => decide (1 ≤ code && code ≤ 3) && decide (n < unitCount code)
  | .powerPhaseFailure n => decide (n < 24)
  | .pllLockLoss hub => decide (hub < 2)
  | .sensorDisagree code _ _ => decide (code < 45)
  | .vin64UndervoltReset vin => decide (vin < 2 ^ 16)
  | .vin64OutOfRange vin power => decide (vin < 2 ^ 16) && decide (power < 2 ^ 16)
  | .pwrAlertN _ _ power => decide (power < 2 ^ 16)
  | .floorExit => true
  | .capEffective power => decide (power < 2 ^ 16)
  | .capLag power => decide (power < 2 ^ 16)
  | .fillReachesDemand part _ => decide (part < 32)
  | .hintFillTimeout part => decide (part < 32)
  | .rampFill power _ => decide (power < 2 ^ 16)
  | .thermThrottle code _ => decide (code < 45)
  | .throttleStep => true
  | .throttleRelease code _ => decide (code < 45)
  | .thermalFloor code _ power => decide (code < 45) && decide (power < 2 ^ 16)
  | .thermtripN code _ => decide (code < 45)
  | .droopDetect => true
  | .droopRecover => true
  | .denEntered => true
  | .woke => true
  | .powerUp vin => decide (vin < 2 ^ 16)
  | .pwrGood _ _ _ => true
  | .resetN _ _ => true
  | .perstN _ _ => true
  | .bootImageCheck => true
  | .ready _ _ dimmGib faults => decide (dimmGib.length ≤ 12) && faults.all faultOk
  | .hotReset => true
  | .cxlRefclkLoss => true
  | .rackclkLoss => true
  | .fwActivated => true
  | .flitReceive port flit => decide (port ≤ 8) && decide (flit.length = 256)
  | .replayTimeout port => decide (port ≤ 8)
  | .linkDown port cause good => decide (port ≤ 8) && decide (cause ≤ 3) && decide (good ≤ 18)
  | .laneSpared port lane spare cause => decide (port ≤ 8) && decide (lane < 18) && decide (spare < 18) && decide (cause ≤ 1)
  | .portTrainRetry port => decide (port ≤ 8)
  | .rdreqServe => true
  | .keepalive peer => decide (peer < 64)
  | .peerDownTimeout peer => decide (peer < 64)
  | .rallyExchange port _ _ _ _ _ _ => decide (port ≤ 8)
  | .rallyUnsync port => decide (port ≤ 8)
  | .outputRetentionExpiry req _ => decide (req < 2 ^ 32)
  | .portUp port good => decide (port ≤ 8) && decide (good ≤ 18)
  | .rackclkStart => true
  | .hintLeadTime part => decide (part < 32)
  | .hintLightRecovery part => decide (part < 32)
  | .capMet power fclk => decide (power < 2 ^ 16) && decide (100 ≤ fclk) && decide (fclk ≤ 700) && fclk % 25 == 0

end Sys2Proof
end

