-- ==== Sys2Proof/Certificates/Slice0/Obligations.lean ====
section
/-! DEFINITION. The statements for the provers. Host commands are taken where `takes` holds: their packet may be read now and
passes every check of R212. A clause `t = { s with f := t.f, … }` says that `t` differs from `s` in the named fields only. -/
open Sys2Proof Sys2Proof.Machine

/-! ### The machine -/

/-- The front command runs on the state with the queue's rest. -/
def Obligations.StepRunsTheFrontCommand : Prop :=
  ∀ (c : Instr) (rest : List Instr) (s : State), step { s with pending := c :: rest } = exec c { s with pending := rest }

/-- With no command waiting a step is one FCLK period (the model's choice, log 1): in OFF nothing changes, in DEN FCLK stands
still, otherwise the FCLK count rises by one, and rack time by what one period at 400 units per µs gives while FCLK is not
stretched. -/
def Obligations.EmptyQueueIsOnePeriod : Prop :=
  ∀ (s : State), s.pending = [] → ∃ t, step s = .next t ∧
    (s.glb.state = .off → memoriesOk s → t = s) ∧
    (s.glb.state = .den → t.clk.ticks = s.clk.ticks) ∧
    (s.glb.state ≠ .off → s.glb.state ≠ .den → t.clk.ticks = s.clk.ticks + 1) ∧
    (s.glb.state ≠ .off → (s.clk.rackclk || s.clk.rackclkLost) = true → s.clk.stretched = false →
      t.clk.rackTime = s.clk.rackTime + BitVec.ofNat 64 ((s.clk.rackPhase + 102000) / (255 * s.clk.fclk)))

/-- What reset leaves of the values the spec gives: the device in BOOT, FCLK 700 MHz, the rings and the event queue disabled, every
vector unsent, no job, partition, object, image or request, FOX_SPLIT 60, 25, 15, FAB_WDOG_CTL 20, part id 0x3F. -/
def Obligations.ResetState : Prop :=
  State.reset.pending = [] ∧ State.reset.glb.state = .boot ∧ State.reset.glb.partId = 0x3F ∧ State.reset.clk.fclk = 700 ∧
  State.reset.clk.rackTime = 0 ∧ State.reset.qdb.aqEn = false ∧ State.reset.evq.en = false ∧ State.reset.queues = [] ∧
  State.reset.msix.sent = [] ∧ State.reset.jobs = [] ∧ State.reset.parts = [] ∧ State.reset.objs = [] ∧
  State.reset.images = [] ∧ State.reset.srv.reqs = [] ∧ State.reset.split = (60, 25, 15) ∧ State.reset.wdog = 20 ∧
  State.reset.dump.fault = none ∧ (∀ i, (tileAt State.reset i).phase = .load)

/-- Every step keeps chip memory and host memory in canonical form. -/
def Obligations.MemoriesStayCanonical : Prop :=
  ∀ (s t : State), memoriesOk s → step s = .next t → memoriesOk t

/-- After reset chip memory and host memory are in canonical form, and the tables and the stores beside them are sound. -/
def Obligations.ResetMemoriesCanonical : Prop := memoriesOk State.reset ∧ tablesOk State.reset

/-- The one stop of the model: VIN64 above its absolute maximum rating, which only POWER_UP, VIN64_OUT_OF_RANGE and
VIN64_UNDERVOLT_RESET carry. Every other command, in every state, answers a next state. -/
def Obligations.OnlyAbsoluteMaximumStops : Prop :=
  ∀ (c : Instr) (s : State), (∃ t, exec c s = .next t) ∨
    (exec c s = .fault .absoluteMaximum ∧ ∃ vin power, 7200 < vin ∧
      (c = .powerUp vin ∨ c = .vin64OutOfRange vin power ∨ c = .vin64UndervoltReset vin))

/-! ### Device commands -/

/-- NOP, SET_FEATURE, TRACE_CTL and BUDGET_SET complete OK and set what they name; the split of HBM_SPLIT stands until the completion
(R187). -/
def Obligations.SettingCommandsTakeEffect : Prop :=
  ∀ (q : Nat) (p : Pkt) (pick : Nat) (s : State),
    (takes nopSpec q p s → ∃ t, exec (.nop q p pick) s = .next t ∧ statusOf t (takenKey nopSpec q p) = some .ok) ∧
    (takes setFeatureSpec q p s → ∃ t, exec (.setFeature q p pick) s = .next t ∧
      statusOf t (takenKey setFeatureSpec q p) = some .ok ∧
      let k := rowPacket 0x02 p
      if fieldAt k 32 2 = 4 then Tbl.get? t.features.keys (fieldAt k 40 8) = some (readHost s (fieldAt k 48 8) 1312)
      else if fieldAt k 32 2 = 1 then t.split = s.split
      else featureValue t (fieldAt k 32 2) = fieldAt k 40 8) ∧
    (takes traceCtlSpec q p s → ∃ t, exec (.traceCtl q p pick) s = .next t ∧
      statusOf t (takenKey traceCtlSpec q p) = some .ok ∧
      let k := rowPacket 0x60 p
      t.trace = { base := fieldAt k 32 8, entries := fieldAt k 40 4, sampling := byteAt k 44, mask := fieldAt k 46 2 }) ∧
    (takes budgetSetSpec q p s → ∃ t, exec (.budgetSet q p pick) s = .next t ∧
      statusOf t (takenKey budgetSetSpec q p) = some .ok ∧
      let k := rowPacket 0x48 p
      let a := accountAt t (fieldAt k 32 2)
      a.rate = fieldAt k 36 4 ∧ a.burst = fieldAt k 40 4 ∧ a.cls = byteAt k 34 ∧ a.level ≤ a.burst * 4 * levelUnit)

/-- NOP, TRACE_CTL, BUDGET_SET and BUDGET_QUERY touch no job, partition, tile, object, image, memory or host memory: only what
they set, and the accepted command and its reservation, where no SLEEP is pending. -/
def Obligations.SettingCommandsFrame : Prop :=
  ∀ (q : Nat) (p : Pkt) (pick : Nat) (s t : State), memoriesOk s → s.glb.sleep = none →
    (takes nopSpec q p s → exec (.nop q p pick) s = .next t →
      t = { s with cmds := t.cmds, queues := t.queues, glb := t.glb }) ∧
    (takes traceCtlSpec q p s → exec (.traceCtl q p pick) s = .next t →
      t = { s with cmds := t.cmds, queues := t.queues, glb := t.glb, trace := t.trace }) ∧
    (takes budgetSetSpec q p s → exec (.budgetSet q p pick) s = .next t →
      t = { s with cmds := t.cmds, queues := t.queues, glb := t.glb, srv := { s.srv with accounts := t.srv.accounts } }) ∧
    (takes budgetQuerySpec q p s → exec (.budgetQuery q p pick) s = .next t →
      t = { s with cmds := t.cmds, queues := t.queues, glb := t.glb })

/-- IDENTIFY, GET_FEATURE, COUNTER_SNAPSHOT, ATTEST, DUMP_READ and BUDGET_QUERY complete OK with the reply, the bytes or the RESULT
the spec gives them, where the host takes the writes. -/
def Obligations.ReportingCommandsAnswer : Prop :=
  ∀ (q : Nat) (p : Pkt) (pick : Nat) (s : State), memoriesOk s →
    (takes identifySpec q p s →
      let k := rowPacket 0x01 p
      let n := min (identifyReply s).length (fieldAt k 24 4)
      fieldAt k 16 8 ≠ 0 → hostOk s (fieldAt k 16 8) n = true →
      ∃ t, exec (.identify q p pick) s = .next t ∧ statusOf t (takenKey identifySpec q p) = some .ok ∧
        readHost t (fieldAt k 16 8) n = (identifyReply s).take (fieldAt k 24 4)) ∧
    (takes getFeatureSpec q p s → fieldAt (rowPacket 0x03 p) 32 2 ≠ 4 →
      ∃ t, exec (.getFeature q p pick) s = .next t ∧ statusOf t (takenKey getFeatureSpec q p) = some .ok ∧
        resultOf t (takenKey getFeatureSpec q p) = leBytes 8 (featureValue s (fieldAt (rowPacket 0x03 p) 32 2))) ∧
    (takes counterSnapshotSpec q p s →
      let k := rowPacket 0x61 p
      let b := (snapshot s (if byteAt k 32 = 0 then Tbl.vals s.parts
        else ((partOfJob s (pktJob k)).bind (Tbl.get? s.parts)).toList)).take (fieldAt k 48 4)
      hostOk s (fieldAt k 40 8) b.length = true →
      ∃ t, exec (.counterSnapshot q p pick) s = .next t ∧ statusOf t (takenKey counterSnapshotSpec q p) = some .ok ∧
        readHost t (fieldAt k 40 8) b.length = b) ∧
    (takes attestSpec q p s →
      let k := rowPacket 0x71 p
      let b := signedReport s (sliceB k 32 32) ++ certChain s.boot.flash
      fieldAt k 16 8 ≠ 0 → hostOk s (fieldAt k 16 8) (min b.length (fieldAt k 24 4)) = true →
      ∃ t, exec (.attest q p pick) s = .next t ∧ statusOf t (takenKey attestSpec q p) = some .ok ∧
        readHost t (fieldAt k 16 8) (min b.length (fieldAt k 24 4)) = b.take (fieldAt k 24 4) ∧
        resultOf t (takenKey attestSpec q p) =
          leBytes 4 (signedReport s (sliceB k 32 32)).length ++ leBytes 4 (certChain s.boot.flash).length) ∧
    (takes dumpReadSpec q p s →
      let k := rowPacket 0x72 p
      hostOk s (fieldAt k 40 8) (fieldAt k 48 4) = true →
      ∃ t, exec (.dumpRead q p pick) s = .next t ∧ statusOf t (takenKey dumpReadSpec q p) = some .ok ∧
        readHost t (fieldAt k 40 8) (fieldAt k 48 4) = Mem.read s.dump.bytes (fieldAt k 32 8) (fieldAt k 48 4)) ∧
    (takes budgetQuerySpec q p s →
      let x := accountAt s (fieldAt (rowPacket 0x49 p) 32 2)
      ∃ t, exec (.budgetQuery q p pick) s = .next t ∧ statusOf t (takenKey budgetQuerySpec q p) = some .ok ∧
        resultOf t (takenKey budgetQuerySpec q p) =
          leBytes 4 (levelNow s x / (4 * levelUnit)) ++ leBytes 4 x.rate ++ leBytes 4 x.burst)

/-! ### Jobs and partitions -/

/-- JOB_OPEN makes a job under a free id with its account and priority, or with ADDQ names one that is open; its completion creates the
submission and completion rings it names, empty, for that job. JOB_CLOSE completes when nothing else of its job is incomplete: with FORCE
it decides the job's commands first, and the commands of a SAVED job that were suspended either way. PARTITION_ALLOC joins a shared
partition or takes free groups. IMAGE_LOAD keeps the image's bytes in an IMAGE object under a new handle, with its measurement;
EXCHANGE_PLAN replaces the job's plan and sets HSEQ to 0 (R83, R149, R206, R223, R240, R241, R253). -/
def Obligations.JobsPartitionsImagesAndPlans : Prop :=
  ∀ (q : Nat) (p : Pkt) (pick : Nat) (s : State), memoriesOk s →
    (takes jobOpenSpec q p s →
      let k := rowPacket 0x08 p
      ∃ t, exec (.jobOpen q p pick) s = .next t ∧ statusOf t (takenKey jobOpenSpec q p) = some .ok ∧
        (pktFlag k 0 = true → t.jobs = s.jobs ∧ (cmdAt t (takenKey jobOpenSpec q p)).map (·.job) = some (pktJob k)) ∧
        (pktFlag k 0 = false → ∃ j b, resultOf t (takenKey jobOpenSpec q p) = leBytes 2 j ∧ 1 ≤ j ∧ j ≤ 65535 ∧
          Tbl.get? s.jobs j = none ∧ Tbl.get? t.jobs j = some b ∧ b.state = .opened ∧ b.account = fieldAt k 60 2 ∧
          b.prio = byteAt k 62 ∧ b.part = none)) ∧
    (∀ seq c, cmdAt s (q, seq) = some c → c.done = some .ok → mayFinish s c = true → c.op = 0x08 →
      ∃ t r, exec (.commandComplete q seq) s = .next t ∧ Tbl.get? t.queues (byteAt c.pkt 32) = some r ∧
        r.base = fieldAt c.pkt 40 8 ∧ r.size = fieldAt c.pkt 36 4 ∧ r.cqBase = fieldAt c.pkt 48 8 ∧ r.cqSize = fieldAt c.pkt 56 4 ∧
        r.head = 0 ∧ r.tail = 0 ∧ r.cqHead = 0 ∧ r.cqTail = 0 ∧ r.cqPhase = true ∧ r.reserved = 0 ∧
        r.vector = fieldAt c.pkt 34 2 ∧ r.depth = byteAt c.pkt 33 ∧
        r.job = if pktFlag c.pkt 0 then c.job else leNat (c.result.take 2)) ∧
    (takes jobCloseSpec q p s →
      let k := rowPacket 0x09 p
      ∃ t, exec (.jobClose q p pick) s = .next t ∧
        (Tbl.get? t.jobs (pktJob k)).bind (·.closing) = some (takenKey jobCloseSpec q p) ∧
        statusOf t (takenKey jobCloseSpec q p) = (if s.cmds.any (fun c => c.job == pktJob k && c.op != 0x09) then none else some .ok) ∧
        (∀ c, cmdAt s c.key = some c → c ∈ s.cmds → c.job = pktJob k → c.queue ≠ 64 → c.done = none →
          c.op ∉ [0x33, 0x09, 0x40, 0x41] →
          pktFlag k 0 = true ∨ (jobStateOf s (pktJob k) = .saved ∧ c.op ≠ 0x58 ∧ ∃ x ∈ Tbl.vals s.parts, c.key ∈ x.suspended) →
          statusOf t c.key ≠ none ∧ (s.tierQueue = [] → statusOf t c.key = some .cancelled))) ∧
    (takes partitionAllocSpec q p s →
      let k := rowPacket 0x10 p
      ∃ t f n, exec (.partitionAlloc q p pick) s = .next t ∧ statusOf t (takenKey partitionAllocSpec q p) = some .ok ∧
        resultOf t (takenKey partitionAllocSpec q p) = [BitVec.ofNat 8 f, BitVec.ofNat 8 n] ∧
        partOfJob t (pktJob k) = some f ∧
        (fieldAt k 36 2 = 0 → n = byteAt k 32 ∧ groupsFree s f n = true ∧ (byteAt k 33 ≠ 0xFF → f = byteAt k 33) ∧
          ∃ x, Tbl.get? t.parts f = some x ∧ x.first = f ∧ x.count = n ∧ x.members = [pktJob k] ∧ x.queue = []) ∧
        (fieldAt k 36 2 ≠ 0 → ∃ y, (partOfJob s (fieldAt k 36 2)).bind (Tbl.get? s.parts) = some y ∧ y.shared = true)) ∧
    (takes imageLoadSpec q p s →
      let k := rowPacket 0x18 p
      let b := readHost s (fieldAt k 32 8) (fieldAt k 40 8)
      ∃ t h o, exec (.imageLoad q p pick) s = .next t ∧ statusOf t (takenKey imageLoadSpec q p) = some .ok ∧
        resultOf t (takenKey imageLoadSpec q p) = leBytes 4 h ++ [BitVec.ofNat 8 (ofBool (isX3 b))] ∧
        Tbl.get? s.objs h = none ∧ Tbl.get? t.objs h = some o ∧ o.type = 5 ∧ o.job = pktJob k ∧ o.len = fieldAt k 40 8 ∧
        Tbl.get? t.images h = some { job := pktJob k, len := fieldAt k 40 8, x3 := isX3 b, measurement := measurementOf b } ∧
        ∀ i, i < fieldAt k 40 8 → chipByte t (o.pages.getD (i / pageSize) 0 + i % pageSize) = b.getD i 0) ∧
    (takes exchangePlanSpec q p s →
      let k := rowPacket 0x68 p
      ∃ t, exec (.exchangePlan q p pick) s = .next t ∧ statusOf t (takenKey exchangePlanSpec q p) = some .ok ∧
        (Tbl.get? t.jobs (pktJob k)).map (fun j => (j.plan, j.hseq)) = some (some (readPlan (planBytes s k)), 0))

/-- IMAGE_BIND, CTX_RESTORE, PARTITION_FREE, CTX_SAVE, RUN that is no zero RUN, and RUN_CHAIN enter the queue of their job's partition
at its end and stay undecided (R244). -/
def Obligations.PartitionCommandsQueue : Prop :=
  ∀ (q : Nat) (p : Pkt) (pick : Nat) (s : State),
    let queued := fun (sp : OpSpec) (t : State) =>
      statusOf t (takenKey sp q p) = none ∧ ∃ f, partOfJob s (pktJob (rowPacket sp.op p)) = some f ∧
        (Tbl.get? t.parts f).map (·.queue) = (Tbl.get? s.parts f).map fun x => x.queue ++ [takenKey sp q p]
    (takes imageBindSpec q p s → ∃ t, exec (.imageBind q p pick) s = .next t ∧ queued imageBindSpec t) ∧
    (takes ctxRestoreSpec q p s → ∃ t, exec (.ctxRestore q p pick) s = .next t ∧ queued ctxRestoreSpec t) ∧
    (takes partitionFreeSpec q p s → ∃ t, exec (.partitionFree q p pick) s = .next t ∧ queued partitionFreeSpec t) ∧
    (takes ctxSaveSpec q p s → ∃ t, exec (.ctxSave q p pick) s = .next t ∧ queued ctxSaveSpec t ∧
      jobStateOf t (pktJob (rowPacket 0x58 p)) = .saved) ∧
    (takes runSpec q p s → isZeroRun (newRun s (pktJob (rowPacket 0x30 p)) (rowPacket 0x30 p) none 0) = false →
      ∃ t, exec (.run q p pick) s = .next t ∧ queued runSpec t) ∧
    (takes runChainSpec q p s → ∃ t, exec (.runChain q p pick) s = .next t ∧ queued runChainSpec t)

/-- Every step keeps the tables sound: each partition stands under its first group, inside the 32 groups and apart from the others; the
indices of every ring lie inside it; no two accepted commands have one queue and SEQ; and the flash, the dump and the tiles' memories
stay in canonical form. -/
def Obligations.TablesStaySound : Prop := ∀ (s t : State), tablesOk s → step s = .next t → tablesOk t

/-! ### Objects -/

/-- OBJ_PLACE makes an object of the type and length asked for, in the bank or in pages as its TIER asks; OBJ_MOVE sets the pages
that are not in place yet in motion, and
completes at once where there are none; a release makes the object gone for new work; OBJ_PIN sets its pin, at once where no page of
the object is in motion and else when none is any more. That a pin waits for a page in motion is the model's reading (log 28). -/
def Obligations.ObjectsPlaceMoveReleasePin : Prop :=
  ∀ (q : Nat) (p : Pkt) (pick : Nat) (s : State),
    (takes objPlaceSpec q p s →
      let k := rowPacket 0x28 p
      ∃ t h o, exec (.objPlace q p pick) s = .next t ∧ statusOf t (takenKey objPlaceSpec q p) = some .ok ∧
        resultOf t (takenKey objPlaceSpec q p) = leBytes 4 h ∧ Tbl.get? s.objs h = none ∧ Tbl.get? t.objs h = some o ∧
        o.job = pktJob k ∧ o.type = byteAt k 32 ∧ o.pinned = false ∧ o.gone = false ∧
        (byteAt k 34 = 0 → o.bankUnit.isSome = true ∧ o.pages = []) ∧
        (byteAt k 34 ≠ 0 → o.len = fieldAt k 40 8 ∧ o.pages.length = pagesOf (fieldAt k 40 8))) ∧
    (takes objMoveSpec q p s → byteAt p 36 ≠ 0xFF →
      let k := rowPacket 0x29 p
      (∀ j ∈ s.tierQueue, sourceGone s j = false) → ∀ o, liveObj s (fieldAt k 32 4) = some o →
      ∃ t more, exec (.objMove q p pick) s = .next t ∧
        (Tbl.get? t.objs (fieldAt k 32 4)).map (·.moving) = some (o.moving ++ toMove o k ++ more) ∧
        (toMove o k = [] → more = []) ∧
        statusOf t (takenKey objMoveSpec q p) = if toMove o k = [] then some .ok else none) ∧
    (takes objReleaseSpec q p s → byteAt p 36 = 0xFF →
      let h := fieldAt (rowPacket 0x29 p) 32 4
      (∀ d ∈ Tbl.vals s.descs, d.handle = h → d.halted = none) →
      ∃ t, exec (.objRelease q p pick) s = .next t ∧ statusOf t (takenKey objReleaseSpec q p) = some .ok ∧ liveObj t h = none) ∧
    (takes objPinSpec q p s →
      let k := rowPacket 0x2A p
      ∀ o, liveObj s (fieldAt k 32 4) = some o →
      (byteAt k 36 = 1 → fieldAt k 16 8 = 0 → o.moving = [] →
        ∃ t, exec (.objPin q p pick) s = .next t ∧ statusOf t (takenKey objPinSpec q p) = some .ok ∧
          (Tbl.get? t.objs (fieldAt k 32 4)).map (·.pinned) = some true) ∧
      (byteAt k 36 = 1 → o.moving ≠ [] →
        ∃ t, exec (.objPin q p pick) s = .next t ∧ statusOf t (takenKey objPinSpec q p) = none ∧
          Tbl.get? t.objs (fieldAt k 32 4) = some o) ∧
      (byteAt k 36 = 0 → (∀ c ∈ s.cmds, c.op = 0x2A → fieldAt c.pkt 32 4 ≠ fieldAt k 32 4) →
        ∃ t, exec (.objPin q p pick) s = .next t ∧ statusOf t (takenKey objPinSpec q p) = some .ok ∧
          (Tbl.get? t.objs (fieldAt k 32 4)).map (·.pinned) = some false))

/-! ### Model slots -/

/-- MODEL_STAGE stages the slot R171 gives, RESUPPLY hands a tier engine the supplied bytes, MODEL_COMMIT makes the STAGED slot LIVE
and opens a slot epoch, MODEL_EVICT empties a STAGED slot, retires a LIVE one and cancels the MODEL_STAGE of a STAGING one
(R170-R173, R203). -/
def Obligations.ModelSlotsChange : Prop :=
  ∀ (q : Nat) (p : Pkt) (pick : Nat) (s : State),
    (takes modelStageSpec q p s → bitAt (byteAt p 1) 0 = false →
      let k := rowPacket 0x20 p
      let b := stageTarget (modelAt s (pktJob k) (fieldAt k 32 2))
      ∃ t, exec (.modelStage q p pick) s = .next t ∧ statusOf t (takenKey modelStageSpec q p) = none ∧
        (slotOf (modelAt t (pktJob k) (fieldAt k 32 2)) b).state = .staging) ∧
    (takes resupplySpec q p s → bitAt (byteAt p 1) 0 = true →
      let k := rowPacket 0x20 p
      ∃ t j, exec (.modelStageResupply q p pick) s = .next t ∧ statusOf t (takenKey resupplySpec q p) = none ∧
        (j ∈ t.tierQueue ∨ ∃ e ∈ t.tiers, j ∈ e.work) ∧ j.kind = .shard ∧ j.idx = fieldAt k 56 4 ∧ j.member = fieldAt k 54 2 ∧
        j.supply = some (fieldAt k 40 8, fieldAt k 48 4)) ∧
    (takes modelCommitSpec q p s →
      let k := rowPacket 0x21 p
      ∃ t b, exec (.modelCommit q p pick) s = .next t ∧ stagedSlot (modelAt s (pktJob k) (fieldAt k 32 2)) = some b ∧
        statusOf t (takenKey modelCommitSpec q p) = some .ok ∧
        resultOf t (takenKey modelCommitSpec q p) = [BitVec.ofNat 8 (ofBool b)] ∧
        (slotOf (modelAt t (pktJob k) (fieldAt k 32 2)) b).state = .live ∧
        (modelAt t (pktJob k) (fieldAt k 32 2)).epoch = (modelAt s (pktJob k) (fieldAt k 32 2)).epoch + 1) ∧
    (takes modelEvictSpec q p s →
      let k := rowPacket 0x22 p
      let b := byteAt k 34 == 1
      let x := slotOf (modelAt s (pktJob k) (fieldAt k 32 2)) b
      (x.state ≠ .staging →
        ∃ t, exec (.modelEvict q p pick) s = .next t ∧ statusOf t (takenKey modelEvictSpec q p) = some .ok ∧
          (slotOf (modelAt t (pktJob k) (fieldAt k 32 2)) b).state =
            if x.state = .live ∧ x.bound ≠ 0 then .retiring else .empty) ∧
      (x.state = .staging → ∀ g, stagingCmd s (pktJob k) (fieldAt k 32 2) b = some g → g.op = 0x20 → g.part = none →
        ∃ t, exec (.modelEvict q p pick) s = .next t ∧ statusOf t (takenKey modelEvictSpec q p) = some .ok ∧
          statusOf t g.key = some .cancelled))

/-! ### Serving commands -/

/-- REQ_OPEN takes the next request id, and its turn is admitted, deferred or refused; REQ_FEED on an open turn is held, another one
is admitted, deferred or refused; REQ_CLOSE removes the request, REQ_QUERY reports it, and
RESULT_FETCH writes an output to host memory: OK the first time, ALREADY_CONSUMED after that, NOT_READY before it exists. That request ids
count up is the model's choice (log 15). -/
def Obligations.RequestsOpenFeedCloseQueryFetch : Prop :=
  ∀ (q : Nat) (p : Pkt) (pick : Nat) (s : State), memoriesOk s →
    (takes reqOpenSpec q p s → s.srv.reqs.length < 65536 →
      ∃ t, exec (.reqOpen q p pick) s = .next t ∧ t.srv.nextReq = (s.srv.nextReq + 1) % 2 ^ 32 ∧
        let st := statusOf t (takenKey reqOpenSpec q p)
        match reqAt t s.srv.nextReq with
        | some x => x.job = pktJob (rowPacket 0x40 p) ∧
            ((x.state = .prefill ∧ st = some .ok) ∨ (x.state = .deferred ∧ st = none))
        | none => st = some .refusedBudget ∨ st = some .refusedBusy) ∧
    (takes reqFeedSpec q p s →
      let k := rowPacket 0x41 p
      ∀ r, reqAt s (fieldAt k 32 4) = some r →
      (turnOpen r = true →
        ∃ t x h, exec (.reqFeed q p pick) s = .next t ∧ statusOf t (takenKey reqFeedSpec q p) = none ∧
          reqAt t (fieldAt k 32 4) = some x ∧ x.held = some h ∧ (h.queue, h.seq) = takenKey reqFeedSpec q p ∧
          h.input = inputRows s (fieldAt k 40 8) (fieldAt k 48 4) (servOr s r.job r.model).inRow ∧ x.turn = r.turn) ∧
      (turnOpen r = false →
        ∃ t, exec (.reqFeed q p pick) s = .next t ∧
          let st := statusOf t (takenKey reqFeedSpec q p)
          (st = some .refusedBudget ∨ st = some .refusedBusy ∨
            ∃ x, reqAt t (fieldAt k 32 4) = some x ∧
              ((x.state = .prefill ∧ st = some .ok) ∨ (x.state = .deferred ∧ st = none))))) ∧
    (takes reqCloseSpec q p s →
      ∃ t, exec (.reqClose q p pick) s = .next t ∧ reqAt t (fieldAt (rowPacket 0x42 p) 32 4) = none ∧
        (∀ r, reqAt s (fieldAt (rowPacket 0x42 p) 32 4) = some r → r.turn = none →
          statusOf t (takenKey reqCloseSpec q p) = some .ok)) ∧
    (takes reqQuerySpec q p s →
      ∃ t r, exec (.reqQuery q p pick) s = .next t ∧ reqAt s (fieldAt (rowPacket 0x43 p) 32 4) = some r ∧
        statusOf t (takenKey reqQuerySpec q p) = some .ok ∧ resultOf t (takenKey reqQuerySpec q p) = queryResult s r) ∧
    (takes resultFetchSpec q p s →
      let k := rowPacket 0x39 p
      let o := (reqAt s (fieldAt k 32 4)).bind fun r => r.outputs[fieldAt k 36 2]?
      (o = none → ∃ t, exec (.resultFetch q p pick) s = .next t ∧
        statusOf t (takenKey resultFetchSpec q p) = some .notReady) ∧
      (∀ x, o = some x → x.gone = false → passed s x.time retention = false →
        let b := (outputBytes (fieldAt k 36 2) x).take (fieldAt k 48 4)
        hostOk s (fieldAt k 40 8) b.length = true →
        ∃ t, exec (.resultFetch q p pick) s = .next t ∧
          statusOf t (takenKey resultFetchSpec q p) = some (if x.fetched then .alreadyConsumed else .ok) ∧
          readHost t (fieldAt k 40 8) b.length = b))

/-! ### Transfers, cancelling and hints -/

/-- XFER puts its descriptors to work under the next numbers; POWER_HINT is noted with its lead time; CANCEL ends a command that waits
(and no JOB_CLOSE, CANCEL or turn), which completes CANCELLED (R185, R190, R228, R313). -/
def Obligations.TransfersCancelsAndHints : Prop :=
  ∀ (q : Nat) (p : Pkt) (pick : Nat) (s : State),
    (takes xferSpec q p s →
      let k := rowPacket 0x38 p
      (xferKind k < 2 → xferLen k ≠ 0 → ∃ t d, exec (.xfer q p pick) s = .next t ∧ statusOf t (takenKey xferSpec q p) = none ∧
        t.nextDesc = s.nextDesc + 1 ∧ Tbl.get? t.descs s.nextDesc = some d ∧ (d.queue, d.seq) = takenKey xferSpec q p ∧
        d.host = some (xferHost k) ∧ d.len = xferLen k ∧ d.handle = xferHandle k ∧ d.objOff = xferDev k ∧ d.issued = true) ∧
      (xferKind k = 2 → ∃ t d, exec (.xfer q p pick) s = .next t ∧ statusOf t (takenKey xferSpec q p) = none ∧
        t.nextDesc = s.nextDesc + byteAt k 33 ∧ Tbl.get? t.descs s.nextDesc = some d ∧ d.bytes = sliceB k 64 64 ∧
        d.issued = false)) ∧
    (takes powerHintSpec q p s →
      let k := rowPacket 0x50 p
      ∃ t f h, exec (.powerHint q p pick) s = .next t ∧ statusOf t (takenKey powerHintSpec q p) = some .ok ∧
        partOfJob s (pktJob k) = some f ∧ h.heavy = (byteAt k 32 == 0) ∧ h.power = fieldAt k 40 2 ∧
        h.due = s.clk.rackTime + BitVec.ofNat 64 (usUnits (fieldAt k 36 4)) ∧
        (Tbl.get? t.parts f).map (·.hints) = (Tbl.get? s.parts f).map fun x => x.hints ++ [h]) ∧
    (takes cancelSpec q p s →
      let k := rowPacket 0x33 p
      let n := (byteAt k 33, fieldAt k 36 4)
      byteAt k 32 = 0 → ∀ c, cmdAt s n = some c → c.job = pktJob k → c.done = none → c.op ∉ [0x33, 0x09, 0x40, 0x41] →
      (∀ x, c.part.bind (Tbl.get? s.parts) = some x → x.running ≠ some n ∧ x.saving = none) →
      ∃ t, exec (.cancel q p pick) s = .next t ∧ statusOf t n = some .cancelled ∧
        statusOf t (takenKey cancelSpec q p) = some .ok ∧ resultOf t (takenKey cancelSpec q p) = leBytes 4 1)

/-- STEP_CONTINUE completes OK and ends the hold it names (R140). -/
def Obligations.StepContinueReleases : Prop :=
  ∀ (q : Nat) (p : Pkt) (pick : Nat) (s : State), takes stepContinueSpec q p s →
    ∃ t c r h r', heldRun s (rowPacket 0x32 p) = some (c, r, h) ∧ exec (.stepContinue q p pick) s = .next t ∧
      statusOf t (takenKey stepContinueSpec q p) = some .ok ∧ (cmdAt t c.key).bind curRun = some r' ∧ r'.hold = none

/-! ### Firmware, sleep and the compute reset -/

/-- FW_UPDATE programs the region that is not running and leaves PREFERRED; its ACTIVATE makes that region PREFERRED; SLEEP is noted
and begins the Den entry where nothing executes; RESET_COMPUTE leaves no partition, tile state, descriptor or job fault. -/
def Obligations.FirmwareSleepAndReset : Prop :=
  ∀ (q : Nat) (p : Pkt) (s : State), Mem.wf s.boot.flash = true →
    (takes fwUpdateSpec q p s → byteAt p 32 = 0 →
      let k := rowPacket 0x70 p
      ∃ t, exec (.fwUpdate q p 0) s = .next t ∧ statusOf t (takenKey fwUpdateSpec q p) = some .ok ∧
        Mem.read t.boot.flash (fwRegion !s.boot.image) (fieldAt k 48 4) = fwSource s k ∧
        preferredImage t.boot.flash = preferredImage s.boot.flash ∧ t.boot.image = s.boot.image ∧
        Mem.wf t.boot.flash = true) ∧
    (takes fwUpdateSpec q p s → byteAt p 32 = 1 →
      (∀ i, recordInForce s.boot.flash = some i → fieldAt (recordCopy s.boot.flash i) 4 4 + 1 < 2 ^ 32) →
      ∃ t, exec (.fwActivate q p 0) s = .next t ∧ statusOf t (takenKey fwUpdateSpec q p) = some .ok ∧
        preferredImage t.boot.flash = !s.boot.image ∧ t.boot.activating = true ∧ ringsRead t = false ∧
        Mem.wf t.boot.flash = true) ∧
    (takes sleepSpec q p s →
      ∃ t, exec (.sleep q p 0) s = .next t ∧ t.glb.sleep = some (pktSeq (rowPacket 0x78 p)) ∧
        statusOf t (takenKey sleepSpec q p) = none ∧
        (anyExecuting s = false → anyTurn s = false → s.glb.denEntry = false →
          t.glb.denEntry = true ∧ t.glb.sleepAt = s.clk.rackTime ∧ ringsRead t = false)) ∧
    (takes resetComputeSpec q p s → (∀ f, s.dump.fault = some f → f.ready = true) →
      ∃ t, exec (.resetCompute q p 0) s = .next t ∧ t.parts = [] ∧ t.tiles = [] ∧ t.descs = [] ∧ t.tierQueue = [] ∧
        t.dump.fault = none ∧ t.glb.state ≠ .fault)

/-! ### Rings -/

/-- PACKET_ACCEPT with no packet to read changes nothing; else the ring's head moves past the packet. A packet of an opcode that R217
lists does what its own row does there; PUNITS above 7, units that could not be read and an unlisted opcode are refused BAD_PARAM at 8,
BAD_ADDR and BAD_OPCODE, with an entry that carries the new head (R207, R212, R217). -/
def Obligations.PacketAcceptReadsInTurn : Prop :=
  ∀ (pick : Nat) (s : State), memoriesOk s →
    (turnQueue s = none → exec (.packetAccept pick) s = .next s) ∧
    (∀ q k n p read, turnQueue s = some q → Tbl.get? s.queues q = some k → nextPacket s k = some (n, p, read) → k.head < k.size →
      let u := onQueue q (fun k => { k with head := (k.head + n) % k.size }) { s with qdb := { s.qdb with lastRead := q } }
      (read = true → byteAt p 8 ≤ 7 → ∀ e ∈ hostRows q p pick, byteAt p 0 = e.2.op →
        ∃ t, exec (.packetAccept pick) s = .next t ∧ exec e.1 u = .next t) ∧
      (∀ st, (if 7 < byteAt p 8 then some Status.badParam else if read = false then some .badAddr
          else if specOf p = none then some .badOpcode else none) = some st →
        hostOk s (k.cqBase + 32 * k.cqTail) 32 = true →
        ∃ t k', exec (.packetAccept pick) s = .next t ∧
          readHost t (k.cqBase + 32 * k.cqTail) 32 =
            entryBytes (pktSeq p) (statusCode st) ((k.head + n) % k.size) (pktJob p) 0 (ofBool k.cqPhase)
              (if st = .badParam then 8 else 0) (refuseResult (byteAt p 0) { st := st }) ∧
          Tbl.get? t.queues q = some k' ∧ k'.head = (k.head + n) % k.size))

/-- COMMAND_COMPLETE writes the final entry of a decided command at the tail of its completion ring and ends the command; an accepted
JOB_CLOSE ends its job with it, and a SET_FEATURE of HBM_SPLIT sets the split. INTERIM_ENTRY_POST writes the oldest interim entry of
the queue whose command has not reached its outcome. -/
def Obligations.EntriesArePosted : Prop :=
  ∀ (q seq : Nat) (s : State), memoriesOk s →
    (∀ c st k, cmdAt s (q, seq) = some c → c.done = some st → mayFinish s c = true → Tbl.get? s.queues q = some k →
      c.op ≠ 0x09 → (∀ x ∈ s.cmds, x.op = 0x2A → x.done ≠ none) → hostOk s (k.cqBase + 32 * k.cqTail) 32 = true →
      let d := withSlot (withEnergy c)
      ∃ t, exec (.commandComplete q seq) s = .next t ∧ cmdAt t (q, seq) = none ∧
        readHost t (k.cqBase + 32 * k.cqTail) 32 =
          entryBytes seq (statusCode st) k.head c.job 0 (finalFlags d + ofBool k.cqPhase)
            (if st = .badParam then c.errLoc else 0) d.result) ∧
    (∀ c, cmdAt s (q, seq) = some c → c.done = some .ok → mayFinish s c = true → c.op = 0x09 →
      ∃ t, exec (.commandComplete q seq) s = .next t ∧ Tbl.get? t.jobs c.job = none) ∧
    (∀ c, cmdAt s (q, seq) = some c → c.done = some .ok → mayFinish s c = true → c.op = 0x02 → fieldAt c.pkt 32 2 = 1 →
      ∃ t, exec (.commandComplete q seq) s = .next t ∧
        t.split = (byteAt c.pkt 40, byteAt c.pkt 41, byteAt c.pkt 42)) ∧
    (∀ i k, s.interims.find? (fun i => i.queue == q && (cmdAt s (i.queue, i.seq)).any (·.done.isNone)) = some i →
      Tbl.get? s.queues q = some k → cqFree k ≠ 0 →
      hostOk s (k.cqBase + 32 * k.cqTail) 32 = true →
      ∃ t, exec (.interimEntryPost q) s = .next t ∧ t.interims = s.interims.erase i ∧
        readHost t (k.cqBase + 32 * k.cqTail) 32 =
          entryBytes i.seq 0 k.head (((cmdAt s (i.queue, i.seq)).map (·.job)).getD 0) i.type (ofBool k.cqPhase) 0 i.result)

/-- A packet of any host command that fails its checks changes nothing but its completion ring, host memory and the interrupts it
raises: one entry with its status is written at the ring's tail, and what the refusal replies goes to the reply buffer, cut to its
length, with TRUNC where it does not fit (R209, R212-R214). -/
def Obligations.RefusalsHaveNoSideEffect : Prop :=
  ∀ (q : Nat) (p : Pkt) (pick : Nat) (s : State) (k : Queue) (r : Ref), memoriesOk s → ∀ e ∈ hostRows q p pick,
    let y := rowPacket e.2.op p
    let entry := k.cqBase + 32 * k.cqTail
    let addr := fieldAt y 16 8
    let sent := r.reply.take (fieldAt y 24 4)
    let cut := r.reply.length > (if addr = 0 then 0 else fieldAt y 24 4)
    mayRead e.2 q s y = true → Tbl.get? s.queues q = some k → checkPacket e.2 s q y = some r → hostOk s entry 32 = true →
    ∃ t, exec e.1 s = .next t ∧
      t = { s with queues := t.queues, host := t.host, msix := t.msix } ∧
      readHost t entry 32 =
        entryBytes (pktSeq y) (statusCode r.st) k.head (pktJob y) 0 (8 * ofBool cut + ofBool k.cqPhase)
          (if r.st = .badParam then r.loc else 0) (refuseResult e.2.op r) ∧
      (addr ≠ 0 → hostOk s addr sent.length = true → addr + sent.length ≤ entry ∨ entry + 32 ≤ addr →
        readHost t addr sent.length = sent)

/-- A packet that passes its checks was allowed by the table of R218: the device is in a state of its row, and on a submission queue
its job is in one of the job states of its row. -/
def Obligations.TakenPacketsFitTheStateTable : Prop :=
  ∀ (sp : OpSpec) (q : Nat) (p : Pkt) (s : State), takes sp q p s →
    (deviceRow sp.op).contains s.glb.state = true ∧
    (∀ js, jobRow sp.op = some js → q ≠ 64 → js.contains (jobStateOf s (pktJob (rowPacket sp.op p))) = true) ∧
    (cmdAt s (takenKey sp q p) = none) ∧
    (q ≠ 64 → pktJob (rowPacket sp.op p) = ((Tbl.get? s.queues q).map (·.job)).getD 0)

/-! ### What partitions run -/

/-- The head of a partition queue starts: a command whose job has left the partition fails NO_PARTITION, a PARTITION_FREE ends its job's
membership, an IMAGE_BIND of an image that is gone ends OBJECT_GONE and every other one is decided, a command with demand starts
where the demand is met and else raises the load fill to it (R243, R244, R310), a serving step the same (R261).
FILL_REACHES_DEMAND starts it when the fill is there. -/
def Obligations.PartitionCommandsStart : Prop :=
  ∀ (part pick : Nat) (p : Part) (c : Cmd) (s : State),
    Tbl.get? s.parts part = some p → p.first = part → running s = true → p.running = none → p.saving = none →
    startHead s p = some c →
    (outside s p c = true → c.queue ≠ fwQueue → ∃ t, exec (.partitionCommandStart part pick) s = .next t ∧
      statusOf t c.key = some .noPartition) ∧
    (outside s p c = false →
      (c.op = 0x11 → ∃ t, exec (.partitionCommandStart part pick) s = .next t ∧
        statusOf t c.key = some .ok ∧ partOfJob t c.job = none) ∧
      (c.op = 0x19 → ∃ t, exec (.partitionCommandStart part pick) s = .next t ∧ statusOf t c.key ≠ none ∧
        (Tbl.get? s.images (fieldAt c.pkt 32 4) = none → statusOf t c.key = some .objectGone)) ∧
      (hasDemand c.op = true → c.queue ≠ fwQueue → demandMet s p c = true →
        ∃ t, exec (.partitionCommandStart part pick) s = .next t ∧ (cmdAt t c.key).map (·.started) = some true) ∧
      (hasDemand c.op = true → c.queue ≠ fwQueue → fillNow s p ≥ demandOf (fitCap p s) p →
        ∃ t, exec (.fillReachesDemand part pick) s = .next t ∧ (cmdAt t c.key).map (·.started) = some true) ∧
      (c.queue = fwQueue → stepEmpty s c = false → stepWaits s c = false → demandMet s p c = true →
        ∃ t, exec (.partitionCommandStart part pick) s = .next t ∧
          (Tbl.get? t.parts part).map (·.running) = some (some c.key)) ∧
      (hasDemand c.op = true → stepEmpty s c = false → stepWaits s c = false → demandMet s p c = false →
        ∃ t, exec (.partitionCommandStart part pick) s = .next t ∧
          (Tbl.get? t.parts part).map (·.fill.target) = some (demandOf (fitCap p s) p) ∧ t.cmds = s.cmds))

/-- RUN_COMPLETE decides a RUN whose graph is complete, OK or OK_DEGRADED, and frees its partition; CHAIN_STAGE_START moves a chain to
its next stage (R99, R116, R226). -/
def Obligations.RunsAndStagesEnd : Prop :=
  ∀ (part : Nat) (p : Part) (c : Cmd) (s : State), running s = true →
    (∀ r, runningRun s part = some (p, c, r) → r.finished = true → r.inInning = false → c.between = false →
      ((descsOf s c.key).all fun e => e.2.done) = true → c.op = 0x30 →
      ∃ t, exec (.runComplete part) s = .next t ∧ statusOf t c.key = some (if r.cheaper then .okDegraded else .ok) ∧
        resultOf t c.key = runResult r ∧ (Tbl.get? t.parts part).map (·.running) = some none) ∧
    (Tbl.get? s.parts part = some p → p.running.bind (cmdAt s) = some c → c.between = true → c.done = none →
      saveDue s p = false →
      ∃ t, exec (.chainStageStart part) s = .next t ∧ (cmdAt t c.key).map (·.stageAt) = some (c.stageAt + 1))

/-- INNING_START sets every tile of the partition at the first micro-op of the inning's slot and the slot index to 0; INNING_END counts
the inning and goes to LOOPTO where the entry has LOOP = 1 and has run fewer than LOOPCNT times since the loop was entered, else to the
following entry; after the last entry the graph is complete (R99). -/
def Obligations.InningsStartAndEnd : Prop :=
  ∀ (part : Nat) (p : Part) (c : Cmd) (r : RunInfo) (e : Inning) (s : State),
    runningRun s part = some (p, c, r) → running s = true → (imgInnings (imgOf s r.image))[r.entry]? = some e →
    (∀ b, r.inInning = false → r.finished = false → c.between = false → saveDue s p = false →
      bindingOf s c.job r.image = some b →
      let s1 := readSlots p c.job e.slot r.restart (if r.restart then s else fillSlots p c.job b e s)
      running s1 = true → ((cmdAt s1 c.key).any (·.done.isNone)) = true →
      ∃ t, exec (.inningStart part) s = .next t ∧
        ((cmdAt t c.key).bind curRun).map (fun x => (x.inInning, x.entry)) = some (true, r.entry) ∧
        (Tbl.get? t.parts part).map (·.slotIdx) = some 0 ∧
        ∀ i ∈ partNos p, (tileAt t i).pc = 0 ∧ (tileAt t i).ended = false ∧ (tileAt t i).slot = e.slot) ∧
    (r.inInning = true → tilesDone s p = true → descsDone s c r = true → p.huddle = none →
      (bitAt e.flags 2 && !r.huddleDone && huddleDue s c r e) = false →
      let n := if bitAt e.flags 1 then Tbl.getD r.dims (e.loopCnt % 256) 0 else e.loopCnt
      let again := bitAt e.flags 0 = true ∧ r.loops + 1 < n
      let next := if again then e.loopTo else r.entry + 1
      let ran := if bitAt e.flags 0 = false then r.loops else if again then r.loops + 1 else 0
      ∃ t, exec (.inningEnd part) s = .next t ∧
        ((cmdAt t c.key).bind curRun).map (fun x => (x.inInning, x.executed, x.entry, x.loops)) =
          some (false, r.executed + 1, next, ran) ∧
        ((cmdAt t c.key).bind curRun).map (fun x => (x.finished, x.restart)) =
          some (decide ((imgInnings (imgOf s r.image)).length ≤ next), decide (next = r.entry)))

/-! ### Micro-ops of the array -/

/-- LOADW puts the block of the bytes at its effective address into the pending block; a refinement block keeps the active block's
scales, and one over a void unit is skipped. A STREAM of no rows completes at once, and one behind a skipped refinement block reads
nothing. Any other stands in flight behind its block, where rows enter: from the bank or the register file with the pass sums of each
row that enters, in conv-hold with one result for each enabled window, from the fabric with its rows still to come.
STREAM_COMPLETE takes the
oldest STREAM out of flight and commits its rows (R41, R44, R46-R49, R52, R64, R65, R88, R89, R109, R199). -/
def Obligations.ArrayLoadsAndStreams : Prop :=
  ∀ (c r : Nat) (x : Ctx) (w : Nat) (s : State),
    (issueCtx s c r 0x01 = some (x, w) → (tileAt s x.t).pending = none →
      readsPass x [{ bank := !bitAt w 58, lo := effAddr x (tileAt s x.t) (opAdvsel w) (opAddr w),
                     n := ceilDiv (blockLen ((fmtOf (bitsOf w 54 4)).getD .e4m3) (bitAt w 53)) 64, write := false }] [] s →
      let f := (fmtOf (bitsOf w 54 4)).getD .e4m3
      let n := blockLen f (bitAt w 53)
      let lo := effAddr x (tileAt s x.t) (opAdvsel w) (opAddr w)
      let bytes := unitRead x s (!bitAt w 58) lo.toNat 0 n
      let skip := bitAt w 52 && !bitAt w 58 && hitsVoid x (tileAt s x.t) lo.toNat n
      ∃ t, exec (.loadw c r) s = .next t ∧ wentOn x s t ∧ (tileAt t x.t).refineSkipped = skip ∧
        (skip = true → (tileAt t x.t).pending = none) ∧
        (skip = false → ∃ b, (tileAt t x.t).pending = some b ∧ b.fmt = f ∧ b.sparse = bitAt w 53 ∧
          let e := elemBytes (modeBits f)
          let i := indexBytes (modeBits f) (bitAt w 53)
          b.elems = bytes.take e ∧ b.index = (bytes.drop e).take i ∧
          (f ≠ .refine → b.scales = (bytes.drop (e + i)).take (scaleBytes f (bitAt w 53))) ∧
          (f = .refine → (tileAt s x.t).active.scales <+: b.scales))) ∧
    (issueCtx s c r 0x02 = some (x, w) →
      let o := streamOps x (tileAt s x.t) w
      (o.n = 0 → memoriesOk s → ∃ t, exec (.stream c r) s = .next t ∧ wentOn x s t ∧ opInTile x s t ∧
        (tileAt t x.t).streams = (tileAt s x.t).streams) ∧
      (o.n ≠ 0 → (tileAt s x.t).refineSkipped = true → ∃ t, exec (.stream c r) s = .next t ∧ wentOn x s t ∧
        (tileAt t x.t).refineSkipped = false ∧ (tileAt t x.t).streams = (tileAt s x.t).streams) ∧
      (o.n ≠ 0 → ((o.src = 2 ∧ profConv o.prof = false) ∨ modeAdmits (modeBits o.block.fmt) o.a = true) →
        (tileAt s x.t).refineSkipped = false → (tileAt s x.t).streams = [] → (tileAt s x.t).inprog = [] →
        readsOf x (streamAccess x o) (streamReads x s o)
          (if !o.vacc && (o.dst = 0 || o.dst = 3) then (streamRows x s o).map (o.accRow + ·) else []) s →
        let rows := streamRows x s o
        let held := (convStart (tileAt s x.t) o).elems.length
        let inFlight := fun (j : StreamJob) => j.dst = o.dst ∧ j.vacc = o.vacc ∧ j.accRow = o.accRow ∧ j.rows = o.n ∧
          j.block = o.block ∧ j.prof = o.prof
        ∃ t, exec (.stream c r) s = .next t ∧ wentOn x s t ∧
          (o.src ≠ 2 → profConv o.prof = false →
            (rows = [] → (tileAt t x.t).streams = []) ∧
            (rows ≠ [] → (tileAt t x.t).active = o.block ∧ (tileAt t x.t).pending = none ∧
              ∃ j, (tileAt t x.t).streams = [j] ∧ inFlight j ∧ j.words = 0 ∧ (o.dst < 2 → j.left = 0) ∧
                (o.dst ≠ 2 → j.res = rows.map fun i =>
                  let z := sourceRow x s (decide (o.src = 0)) o.lo.toNat o.prof o.a o.elems i
                  { i := i, sums := passSums o.block o.a (profEighth o.prof) (kMaskOf x (tileAt s x.t)) (elemsOf o.a o.elems z.1)
                      z.2.1 }))) ∧
          (o.src ≠ 2 → profConv o.prof = true → ∃ j, (tileAt t x.t).streams = [j] ∧ inFlight j ∧ j.words = 0 ∧
            (o.dst ≠ 2 → j.res.map (·.i) = rows)) ∧
          (o.src = 2 → (∀ cid, cid < 16 → blkEndpoint x.blk cid = 2 → endWords (tileAt s x.t) cid = []) →
            (profConv o.prof = false →
              (rows = [] → (tileAt t x.t).streams = []) ∧
              (rows ≠ [] → ∃ j, (tileAt t x.t).streams = [j] ∧ inFlight j ∧ j.todo = rows.map (·, true) ∧
                j.words = rows.length * fabricWords o.block ∧ j.res = [] ∧ j.left = 0)) ∧
            (profConv o.prof = true → ∃ j, (tileAt t x.t).streams = [j] ∧ inFlight j ∧ j.words = convReads o held)))) ∧
    (∀ j rest, ctxAt s c r = some x → (tileAt s x.t).streams = j :: rest → j.words = 0 → j.left = 0 →
      ∃ t, exec (.streamComplete c r) s = .next t ∧ (tileAt t x.t).streams = rest ∧
        ∀ e, j.res = [e] → j.dst ≠ 2 → j.vacc = false → Mem.wf (tileAt s x.t).acc = true →
          accRowAt x t false (j.accRow + e.i) = addRow j (accRowAt x s false (j.accRow + e.i)) e.sums)

/-- ACCRD to the vector queue appends one vector per row; ACCWR from zero writes rows of zeros (R90). -/
def Obligations.AccumulatorReadsAndWrites : Prop :=
  ∀ (c r : Nat) (x : Ctx) (w : Nat) (s : State),
    (issueCtx s c r 0x03 = some (x, w) → bitsOf w 57 2 = 3 → bitAt w 51 = false → bitAt w 52 = false → accCount x w ≠ 0 →
      let n := accCount x w
      accFree (tileAt s x.t) (accTiles false (bitsOf w 41 10) n) = true →
      readsPass x [] ((List.range n).map (bitsOf w 41 10 + ·)) s →
      ∃ t, exec (.accrd c r) s = .next t ∧ wentOn x s t ∧
        (tileAt t x.t).vqueue.length = (tileAt s x.t).vqueue.length + n) ∧
    (issueCtx s c r 0x04 = some (x, w) → bitsOf w 57 2 = 3 → bitAt w 51 = false → Mem.wf (tileAt s x.t).acc = true →
      let n := accCount x w
      accFree (tileAt s x.t) (accTiles false (bitsOf w 41 10) n) = true → readsPass x [] [] s →
      ∃ t, exec (.accwr c r) s = .next t ∧ wentOn x s t ∧
        ∀ i, i < n → accRowAt x t false (bitsOf w 41 10 + i) = List.replicate 64 0)

/-! ### Micro-ops of the vector ALU, SEND and RECV -/

/-- VOP 0x30 copies bank vectors into the register file and FP32 addition adds lane by lane; SCAN of one step leaves its h in the
carry; SEND to the tile's own bank copies; RECV takes the words that wait at its endpoint into the register file, one unit each, and
stands in progress for the others (R69, R91-R93). -/
def Obligations.VectorAndWordMoves : Prop :=
  ∀ (c r : Nat) (x : Ctx) (w : Nat) (s : State), memoriesOk s → Mem.wf (tileAt s x.t).rf = true →
    (issueCtx s c r 0x05 = some (x, w) → vectorBusy (tileAt s x.t) = false → readsPass x (vopAccess w) [] s →
      let n := vopCount (bitsOf w 41 8)
      (bitsOf w 53 6 = 0x30 → ∃ t, exec (.vop c r) s = .next t ∧ wentOn x s t ∧
        unitRead x t false (bitsOf w 31 10) 0 (128 * n) = unitRead x s true (bitsOf w 13 18) 0 (128 * n)) ∧
      (bitsOf w 53 6 = 0x00 → bitsOf w 49 4 = 0 → bitAt w 0 = false → n = 1 → ∃ t, exec (.vop c r) s = .next t ∧
        wentOn x s t ∧ words32 (vecAtUnit x t (bitsOf w 31 10)) = (List.range 32).map fun i =>
          fpLane 0x00 ((words32 (vecAtUnit x s (bitsOf w 1 10))).getD i 0) ((words32 (vecAtUnit x s (bitsOf w 11 10))).getD i 0) 0)) ∧
    (issueCtx s c r 0x06 = some (x, w) → vectorBusy (tileAt s x.t) = false → vopCount (bitsOf w 47 8) = 1 → bitsOf w 55 4 = 0 →
      readsPass x
        [{ bank := false, lo := bitsOf w 37 10, n := 2, write := false }, { bank := false, lo := bitsOf w 27 10, n := 2, write := false },
         { bank := false, lo := bitsOf w 17 10, n := 2, write := false }, { bank := false, lo := bitsOf w 7 10, n := 2, write := true },
         { bank := false, lo := bitsOf w 37 10, n := 2, write := true }] [] s →
      ∃ t, exec (.scan c r) s = .next t ∧ wentOn x s t ∧
        words32 (vecAtUnit x t (bitsOf w 37 10)) = (List.range 32).map fun i =>
          fma32 0x03 ((words32 (vecAtUnit x s (bitsOf w 27 10))).getD i 0) ((words32 (vecAtUnit x s (bitsOf w 37 10))).getD i 0)
            ((words32 (vecAtUnit x s (bitsOf w 17 10))).getD i 0)) ∧
    (issueCtx s c r 0x07 = some (x, w) → bitAt w 54 = false → bitAt w 53 = true →
      let n := bitsOf w 36 16
      let from_ := effAddr x (tileAt s x.t) (bitsOf w 34 2) (bitsOf w 18 10)
      let dest := effAddr x (tileAt s x.t) (bitsOf w 34 2) (opAddr w)
      readsPass x [{ bank := false, lo := from_, n, write := false }, { bank := true, lo := dest, n, write := true }] [] s →
      ∃ t, exec (.send c r) s = .next t ∧ wentOn x s t ∧
        unitRead x t true dest.toNat 0 (64 * n) = unitRead x s false from_.toNat 0 (64 * n)) ∧
    (issueCtx s c r 0x08 = some (x, w) →
      ((tileAt s x.t).inprog.any fun j => j.kind == .recv && j.cid == bitsOf w 55 4) = false →
      readsPass x [{ bank := false, lo := effAddr x (tileAt s x.t) (bitsOf w 34 2) (bitsOf w 18 10), n := bitsOf w 36 16,
                     write := true }] [] s →
      let n := bitsOf w 36 16
      let cid := bitsOf w 55 4
      let lo := effAddr x (tileAt s x.t) (bitsOf w 34 2) (bitsOf w 18 10)
      let ws := endWords (tileAt s x.t) cid
      ∃ t, exec (.recv c r) s = .next t ∧ wentOn x s t ∧
        ((tileAt s x.t).streams = [] → n ≠ 0 → ws = [] →
          ∃ j ∈ (tileAt t x.t).inprog, j.kind = .recv ∧ j.cid = cid ∧ j.left = n ∧ j.addr = lo.toNat) ∧
        ((tileAt s x.t).streams = [] → (tileAt s x.t).inprog = [] → n ≠ 0 → ws.length ≤ n →
          (∀ i y, ws[i]? = some y → unitRead x t false (lo.toNat + i) 0 64 = lineBytes y.data) ∧
          (ws.length < n → ∃ j ∈ (tileAt t x.t).inprog, j.kind = .recv ∧ j.cid = cid ∧ j.left = n - ws.length) ∧
          (ws.length = n → ∀ j ∈ (tileAt t x.t).inprog, j.kind ≠ .recv)))

/-! ### Micro-ops of the sequencer -/

/-- STEER arms its unit, WAITPH holds the sequencer until its condition is met (loads, barrier, cycles, or no GATE held), END closes a
loop of either level or starts the final drain, PHASE changes the phase at once outside COMPUTE and drains first inside it (R94-R97). -/
def Obligations.SequencerMicroOps : Prop :=
  ∀ (c r : Nat) (x : Ctx) (w : Nat) (s : State), memoriesOk s →
    (issueCtx s c r 0x09 = some (x, w) → ((tileAt s x.t).steer.getD (bitsOf w 58 1) SteerU.reset).armed = 0 →
      ∃ t, exec (.steer c r) s = .next t ∧ opInTile x s t ∧ wentOn x s t ∧
        (tileAt t x.t).steer = modAt (tileAt s x.t).steer (bitsOf w 58 1) fun q =>
          { q with armed := dynCount x.run.dims (bitAt w 57) (bitsOf w 41 16) }) ∧
    (issueCtx s c r 0x0B = some (x, w) →
      ∃ t, exec (.waitph c r) s = .next t ∧ opInTile x s t ∧ (tileAt t x.t).pc = (tileAt s x.t).pc ∧
        (tileAt t x.t).wait = .waitph (bitsOf w 56 3) (bitsOf w 48 8) (bitsOf w 40 8) (bitsOf w 0 40) s.clk.ticks) ∧
    (∀ bid g v n, ctxAt s c r = some x → (tileAt s x.t).wait = .waitph 0 bid g v n → v ≤ (tileAt s x.t).loads →
      ∃ t, exec (.waitphRelease c r) s = .next t ∧ onlyTile x.t s t ∧ wentOn x s t ∧ (tileAt t x.t).wait = .none) ∧
    (∀ bid g v n, ctxAt s c r = some x → (tileAt s x.t).wait = .waitph 2 bid g v n → v ≤ (tileAt s x.t).cycles →
      ∃ t, exec (.waitphRelease c r) s = .next t ∧ onlyTile x.t s t ∧ wentOn x s t ∧ (tileAt t x.t).wait = .none) ∧
    (∀ bid g v n, ctxAt s c r = some x → (tileAt s x.t).wait = .waitph 3 bid g v n → anyHeldGate s x.part = false →
      ∃ t, exec (.waitphRelease c r) s = .next t ∧ onlyTile x.t s t ∧ wentOn x s t ∧ (tileAt t x.t).wait = .none) ∧
    (∀ bid g v n, ctxAt s c r = some x → (tileAt s x.t).wait = .waitph 1 bid g v n →
      ((maskTiles s x.part g).all fun i => atBarrier bid (tileAt s i)) = true →
      ∃ t, exec (.waitphRelease c r) s = .next t ∧ ∀ i ∈ maskTiles s x.part g, (tileAt t i).wait = .none) ∧
    (issueCtx s c r 0x00 = some (x, w) → isLoop w = true → loopLvl w = 0 →
      let n := dynCount x.run.dims (bitAt w 48) (bitsOf w 32 16)
      ∃ t, exec (.endLoop c r) s = .next t ∧ opInTile x s t ∧
        ((tileAt t x.t).i0, (tileAt t x.t).pc) =
          if (tileAt s x.t).i0 + 1 < n then ((tileAt s x.t).i0 + 1, loopTo w) else (0, (tileAt s x.t).pc + 1)) ∧
    (issueCtx s c r 0x00 = some (x, w) → isLoop w = true → loopLvl w ≠ 0 →
      let n := dynCount x.run.dims (bitAt w 48) (bitsOf w 32 16)
      ∃ t, exec (.endLoop c r) s = .next t ∧ opInTile x s t ∧
        ((tileAt t x.t).i1, (tileAt t x.t).pc) =
          if (tileAt s x.t).i1 + 1 < n then ((tileAt s x.t).i1 + 1, loopTo w) else (0, (tileAt s x.t).pc + 1)) ∧
    (issueCtx s c r 0x00 = some (x, w) → isLoop w = false → opsEnded (tileAt s x.t) = true →
      ∃ t, exec (.endFinal c r) s = .next t ∧ opInTile x s t ∧ (tileAt t x.t).wait = .final ∧
        (tileAt t x.t).phase = .drain) ∧
    (issueCtx s c r 0x0C = some (x, w) →
      let dest := phaseOf (bitsOf w 57 2)
      (dest = (tileAt s x.t).phase → ∃ t, exec (.phase c r) s = .next t ∧ opInTile x s t ∧ wentOn x s t) ∧
      (dest ≠ (tileAt s x.t).phase → (tileAt s x.t).phase = .compute → opsEnded (tileAt s x.t) = true →
        ∃ t, exec (.phase c r) s = .next t ∧ opInTile x s t ∧ (tileAt t x.t).phase = .drain ∧
          (tileAt t x.t).wait = .drain dest) ∧
      (dest ≠ (tileAt s x.t).phase → (tileAt s x.t).phase ≠ .compute → dest = .drain →
        ∃ t, exec (.phase c r) s = .next t ∧ opInTile x s t ∧ wentOn x s t ∧ (tileAt t x.t).phase = .drain) ∧
      ((tileAt s x.t).phase ≠ .compute → dest = .compute → (tileAt s x.t).streams.all (·.words == 0) = true →
        ∃ t, exec (.phase c r) s = .next t ∧ wentOn x s t ∧ (tileAt t x.t).phase = .compute) ∧
      ((tileAt s x.t).phase = .drain → dest = .load →
        ∃ t, exec (.phase c r) s = .next t ∧ wentOn x s t ∧ (tileAt t x.t).phase = .load))

/-- DRAIN_COMPLETE ends the drain: the tile's part of the inning has ended after the final END, the new phase is in force after PHASE,
and every steering unit is disarmed (R34, R96, R97). -/
def Obligations.DrainsComplete : Prop :=
  ∀ (c r : Nat) (x : Ctx) (s : State), memoriesOk s → ctxAt s c r = some x → (tileAt s x.t).streams = [] →
    (tileAt s x.t).outbox = [] → fullUnits (tileAt s x.t) = [] →
    ((tileAt s x.t).wait = .final → ∃ t, exec (.drainComplete c r) s = .next t ∧ onlyTile x.t s t ∧
      (tileAt t x.t).ended = true ∧ (tileAt t x.t).wait = .none ∧ (tileAt t x.t).steer.all (·.armed == 0) = true) ∧
    ((tileAt s x.t).wait = .drain .compute → ∃ t, exec (.drainComplete c r) s = .next t ∧ onlyTile x.t s t ∧
      (tileAt t x.t).phase = .compute ∧ wentOn x s t ∧ (tileAt t x.t).steer.all (·.armed == 0) = true) ∧
    (∀ dest, dest = .load ∨ dest = .drain → (tileAt s x.t).wait = .drain dest → ∃ t, exec (.drainComplete c r) s = .next t ∧
      (tileAt t x.t).phase = dest ∧ wentOn x s t ∧ (tileAt t x.t).wait = .none ∧
      (tileAt t x.t).steer.all (·.armed == 0) = true)

/-- GATE issues, where its unit has none in progress, its block is as it must be, and its accesses may act. In Stepped mode it stands
held with the count of each expert, the number of rows whose choices name it, in its counter table. In Scheduled mode its
counters, its records and the
tokens and data words at its unit's FIFOs are what its rows make of them; it stands in progress with what the FIFOs do not hold yet, or has
completed (R94, R125-R134, R138). -/
def Obligations.GateIssues : Prop :=
  ∀ (c r : Nat) (x : Ctx) (w : Nat) (s : State), memoriesOk s → issueCtx s c r 0x0A = some (x, w) →
    let y := tileAt s x.t
    let p := gateSetup x s w
    let i0 := gateI0 x y
    let u := gateUnit w
    Mem.wf y.rf = true → (y.inprog.any fun j => j.kind == .gate && j.cid == u) = false →
    (gateChecked x s w = true ∨ (gateBlockOk x.blk (isDim p.img) x.bind.dataUnits w p.g p.n (p.t0 + p.n) = true ∧
      Tbl.getD x.run.dims p.g.capDim 0 = p.c)) →
    (p.stepped = false ∨ i0 = 0) → readsPass x (gateAccess p) [] s →
    ∃ t, exec (.gate c r) s = .next t ∧ wentOn x s t ∧
      (p.stepped = true → p.g.report = true → Tbl.get? s.parts x.part.first = some x.part →
        let named := fun e => ((List.range p.n).filter fun i => (rowChoices x s p i).2.1.any (·.2 == e)).length
        (Tbl.get? t.parts x.part.first).map (·.held) = some true ∧
        (∃ j ∈ (tileAt t x.t).inprog, j.kind = .gate ∧ j.cid = u) ∧
        (∃ h, (tileAt t x.t).gateHold = y.gateHold ++ [h] ∧ h.word = BitVec.ofNat 64 w ∧ h.gateId = p.g.gateId ∧
          h.lane = p.g.lane ∧ h.tokens = p.n ∧ h.counts = (List.range p.g.e).map named) ∧
        ∀ e, e < p.g.e → cntEntry x t p.g e = (named e % 65536, 0)) ∧
      (p.stepped = false → y.streams = [] → y.inprog = [] → y.gateRun = [] → (p.g.dfeed = true → s.mctl.errs = []) →
        gateKmin w ≤ gateKmax w →
        let z := gateStart x s p (decide (i0 = 0))
        let a := gateAccs x s p z.1 z.2
        ∀ q, y.steer[u]? = some q → a.1.past = false →
          let toks := (gateTokens p a.1).map (BitVec.ofNat 32 ·)
          let words := if p.g.dfeed then dfeedWords x s p a.2 else []
          let nc := 8 - q.ctl.length
          let nd := 8 - q.data.length
          (∀ e, e < p.g.e → cntEntry x t p.g e = (Tbl.getD a.1.cnt e 0 % 65536, Tbl.getD a.1.drops e 0 % 65536)) ∧
          (gateRec w = true → ∀ i b, a.1.recs[i]? = some b →
            unitRead x t true (p.g.recBase + i * recUnits w) 0 (16 + 16 * gateKmax w) = b.take (16 + 16 * gateKmax w)) ∧
          ((tileAt t x.t).steer[u]?).map (fun q => (q.ctl, q.data)) = some (q.ctl ++ toks.take nc, q.data ++ words.take nd) ∧
          (toks.drop nc = [] → words.drop nd = [] → (tileAt t x.t).gateRun = [] ∧ (tileAt t x.t).inprog = []) ∧
          (toks.drop nc ≠ [] ∨ words.drop nd ≠ [] →
            (tileAt t x.t).gateRun = [{ unit := u, toks := toks.drop nc, words := words.drop nd }] ∧
            ∃ j, (tileAt t x.t).inprog = [j] ∧ j.kind = .gate ∧ j.cid = u))

/-! ### Registers -/

/-- A doorbell of a ring that exists takes a value inside its rules and reads back as written; any other value changes no ring and sets
the doorbell's error bit. In BOOT the QDB doorbells are kept without an error bit, in DEN they wake the part, and so, in the model's
reading, does EVQ_HEAD (log 32) (R207, R208, R344, R351). -/
def Obligations.DoorbellsTakeEffectOrSetTheirBit : Prop :=
  ∀ (n : Nat) (v : W32) (s : State), n < 64 →
    let x := v.toNat % 65536
    let released := fun (size head tail : Nat) => x < size ∧ (x + size - head) % size ≤ (tail + size - head) % size
    (regsOpen s = true →
      (∀ k, Tbl.get? s.queues n = some k → x < k.size → ∃ t, exec (.qdbSqTail n v) s = .next t ∧ doorbell t n = x ∧
        Tbl.get? t.queues n = some { k with tail := x }) ∧
      ((∀ k, Tbl.get? s.queues n = some k → k.size ≤ x) → ∃ t, exec (.qdbSqTail n v) s = .next t ∧ t.queues = s.queues ∧
        t.qdb = { s.qdb with errSq := s.qdb.errSq ||| BitVec.ofNat 64 (2 ^ n) }) ∧
      (∀ k, s.qdb.aqEn = true → Tbl.get? s.queues 64 = some k → x < k.size → ∃ t, exec (.qdbAqTail v) s = .next t ∧
        doorbell t 128 = x ∧ Tbl.get? t.queues 64 = some { k with tail := x }) ∧
      ((∀ k, s.qdb.aqEn = true → Tbl.get? s.queues 64 = some k → k.size ≤ x) → ∃ t, exec (.qdbAqTail v) s = .next t ∧
        t.queues = s.queues ∧ t.qdb = { s.qdb with errAq := true }) ∧
      (∀ k, Tbl.get? s.queues n = some k → released k.cqSize k.cqHead k.cqTail → ∃ t, exec (.qdbCqHead n v) s = .next t ∧
        doorbell t (64 + n) = x ∧ Tbl.get? t.queues n = some { k with cqHead := x }) ∧
      ((∀ k, Tbl.get? s.queues n = some k → ¬ released k.cqSize k.cqHead k.cqTail) → ∃ t, exec (.qdbCqHead n v) s = .next t ∧
        t.queues = s.queues ∧ t.qdb = { s.qdb with errCq := s.qdb.errCq ||| BitVec.ofNat 64 (2 ^ n) }) ∧
      (∀ k, s.qdb.aqEn = true → Tbl.get? s.queues 64 = some k → released k.cqSize k.cqHead k.cqTail →
        ∃ t, exec (.qdbAcqHead v) s = .next t ∧ doorbell t 129 = x ∧ Tbl.get? t.queues 64 = some { k with cqHead := x }) ∧
      ((∀ k, s.qdb.aqEn = true → Tbl.get? s.queues 64 = some k → ¬ released k.cqSize k.cqHead k.cqTail) →
        ∃ t, exec (.qdbAcqHead v) s = .next t ∧ t.queues = s.queues ∧ t.qdb = { s.qdb with errAcq := true })) ∧
    (regsOpen s = true →
      let y := v.toNat % 2 ^ 20
      let m := 2 ^ s.evq.size.toNat
      let ok := s.evq.en = true ∧ y < m ∧ (y + m - s.evq.head) % m ≤ (s.evq.tail + m - s.evq.head) % m
      (ok → ∃ t, exec (.evqHead v) s = .next t ∧ t.evq = { s.evq with head := y } ∧ t.qdb = s.qdb) ∧
      (¬ ok → ∃ t, exec (.evqHead v) s = .next t ∧ t.evq = s.evq ∧ t.qdb = { s.qdb with errEvq := true })) ∧
    (s.glb.state = .boot → s.att.cfgUp = true → ∃ t, exec (.qdbSqTail n v) s = .next t ∧ t.queues = s.queues ∧
      t.qdb = { s.qdb with doorbells := t.qdb.doorbells } ∧ doorbell t n = x) ∧
    (s.glb.state = .den → (∃ t, exec (.qdbSqTail n v) s = .next t ∧ t.glb.wake = true) ∧
      (∃ t, exec (.evqHead v) s = .next t ∧ t.glb.wake = true))

/-- R350. Enabling: head 0, phase 1, both doorbells 0; with a size outside 6-12, EN stays 0 and CFGERR is set. Disabling: no packet of
the AQ is read any more, accepted commands complete, ACTIVE clears after the last of them, and then, and not before, the bases and both
sizes can be written. -/
def Obligations.AdminRingEnable : Prop :=
  ∀ (v : W32) (s : State), regsOpen s = true →
    let legal := 6 ≤ s.qdb.aqSize.toNat ∧ s.qdb.aqSize.toNat ≤ 12 ∧ 6 ≤ s.qdb.acqSize.toNat ∧ s.qdb.acqSize.toNat ≤ 12
    (v.getLsbD 0 = true → s.qdb.aqEn = false →
      (legal → ∃ t k, exec (.qdbAqEnable v) s = .next t ∧ t.qdb.aqEn = true ∧ t.qdb.aqActive = true ∧
        Tbl.get? t.queues 64 = some k ∧ k.head = 0 ∧ k.cqPhase = true ∧ k.tail = 0 ∧ k.cqHead = 0 ∧
        k.size = 2 ^ s.qdb.aqSize.toNat ∧ k.cqSize = 2 ^ s.qdb.acqSize.toNat ∧ k.base = s.qdb.aqBase.toNat ∧
        k.cqBase = s.qdb.acqBase.toNat ∧ doorbell t 128 = 0 ∧ doorbell t 129 = 0) ∧
      (¬ legal → ∃ t, exec (.qdbAqEnable v) s = .next t ∧ t.qdb = s.qdb ∧ t.queues = s.queues ∧ t.glb.errCfg = true)) ∧
    (v.getLsbD 0 = false → ∃ t, exec (.qdbAqEnable v) s = .next t ∧ t.qdb.aqEn = false ∧ t.queues = s.queues ∧ t.cmds = s.cmds ∧
      t.qdb.aqActive = (s.qdb.aqActive && s.cmds.any fun c => c.queue == 64)) ∧
    (s.qdb.aqEn = false → turnQueue s ≠ some 64) ∧
    (∀ c seq, s.qdb.aqEn = false → cmdAt s (64, seq) = some c → c.done.isSome = true → mayFinish s c = true →
      ∃ t, exec (.commandComplete 64 seq) s = .next t ∧
        t.qdb.aqActive = (s.qdb.aqActive && s.cmds.any fun x => x.queue == 64 && x.seq != seq)) ∧
    (s.qdb.aqActive = false →
      (∃ t, exec (.registerWrite 0x10008 v 0xF) s = .next t ∧ t.qdb.aqSize = v.setWidth 5) ∧
      (∃ t, exec (.registerWrite 0x10018 v 0xF) s = .next t ∧ t.qdb.acqSize = v.setWidth 5) ∧
      ∀ e ∈ [(0x10000, fun (t : State) => t.qdb.aqBase), (0x10010, fun (t : State) => t.qdb.acqBase)], ∀ hi : W32,
        ∃ t u, exec (.loWordStage e.1 v) s = .next t ∧ exec (.registerWrite (e.1 + 4) hi 0xF) t = .next u ∧
          e.2 u = BitVec.ofNat 64 ((hi.toNat * 2 ^ 32 + v.toNat) / 4096 * 4096)) ∧
    (s.qdb.aqActive = true → ∀ off ∈ [0x10004, 0x10008, 0x10014, 0x10018],
      ∃ t, exec (.registerWrite off v 0xF) s = .next t ∧ t.qdb = s.qdb)

/-- EVQ_ENABLE starts the ring empty, or sets CFGERR; a _LO word is staged and takes effect with its _HI word, and a _HI word with
nothing staged keeps the low half; a partial write does nothing but set GLB_ERR.PARTIAL (R343, R347, R352). -/
def Obligations.EventQueueAndWideWords : Prop :=
  ∀ (v w : W32) (be : BitVec 4) (off : Nat) (s : State), regsOpen s = true →
    let bases : List (Nat × (State → W64)) := [(0x10000, (·.qdb.aqBase)), (0x10010, (·.qdb.acqBase)), (0x20000, (·.evq.base))]
    (v.getLsbD 0 = true → s.evq.en = false →
      (12 ≤ s.evq.size.toNat → s.evq.size.toNat ≤ 20 → ∃ t, exec (.evqEnable v) s = .next t ∧ t.evq.en = true ∧ t.evq.head = 0 ∧
        (s.evq.reserve = [] → s.evq.bootHeld = [] → s.evq.overflow = false → t.evq.tail = 0 ∧ t.evq.phase = true)) ∧
      (s.evq.size.toNat < 12 ∨ 20 < s.evq.size.toNat → ∃ t, exec (.evqEnable v) s = .next t ∧ t.evq = s.evq ∧
        t.glb.errCfg = true)) ∧
    (v.getLsbD 0 = false → ∃ t, exec (.evqEnable v) s = .next t ∧ t.evq = { s.evq with en := false }) ∧
    (s.qdb.aqActive = false → s.evq.en = false → ∀ e ∈ bases,
      (∃ t u, exec (.loWordStage e.1 v) s = .next t ∧ e.2 t = e.2 s ∧ exec (.registerWrite (e.1 + 4) w 0xF) t = .next u ∧
        e.2 u = BitVec.ofNat 64 ((w.toNat * 2 ^ 32 + v.toNat) / 4096 * 4096)) ∧
      (Tbl.get? s.qdb.loStage (loKey e.1) = none → ∃ u, exec (.registerWrite (e.1 + 4) w 0xF) s = .next u ∧
        e.2 u = BitVec.ofNat 64 ((w.toNat * 2 ^ 32 + (e.2 s).toNat % 2 ^ 32) / 4096 * 4096))) ∧
    (s.qdb.aqActive = true → ∃ t, exec (.loWordStage 0x10000 v) s = .next t ∧ t.qdb = s.qdb ∧ t.glb.errLocked = true) ∧
    (be ≠ 0xF → off < 2 ^ 25 → memoriesOk s → exec (.registerWrite off v be) s = .next { s with glb := { s.glb with errPartial := true } })

/-- What the writable control registers read after a write: FAB_WDOG_CTL, NRG_SNAP, MEM_ECC_CTL, RAS_SPARE_MAP, and HDMBASE and BAR2TGT in
units of 1 GiB; PWR_VR_OVERRIDE and THM_TRIP (clamped to 60-125) are posted, and read so from the next SCLK edge on
(R6, R345, R354, R355, R357, R358, R360, R362, R369). -/
def Obligations.ControlRegistersReadBack : Prop :=
  ∀ (v : W32) (z : W64) (n : Nat) (s : State), regsOpen s = true →
    let clamp := fun (x : Nat) => max 60 (min 125 x)
    let ctl := fun (t : State) => t.mctl.ctl &&& ~~~0x20000 = v &&& 0x00FC0307 ∧
      t.mctl.ctl.getLsbD 17 = ((v.getLsbD 17 && decide (1 ≤ bitsOf v.toNat 20 4) && decide (bitsOf v.toNat 20 4 ≤ 3))
        || s.mctl.ctl.getLsbD 17)
    (∃ t, exec (.fabWdogCtl v) s = .next t ∧ readReg t 0x80000 = v.toNat % 32) ∧
    (v.getLsbD 0 = true → ∃ t, exec (.nrgSnap v) s = .next t ∧ readReg t 0x50028 = 1) ∧
    (v.getLsbD 0 = true → s.nrg.snap = true → memoriesOk s → exec (.nrgSnap v) s = .next s) ∧
    (∃ t, exec (.pwrVrOverride v) s = .next t ∧ readReg t 0x30040 = readReg s 0x30040 ∧
      readReg (slowEdge t) 0x30040 = if v.toNat % 256 < 176 then bitsOf v.toNat 10 6 * 1024 + v.toNat % 256
        else readReg (slowEdge s) 0x30040) ∧
    (∃ t, exec (.thmTrip v) s = .next t ∧ readReg t 0x30044 = readReg s 0x30044 ∧ readReg (slowEdge t) 0x30044 =
      clamp (bitsOf v.toNat 16 8) * 65536 + clamp (bitsOf v.toNat 8 8) * 256 + clamp (bitsOf v.toNat 0 8)) ∧
    (∃ t, exec (.eccInjectArm v) s = .next t ∧ ctl t) ∧ (∃ t, exec (.eccCheckDisable v) s = .next t ∧ ctl t) ∧
    (∃ t, exec (.eccWritebackDisable v) s = .next t ∧ ctl t) ∧
    (∀ m, n < 8 → s.ras.maps[n]? = some m →
      (m.withdrawn = false → bitsOf v.toNat 9 4 ≤ 12 → bitsOf v.toNat 4 5 ≤ 16 → ∃ t, exec (.rasSpareMap n v) s = .next t ∧
        readReg t (0x180000 + 4 * n) = bitsOf v.toNat 9 4 * 512 + bitsOf v.toNat 4 5 * 16) ∧
      (m.withdrawn = true ∨ 12 < bitsOf v.toNat 9 4 ∨ 16 < bitsOf v.toNat 4 5 →
        ∃ t, exec (.rasSpareMap n v) s = .next t ∧ t.ras.maps[n]? = some m)) ∧
    (s.att.cfgUp = true → s.att.committed = false → ∃ t, exec (.hdmbase z) s = .next t ∧ t.att.hdmBase.toNat = z.toNat / 2 ^ 30) ∧
    (s.att.cfgUp = true → s.att.committed = true → memoriesOk s → exec (.hdmbase z) s = .next s) ∧
    (s.att.cfgUp = true → ∃ t, exec (.bar2tgt z) s = .next t ∧ t.att.bar2tgt.toNat = z.toNat / 2 ^ 30)

/-- R363. DBG_CTL.UARTLOG is 0 after reset and reads back what is written; DBG_LOCK reads the fuse, and writes do not change it. -/
def Obligations.DebugRegisters : Prop :=
  State.reset.att.uartLog = false ∧
  ∀ (v : W32) (s : State), regsOpen s = true → memoriesOk s →
    readReg s 0x1C0004 = ofBool s.boot.jtagLock ∧ exec (.registerWrite 0x1C0004 v 0xF) s = .next s ∧
    ∃ t, exec (.dbgCtl v) s = .next t ∧ exec (.registerWrite 0x1C0000 v 0xF) s = .next t ∧
      readReg t 0x1C0000 = v.toNat % 2 ∧ t = { s with att := { s.att with uartLog := v.getLsbD 0 } }

/-- A write of a register changes no job, command, partition, tile, object, descriptor, request or link, and no byte of chip memory;
host memory, and the error records kept for the dump, only where enabling the event queue writes the records that were held. -/
def Obligations.RegisterWritesFrame : Prop :=
  ∀ (n off : Nat) (v : W32) (z : W64) (be : BitVec 4) (s t : State), memoriesOk s →
    (∀ c, c = .qdbSqTail n v ∨ c = .qdbAqTail v ∨ c = .qdbCqHead n v ∨ c = .qdbAcqHead v → exec c s = .next t →
      t = { s with qdb := t.qdb, queues := t.queues, glb := { s.glb with wake := t.glb.wake, wakeAt := t.glb.wakeAt },
                   msix := t.msix }) ∧
    (exec (.evqHead v) s = .next t →
      t = { s with qdb := t.qdb, evq := t.evq, msix := t.msix,
                   glb := { s.glb with wake := t.glb.wake, wakeAt := t.glb.wakeAt } }) ∧
    (exec (.qdbAqEnable v) s = .next t → t = { s with qdb := t.qdb, queues := t.queues, glb := { s.glb with errCfg := t.glb.errCfg } }) ∧
    (exec (.evqEnable v) s = .next t →
      t = { s with evq := t.evq, qdb := t.qdb, att := t.att, msix := t.msix, host := t.host,
                   dump := { s.dump with errs := t.dump.errs }, glb := { s.glb with errCfg := t.glb.errCfg } }) ∧
    (exec (.loWordStage off v) s = .next t →
      t = { s with qdb := { s.qdb with loStage := t.qdb.loStage }, glb := { s.glb with errLocked := t.glb.errLocked } }) ∧
    (exec (.nrgSnap v) s = .next t → t = { s with nrg := { s.nrg with snap := t.nrg.snap } }) ∧
    (exec (.fabWdogCtl v) s = .next t → t = { s with wdog := t.wdog }) ∧
    (exec (.pwrVrOverride v) s = .next t → t = { s with slow := { s.slow with posted := t.slow.posted } }) ∧
    (exec (.thmTrip v) s = .next t → t = { s with slow := { s.slow with posted := t.slow.posted } }) ∧
    (∀ c, c = .eccInjectArm v ∨ c = .eccCheckDisable v ∨ c = .eccWritebackDisable v → exec c s = .next t →
      t = { s with mctl := { s.mctl with ctl := t.mctl.ctl } }) ∧
    (exec (.rasSpareMap n v) s = .next t →
      t = { s with ras := { s.ras with maps := t.ras.maps } } ∧ ∀ i, i ≠ n → t.ras.maps[i]? = s.ras.maps[i]?) ∧
    (exec (.hdmbase z) s = .next t →
      t = { s with att := { s.att with hdmBase := t.att.hdmBase }, qdb := { s.qdb with loStage := t.qdb.loStage } }) ∧
    (exec (.bar2tgt z) s = .next t →
      t = { s with att := { s.att with bar2tgt := t.att.bar2tgt }, qdb := { s.qdb with loStage := t.qdb.loStage } }) ∧
    (exec (.registerWrite off v be) s = .next t →
      t = { s with qdb := t.qdb, queues := t.queues, glb := t.glb, evq := t.evq, msix := t.msix, nrg := t.nrg, wdog := t.wdog,
                   slow := t.slow, mctl := t.mctl, ras := t.ras, att := t.att, host := t.host,
                   dump := { s.dump with errs := t.dump.errs } })

/-! ### The host port, interrupts and the alarm mirror -/

/-- R374. A host access through CXL.mem or BAR2: an object's page answers its data, poisoned where a word of it is
uncorrectable, and takes stores; anything else, and every access outside READY, ACTIVE, DRAIN, SERVICE and FAULT, reads as bytes 0xFF,
poisoned through CXL.mem and an Unsupported Request through BAR2, and drops the store. No event is posted. -/
def Obligations.HostAccessesAnswer : Prop :=
  ∀ (x n : Nat) (st : Option (List Byte)) (c : Instr) (a : Nat) (s : State), memoriesOk s → s.att.linkUp = true →
    let len := (st.map List.length).getD n
    (c = .cxlMemAccess x n st ∧ x + len ≤ 256 * 2 ^ 30 ∧ a = hbmBase + s.att.hdmBase.toNat * 2 ^ 30 + x) ∨
      (c = .bar2Access x n st ∧ x + len ≤ 64 * 2 ^ 30 ∧ a = s.att.bar2tgt.toNat * 2 ^ 30 + x) →
    ∃ t, exec c s = .next t ∧ t.evq = s.evq ∧
      (st = none → (hostServed s && hostMapped s a n) = true → ∀ k, memKindOf a = some k → checkOff s k = false →
        t.att.resp = readMem s a n ∧ t.mem = s.mem ∧
        t.att.respErr = if (errsIn s k a n).any (fun e => decide (2 ≤ e.syms)) then .poison else .none) ∧
      (st = none → (hostServed s && hostMapped s a n) = false →
        t.att.resp = List.replicate n 0xFF ∧ t.mem = s.mem ∧
        t.att.respErr = if c = .bar2Access x n st then .unsupported else .poison) ∧
      (∀ b, st = some b → (hostServed s && hostMapped s a b.length) = true →
        readMem t a b.length = b ∧ ∀ y, y < a ∨ a + b.length ≤ y → chipByte t y = chipByte s y) ∧
      (∀ b, st = some b → (hostServed s && hostMapped s a b.length) = false → t.mem = s.mem)

/-- A due vector sends its message, or sets its pending bit while masked; unmasking sends a pending message. EVQ_OVERFLOW is written at
the first free entry with the counts of what was dropped, which start again (R239, R335, R370). -/
def Obligations.InterruptsAndOverflow : Prop :=
  ∀ (vec : Nat) (s : State), memoriesOk s → vec < 128 →
    (vecDue s (vecAt s vec) = true → ∃ t, exec (.msixFire vec) s = .next t ∧ (vecAt t vec).ents = [] ∧
      (if (vecAt s vec).masked then t.msix.sent = s.msix.sent ∧ (vecAt t vec).pend = true
       else t.msix.sent = s.msix.sent ++ [vec])) ∧
    (vecDue s (vecAt s vec) = false → exec (.msixFire vec) s = .next s) ∧
    ((vecAt s vec).masked = true → ∃ t, exec (.msixUnmask vec) s = .next t ∧ (vecAt t vec).masked = false ∧
      (vecAt t vec).pend = false ∧
      t.msix.sent = if (vecAt s vec).pend then s.msix.sent ++ [vec] else s.msix.sent) ∧
    (s.evq.overflow = true → evqFree s.evq ≠ 0 → s.evq.reserve = [] → s.evq.bootHeld = [] →
      hostOk s (s.evq.base.toNat + 32 * s.evq.tail) 32 = true →
      ∃ t, exec .evqOverflow s = .next t ∧ t.evq.overflow = false ∧ t.evq.nAlarm = 0 ∧ t.evq.nError = 0 ∧ t.evq.nNotice = 0 ∧
        t.evq.nTrace = 0 ∧ t.evq.seq = s.evq.seq + 1 ∧
        readHost t (s.evq.base.toNat + 32 * s.evq.tail) 32 =
          recBytes { code := 0x0F02, cls := .alarm, source := 0, time := s.clk.rackTime, job := 0, seq := s.evq.seq,
                     detail := leBytes 4 s.evq.nAlarm ++ leBytes 4 s.evq.nError ++ leBytes 4 s.evq.nNotice
                       ++ leBytes 4 s.evq.nTrace } s.evq.phase) ∧
    (evqFree s.evq = 0 → exec .evqOverflow s = .next s)

/-- R366. The mirror entry of an ALARM code, read at 0x0100 + 0x40 × i: the count since boot, zeros, and the last record of the code
with its sequence number. -/
def Obligations.AlarmMirrorHoldsTheLastRecord : Prop :=
  ∀ (i src job addr : Nat) (d : List Byte) (mem : Byte) (s : State),
    let codes := [0x0101, 0x0102, 0x0103, 0x0205, 0x0303, 0x0304, 0x0F01]
    let entry := fun (t : State) (j w : Nat) => mgRead t (0x100 + 0x40 * j + 4 * w)
    let holds := fun (t : State) (j : Nat) (r : EvRec) =>
      entry t j 0 = (entry s j 0 + 1) % 2 ^ 32 ∧ (∀ w, 1 ≤ w → w < 8 → entry t j w = 0) ∧
      ∀ w, w < 8 → entry t j (8 + w) = fieldAt (recBytes r false) (4 * w) 4
    (∀ code, codes[i]? = some code →
      let e := postEventAt code src job d addr mem s
      holds e.2 i e.1 ∧ e.1.code = code ∧ e.1.seq = s.evq.seq) ∧
    (s.evq.overflow = true → evqFree s.evq ≠ 0 → ∃ r, r.code = 0x0F02 ∧ r.seq = s.evq.seq ∧ holds (flushEvq s) 7 r)

/-! ### Errors -/

/-- FABRIC_STALL, WAITPH_STALL and a steering mismatch raise a job fault of causes 1 and 2 with their event; TILE_PARITY_ERROR, and the
fourth bridge failure in a row, one of cause 6; a bridge retry is counted (R28, R34, R95, R254, R256, R323, R324). -/
def Obligations.FaultsAreRaised : Prop :=
  ∀ (part c r unit : Nat) (inp : Port) (s : State), running s = true →
    (∀ p cmd run lim k, runningRun s part = some (p, cmd, run) → stallLimit s = some lim → p.held = false → k ∈ liveConns s p →
      connHops s k ≠ [] → lim ≤ Tbl.getD p.stalls k 0 → ∃ t f, exec (.fabricStall part) s = .next t ∧ t.dump.fault = some f ∧ f.cause = 1 ∧
        f.part = some p.first ∧ f.origin.code = 0x0301 ∧ f.origin.seq = s.evq.seq ∧ f.origin.job = cmd.job) ∧
    (∀ x lim, ctxAt s c r = some x → stallLimit s = some lim → x.part.held = false → waitStalled s lim x.t = true →
      ∃ t f, exec (.waitphStall c r) s = .next t ∧ t.dump.fault = some f ∧ f.cause = 1 ∧ f.part = some x.part.first ∧
        f.origin.code = 0x0301 ∧ f.origin.job = x.cmd.job) ∧
    (∀ x u tok w ctl data last, ctxAt s c r = some x → (tileAt s x.t).steer[unit]? = some u → (tileAt s x.t).phase = .compute →
      u.armed ≠ 0 → u.stopped = false → u.ctl = tok :: ctl → u.data = (w, last) :: data →
      pairCause (steerEntry x.blk unit (bitsOf tok.toNat 27 3)) tok.toNat last ≠ 0 →
      ∃ t f, exec (.steerPair c r unit) s = .next t ∧ t.dump.fault = some f ∧ f.cause = 2 ∧ f.tile = some (c, r) ∧
        f.origin.code = 0x0302 ∧ ((tileAt t x.t).steer[unit]?).map (·.stopped) = some true) ∧
    (isTile c r = true → ∃ t f, exec (.tileParityError c r) s = .next t ∧ t.dump.fault = some f ∧ f.cause = 6 ∧
      f.tile = some (c, r) ∧ t.dump.halted = true) ∧
    (∀ e, bridgeAt c r inp = some e → isTile c r = true →
      let n := Tbl.getD s.lnk.bridgeFails (16 * tileNo c r + portIdx inp) 0
      ∃ t, exec (.bridgeCrcRetry c r inp) s = .next t ∧ Tbl.getD t.lnk.bridge e 0 = Tbl.getD s.lnk.bridge e 0 + 1 ∧
        (n < 3 → t.dump.fault = none ∧ Tbl.getD t.lnk.bridgeFails (16 * tileNo c r + portIdx inp) 0 = n + 1) ∧
        (3 ≤ n → (t.dump.fault).map (fun f => (f.cause, f.tile)) = some (6, some (c, r))))

/-- JOB_FAULT puts the part into FAULT; ALL_JOBS_LOST completes every command of a job with a JOB_LOST entry and ends every job and
request; FATAL_DUMP_READY leaves a valid dump: its header names the fault, and its digest is over the dump's bytes behind the header's
64 KiB (R255, R256, R337, R338). -/
def Obligations.JobFaultsRunTheirCourse : Prop :=
  ∀ (f : FaultInfo) (s : State), s.dump.fault = some f →
    (f.record = none → ∃ t r, exec .jobFault s = .next t ∧ t.glb.state = .fault ∧ t.dump.fault = some { f with record := some r } ∧
      r.code = 0x0303 ∧ r.cls = .alarm ∧ running t = false ∧ t.dump.halted = true) ∧
    (f.record.isSome = true → f.lost = false → ∃ t, exec .allJobsLost s = .next t ∧
      t.dump.fault = some { f with lost := true } ∧ (∀ e ∈ t.jobs, e.2.state = .lost) ∧ (∀ c ∈ t.cmds, c.job = 0) ∧
      t.srv.reqs = [] ∧ t.tierQueue = []) ∧
    (∀ c k, memoriesOk s → f.record.isSome = true → f.lost = false → s.cmds = [c] → c.job ≠ 0 → Tbl.get? s.queues c.queue = some k →
      let entry := k.cqBase + 32 * k.cqTail
      let d := withSlot (withEnergy { c with done := some .jobLost, result := lostResult c })
      hostOk s entry 32 = true → s.evq.tail < 2 ^ s.evq.size.toNat →
      entry + 32 ≤ s.evq.base.toNat ∨ s.evq.base.toNat + 32 * 2 ^ s.evq.size.toNat ≤ entry →
      ∃ t, exec .allJobsLost s = .next t ∧ readHost t entry 32 =
        entryBytes c.seq (statusCode .jobLost) k.head c.job 0 (finalFlags d + ofBool k.cqPhase) 0 d.result) ∧
    (f.record.isSome = true → f.lost = true → f.ready = false → (∀ c ∈ s.cmds, c.op ≠ 0x7F) →
      ∃ t, exec .fatalDumpReady s = .next t ∧ t.dump.fault = some { f with ready := true }) ∧
    (∀ r, f.record = some r → f.lost = true → f.ready = false → (∀ c ∈ s.cmds, c.op ≠ 0x7F) → Mem.wf s.dump.bytes = true →
      let n := match f.part.bind (Tbl.get? s.parts) with | some p => (partNos p).length | none => 0
      let len := 0x1000000 + n * 524288
      ∃ t, exec .fatalDumpReady s = .next t ∧
        Mem.read t.dump.bytes 0 80 = leBytes 4 0x504D5544 ++ leBytes 2 1 ++ [1, 0] ++ leBytes 8 f.at_.toNat ++
          recBytes f.origin true ++ recBytes r true ∧
        Mem.read t.dump.bytes 84 20 = leBytes 2 n ++ faultGroups s f ++ leBytes 8 len ++ leBytes 4 s.glb.fwVer.toNat ++
          [BitVec.ofNat 8 s.glb.partId.toNat, 0, 0, 0] ∧
        Mem.read t.dump.bytes 104 32 = sha3 (Mem.read t.dump.bytes 0x10000 (len - 0x10000)))

/-- The scrub corrects a single-symbol error and counts it, and reports an uncorrectable word once; a block that is due moves to a
spare, its uncorrectable words as zeros, and one that only the scrub has found stays to be met by its next reader; the correctable
counts are summed up every 60 s (R325-R327). That the scrub finds nothing while the checking of a memory is off is the model's
reading (log 32). -/
def Obligations.ScrubRetirementAndSummary : Prop :=
  ∀ (k : MemKind) (addr spare : Nat) (s : State), memoriesOk s →
    (checkOff s k = true → exec (.patrolScrub k addr) s = .next s) ∧
    (∀ e, k = .bank ∨ k = .hbm ∨ k = .ddr → checkOff s k = false → s.glb.state ≠ .off → (errsIn s k addr 1).head? = some e →
      (e.syms < 2 → s.mctl.errs.Nodup → ∃ t, exec (.patrolScrub k addr) s = .next t ∧ e ∉ t.mctl.errs ∧
        t.ras.ce[ceIndex k]? = (s.ras.ce[ceIndex k]?).map (· + 1) ∧ t.mem = s.mem) ∧
      (2 ≤ e.syms → e.reported = false → ∃ t, exec (.patrolScrub k addr) s = .next t ∧
        { e with reported := true } ∈ t.mctl.errs ∧ t.evq.seq = s.evq.seq + 1 + (if s.evq.overflow && evqFree s.evq != 0 then 1 else 0) ∧
        t.cmds = s.cmds) ∧
      (2 ≤ e.syms → e.reported = true → exec (.patrolScrub k addr) s = .next s)) ∧
    (∀ d i, k = .hbm ∨ k = .ddr → s.mctl.due.find? (fun d => d.1 == k && d.2.1 == retireUnit k addr) = some d →
      pickFree spare 0 (if k = .hbm then 4096 else 16384) ((s.mctl.remap.filter fun r =>
        r.1 == k && (k == .ddr || stackOf r.2.1 == stackOf (retireUnit k addr))).map (·.2.2)) = some i →
      ∃ t, exec (.blockRetire k addr spare) s = .next t ∧ (k, retireUnit k addr, i) ∈ t.mctl.remap ∧
        (∀ e ∈ s.mctl.errs, heldIn e.kind = k → retireUnit k e.addr = retireUnit k addr → 2 ≤ e.syms →
          (∀ a, a / 64 = e.addr / 64 → chipByte t a = 0) ∧ (e.met = false → { e with retired := true } ∈ t.mctl.errs)) ∧
        (∀ e ∈ t.mctl.errs, heldIn e.kind = k → retireUnit k e.addr = retireUnit k addr → e.retired = true) ∧
        (∀ a, (∀ e ∈ s.mctl.errs, heldIn e.kind = k → retireUnit k e.addr = retireUnit k addr → 2 ≤ e.syms → a / 64 ≠ e.addr / 64) →
          chipByte t a = chipByte s a)) ∧
    (∀ d, s.mctl.due.find? (fun d => d.1 == .bank && d.2.1 == retireUnit .bank addr) = some d →
      sparesLeft s 5 (retireUnit .bank addr / 0x1000000) ≠ 0 →
      ∃ t, exec (.blockRetire .bank addr spare) s = .next t ∧ (retireUnit .bank addr, d.2.2, false) ∈ t.mctl.rows) ∧
    (passed s s.ras.ceSince (60 * 400000000) = true → ∃ t, exec .ceSummary s = .next t ∧ t.ras.ceNow = [0, 0, 0, 0] ∧
      t.ras.ceSince = s.ras.ceSince + BitVec.ofNat 64 (60 * 400000000) ∧ t.ras.ce = s.ras.ce)

/-- Units that fail in service: a Badger core is out of use, a Fox engine's bursts pass to its pair-mate, a tier engine's work returns
to the queue, a power phase and a PLL count among the failed, a sensor pair apart by more than 5 °C loses the cooler one. A hub that has
lost both its PLLs is reset as by RESET_N: the part boots with no job and no partition (R329, R330). That its memory then reads as zeros
is the model's choice (log 4). -/
def Obligations.UnitsFailInService : Prop :=
  ∀ (n : Nat) (a b : W16) (s : State), s.glb.state ≠ .off →
    (n < 10 → ∃ t, exec (.unitFailure 1 n) s = .next t ∧ t.ras.bcGood.getLsbD n = false ∧ t.ras.bcActive.getLsbD n = false ∧
      ∀ i, i < 10 → i ≠ n → t.ras.bcGood.getLsbD i = s.ras.bcGood.getLsbD i) ∧
    (∀ f g, s.fox[n]? = some f → s.fox[if n % 2 = 0 then n + 1 else n - 1]? = some g → ∃ t, exec (.unitFailure 2 n) s = .next t ∧
      t.fox[n]? = some { f with failed := true, bursts := [] } ∧
      t.fox[if n % 2 = 0 then n + 1 else n - 1]? = some { g with bursts := g.bursts ++ f.bursts }) ∧
    (∀ e, s.tiers[n]? = some e → (∀ x ∈ s.cmds, x.staging = none) → ∃ t, exec (.unitFailure 3 n) s = .next t ∧
      t.tiers[n]? = some { work := [], failed := true } ∧
      ∀ j, j ∈ s.tierQueue ∨ (j ∈ e.work ∧ j.void = false ∧ j.kind ≠ .cold) → j ∈ t.tierQueue ∨ ∃ g ∈ t.tiers, j ∈ g.work) ∧
    (n < 24 → s.pwr.phases.getLsbD n = true → ∃ t, exec (.powerPhaseFailure n) s = .next t ∧ t.pwr.phases.getLsbD n = false ∧
      workingPhases t + 1 = workingPhases s ∧
      t.pwr.ceiling = if workingPhases s - 1 < 22 then 1950 * (workingPhases s - 1) / 22 else 1950) ∧
    (∀ x, s.thm.sensors[n]? = some x → x.failA = false → x.failB = false →
      40 < (toSigned 16 a.toNat - toSigned 16 b.toNat).natAbs → ∃ t, exec (.sensorDisagree n a b) s = .next t ∧
        t.thm.sensors[n]? = some (if toSigned 16 a.toNat < toSigned 16 b.toNat then { temp := b, failA := true, failB := false }
          else { temp := a, failA := false, failB := true })) ∧
    (powered s = true → n ≤ 1 → s.clk.pllGood.getLsbD (2 * n) = true → s.clk.pllGood.getLsbD (2 * n + 1) = true →
      ∃ t, exec (.pllLockLoss n) s = .next t ∧ t.clk.pllGood.getLsbD (2 * n) = false ∧ t.glb = s.glb ∧ t.parts = s.parts ∧
        ∀ i, i < 4 → i ≠ 2 * n → t.clk.pllGood.getLsbD i = s.clk.pllGood.getLsbD i) ∧
    (powered s = true → n ≤ 1 → s.clk.pllGood.getLsbD (2 * n) ≠ s.clk.pllGood.getLsbD (2 * n + 1) →
      ∃ t, exec (.pllLockLoss n) s = .next t ∧ t.glb.state = .boot ∧ t.parts = [] ∧ t.jobs = [] ∧ t.mem = [])

/-! ### The fabric -/

/-- ROUTER_FORWARD takes the head word of a connection from an input and puts it into the facing queue of every neighbour its outputs
lead to, for one credit each; CREDIT_RETURN gives one back; STEER_PAIR consumes a token with its word and writes the bank window the
token names (R19, R21, R31-R33). -/
def Obligations.FabricMovesWords : Prop :=
  ∀ (c r : Nat) (x : Ctx) (s : State), memoriesOk s → ctxAt s c r = some x →
    (∀ inp cid w, inp ≠ .l → (tileAt s x.t).streams.all (·.words == 0) = true →
      ((tileAt s x.t).queues.getD (portIdx inp) []).find? (·.cid == cid) = some w → slotOuts x (portIdx inp) cid ≠ [] →
      (∀ o ∈ slotOuts x (portIdx inp) cid, 1 ≤ outCredit x.blk (tileAt s x.t) o cid ∧
        (o = 4 → localTakes x.blk (tileAt s x.t) cid = true)) →
      ∃ t, exec (.routerForward c r inp cid) s = .next t ∧
        (tileAt t x.t).queues[portIdx inp]? = ((tileAt s x.t).queues[portIdx inp]?).map (·.eraseP (·.cid == cid)) ∧
        ∀ o ∈ slotOuts x (portIdx inp) cid, o < 4 →
          Tbl.getD (tileAt t x.t).credits (16 * o + cid) 0 = Tbl.getD (tileAt s x.t).credits (16 * o + cid) 0 - 1 ∧
          ∀ c1 r1, neighbour c r o = some (c1, r1) → (tileAt t (tileNo c1 r1)).queues[facing o]? =
            ((tileAt s (tileNo c1 r1)).queues[facing o]?).map (· ++ [w])) ∧
    (∀ out cid, Tbl.getD (tileAt s x.t).creditsDue (16 * portIdx out + cid) 0 ≠ 0 →
      ∃ t, exec (.creditReturn c r out cid) s = .next t ∧ onlyTile x.t s t ∧
        Tbl.getD (tileAt t x.t).credits (16 * portIdx out + cid) 0 =
          Tbl.getD (tileAt s x.t).credits (16 * portIdx out + cid) 0 + 1 ∧
        Tbl.getD (tileAt t x.t).creditsDue (16 * portIdx out + cid) 0 + 1 =
          Tbl.getD (tileAt s x.t).creditsDue (16 * portIdx out + cid) 0) ∧
    (∀ unit u tok w ctl data last, (tileAt s x.t).steer[unit]? = some u → (tileAt s x.t).phase = .compute → u.armed ≠ 0 →
      u.stopped = false → u.ctl = tok :: ctl → u.data = (w, last) :: data → (tileAt s x.t).inprog = [] →
      (tileAt s x.t).streams = [] → (tileAt s x.t).gateRun = [] →
      let e := steerEntry x.blk unit (bitsOf tok.toNat 27 3)
      pairCause e tok.toNat last = 0 → (bitAt tok.toNat 31 = false ∨ bitsOf e 62 2 ≠ 1) →
      ∃ t, exec (.steerPair c r unit) s = .next t ∧
        (tileAt t x.t).steer[unit]? = some { u with ctl := ctl, data := data, ctlCid := u.ctlCid.drop 1, dataCid := u.dataCid.drop 1,
                                                    armed := if bitAt tok.toNat 30 then u.armed - 1 else u.armed } ∧
        (if bitAt tok.toNat 31 then
          unitRead x t true (bitsOf e 32 18 + bitsOf tok.toNat 12 15 * bitsOf e 24 8) 0 64 = lineBytes w else t.mem = s.mem))

/-! ### Stepped RUNs and huddles -/

/-- ROUTE_REPORT writes its report, appends the interim entry and holds the RUN; 10 s after that entry the RUN fails STEP_TIMEOUT
(R139, R141). -/
def Obligations.SteppedRunsHoldAndTimeOut : Prop :=
  ∀ (part gateId : Nat) (p : Part) (c : Cmd) (r : RunInfo) (s : State), memoriesOk s → runningRun s part = some (p, c, r) →
    (∀ hs h, running s = true → r.hold = none → reportDue s p gateId = true → laneHolds (reportHolds s p gateId) = hs →
      hs.head? = some h →
      (r.report = 0 ∨ hostOk s r.report (32 + 4 * h.experts) = true) →
      ∃ t, exec (.routeReport part gateId) s = .next t ∧
        (((cmdAt t c.key).bind curRun).bind (·.hold)) = some { holdId := r.nextHold, gateId := gateId, postedAt := none } ∧
        (∃ i, t.interims = s.interims ++ [i] ∧ i.queue = c.queue ∧ i.seq = c.seq ∧ i.type = 1) ∧
        (r.report ≠ 0 →
          readHost t r.report 12 = leBytes 4 c.seq ++ leBytes 2 gateId ++ leBytes 2 h.experts ++ leBytes 4 r.nextHold ∧
          ∀ e, e < h.experts → readHost t (r.report + 32 + 4 * e) 4 = leBytes 4 ((hs.map fun g => g.counts.getD e 0).sum))) ∧
    (∀ h at_, r.hold = some h → h.postedAt = some at_ → passed s at_ (msUnits 10000) = true →
      ∃ t, exec (.stepTimeout part) s = .next t ∧ statusOf t c.key = some .stepTimeout)

/-- HUDDLE_OPEN takes every tile of the partition to LOAD and holds it, and opens the huddle when its rally count has come; a segment
of no rows completes its peer, one of another huddle is counted in HUDDLE_BAD; the huddle closes when all segments are there; a
lost peer fails the RUN PEER_LOST (R148-R152). -/
def Obligations.HuddlesOpenAndClose : Prop :=
  ∀ (part src : Nat) (p : Part) (c : Cmd) (r : RunInfo) (l : Plan) (s : State), running s = true →
    runningRun s part = some (p, c, r) → p.first = part → planOf s c.job = some l →
    (∀ e g, p.huddle = none → (imgInnings (imgOf s r.image))[r.entry]? = some e → l.huddles[r.huddleIdx]? = some g →
      r.inInning = true → r.huddleDone = false → huddleDue s c r e = true → tilesDone s p = true →
      rallyReached s (huddleRally l (r.hseqBase + r.huddleIdx)) = false →
      ∃ t q u, exec (.huddleOpen part) s = .next t ∧ Tbl.get? t.parts part = some q ∧ q.held = true ∧ q.huddle = some u ∧
        u.opened = false ∧ u.hseq = r.hseqBase + r.huddleIdx ∧ u.gateId = g.1 ∧
        ((cmdAt t c.key).bind curRun).map (·.huddleIdx) = some (r.huddleIdx + 1) ∧
        ∀ i ∈ partNos p, (tileAt t i).phase = .load) ∧
    (∀ u h, p.huddle = some u → u.opened = false → rallyReached s (huddleRally l u.hseq) = true →
      earlierDue s part (huddleRally l u.hseq) = false →
      hudCtx s part u.gateId = some h → (∀ q ∈ l.peers, (peerAt s q.1).up = true) →
      (∀ q ∈ l.peers, ((rowsFor h u.combine q.1 q.2.2).map List.length).sum = 0) →
      ∃ t v, exec (.huddleOpen part) s = .next t ∧ (Tbl.get? t.parts part).bind (·.huddle) = some v ∧ v.opened = true ∧
        v.openedAt = s.clk.rackTime ∧ v.unacked.length = l.peers.length) ∧
    (∀ u h m q, p.huddle = some u → u.opened = true → hudCtx s part u.gateId = some h → segmentFrom s src = some m →
      l.peers.find? (·.1 == src) = some q →
      let k := segHead (Mem.read m.bytes 0 16)
      (u.complete.contains src = true ∨ badHeader u k = true → takeLater s part src m = none →
        ∃ t, exec (.segmentReceived part src) s = .next t ∧
          (Tbl.get? t.parts part).map (·.counters.huddleBad) = some (p.counters.huddleBad + 1) ∧ m ∉ t.lnk.msgs) ∧
      (u.complete.contains src = false → badHeader u k = false → bitAt k.flags 1 = false → bitAt k.flags 0 = true →
        ∃ t, exec (.segmentReceived part src) s = .next t ∧ m ∉ t.lnk.msgs ∧
          ((Tbl.get? t.parts part).bind (·.huddle)).map (·.complete) = some (u.complete ++ [src]))) ∧
    (∀ u, p.huddle = some u → u.opened = true → (∀ q ∈ l.peers, u.complete.contains q.1 = true) →
      (∀ x ∈ s.lnk.ports, portOwes x u.unacked = false) →
      ∃ t q, exec (.huddleClose part) s = .next t ∧ Tbl.get? t.parts part = some q ∧ q.huddle = none ∧ q.held = false ∧
        ((cmdAt t c.key).bind curRun).map (·.huddleDone) = some true) ∧
    (∀ u h cause, p.huddle = some u → hudCtx s part u.gateId = some h → (∃ q ∈ l.peers, q.1 = src) →
      lossCause s u src = some cause → (∀ y ∈ s.lnk.later, y.zero = false) →
      ∃ t, exec (.huddlePeerTimeout part src) s = .next t ∧ statusOf t c.key = some .peerLost)

/-! ### Streams and tiers -/

/-- A descriptor issues with all its blocks to do, or is withdrawn where its expert has no demand; a Fox engine puts a block read from an
object into its bursts; a burst lands in its tile's bank; a stream halted for a page goes on when the page is in HBM
(R143, R180, R184, R185, R188). -/
def Obligations.DescriptorsIssueMoveAndLand : Prop :=
  ∀ (k q n : Nat) (d : Desc) (s : State), memoriesOk s → running s = true → Tbl.get? s.descs n = some d →
    (idleDesc s q = none → nextDesc s q = some (n, d) → issueFail s d = none →
      ∃ t, exec (.descriptorIssue q) s = .next t ∧ (Tbl.get? t.descs n).map (fun e => (e.issued, e.todo)) = some (true, allBlocks d)) ∧
    (idleDesc s q = some (n, d) → ∃ t, exec (.descriptorIssue q) s = .next t ∧
      ∀ e, Tbl.get? t.descs n = some e → e.withdrawn = true ∧ e.todo = []) ∧
    (∀ e i o, s.fox[k]? = some e → e.failed = false → e.bursts.length < 128 → foxNext s k e.last = some (n, d, i) →
      remoteOf s d = none → d.host = none → dDir d.bytes = 0 → dForm d.bytes = false → dScatter d.bytes = false →
      Tbl.get? s.objs d.handle = some o →
      let x := blockPlain d i
      d.objOff + x.1 + x.2 ≤ objExtent s o → (∀ g, pagedObj s d = some g → ∀ y ∈ pagesTouched d x.1 x.2, inDdr (g.pages.getD y 0) = false) →
      (readSpansChecked (srcSpans s d x.1 x.2) s).ue = [] →
      ∃ t b, exec (.foxBlockTransfer k) s = .next t ∧ (t.fox[k]?).map (·.bursts) = some (e.bursts ++ [b]) ∧ b.desc = n ∧
        b.writes = (descTargets d).map (fun i => (i, runAddr d i x.1,
          sliceB (readSpansChecked (srcSpans s d x.1 x.2) s).bytes 0 x.2)) ∧
        (Tbl.get? t.descs n).map (·.todo) = some (d.todo.erase i)) ∧
    (∀ e b rest i a bytes, s.fox[k]? = some e → e.bursts = b :: rest → b.desc = n → b.out = [] → b.writes = [(i, a, bytes)] →
      inLoad s i = true → d.withdrawn = false → d.void = false →
      ∃ t, exec (.burstLanded k) s = .next t ∧ (t.fox[k]?).map (·.bursts) = some rest ∧ readMem t a bytes.length = bytes ∧
        ∀ y, y < a ∨ a + bytes.length ≤ y → chipByte t y = chipByte s y) ∧
    (∀ page o, d.halted = some page → d.done = false → d.withdrawn = false → d.restream = false →
      Tbl.get? s.objs d.handle = some o → inDdr (o.pages.getD page 0) = false →
      ∃ t, exec (.descriptorResume n) s = .next t ∧ (Tbl.get? t.descs n).map (·.halted) = some none)

/-- A deadline is reached where a tile awaits the descriptor: in class 0 it is noted, and 2 ms later the command fails DEADLINE_MISS; in
classes 1 and 2 the descriptor is withdrawn, and a class 2 one is replaced by its ALTDESC (R175-R177, R198, R200). -/
def Obligations.DeadlinesAreKept : Prop :=
  ∀ (n : Nat) (d : Desc) (s : State), running s = true → Tbl.get? s.descs n = some d →
    ((d.part.bind (Tbl.get? s.parts)).map (·.held)).getD false = false →
    (∀ at_, d.readyAt = some at_ → d.done = false → d.withdrawn = false → d.deadline = none → dTime d.bytes ≠ 0 → d.host = none →
      passed s at_ (dTime d.bytes) = true → anyAwaits s n d = true → ∃ t, exec (.deadlineReached n) s = .next t ∧
        (classOf s d ≠ 1 → classOf s d ≠ 2 → Tbl.get? t.descs n = some { d with deadline := some s.clk.rackTime }) ∧
        (classOf s d = 1 ∨ classOf s d = 2 → ∀ e, Tbl.get? t.descs n = some e → e.withdrawn = true ∧ e.todo = [])) ∧
    (∀ a, d.withdrawn = true → d.void = false → d.altDone = false → d.deadline.isSome = true → classOf s d = 2 →
      flying s n = 0 → altOf s d = some a → issueFail s a = none → n ≠ s.nextDesc →
      ∃ t, exec (.altdescIssue n) s = .next t ∧ Tbl.get? t.descs s.nextDesc = some { a with todo := allBlocks a } ∧
        (Tbl.get? t.descs n).map (fun e => (e.altDone, e.done)) = some (true, true)) ∧
    (∀ at_ c, d.deadline = some at_ → d.done = false → d.withdrawn = false → classOf s d = 0 →
      passed s at_ (msUnits 2) = true → anyAwaits s n d = true → cmdAt s (d.queue, d.seq) = some c → c.done = none →
      ∃ t, exec (.deadlineMiss n) s = .next t ∧ statusOf t (d.queue, d.seq) = some .deadlineMiss)

/-- Tier engines: a cold fetch takes a pool entry and lands in it; a shard that hashes to its digest passes, one that does not is awaited
from the host until the staging timeout; a page switches to its new place; a spilled KV block returns
(R143, R144, R163, R202, R203, R273). -/
def Obligations.TierEnginesComplete : Prop :=
  ∀ (j h pick : Nat) (s : State), s.dump.fault = none →
    (∀ e o n d pool po s1, s.tiers[j]? = some e → Tbl.get? s.objs h = some o → coldNext s = some (n, d) → d.handle = h →
      running s = true → e.failed = false → e.work = [] → fetchRoom s o = some (pool, po, s1) →
      ∃ t y, exec (.coldFetchStart j h pick) s = .next t ∧ t.cold = s1.cold ++ [y] ∧ y.pool = pool ∧ y.expert = h ∧
        y.desc = n ∧ y.landed = false ∧ y.pages.length = pagesOf o.len ∧ (engineJob t j).map (·.kind) = some .cold) ∧
    (∀ w, engineJob s j = some w →
      (∀ o e, w.kind = .cold → w.void = false → Tbl.get? s.objs w.handle = some o →
        s.cold.find? (fun e => e.expert == w.handle && !e.landed) = some e → e.void = false → (objRead o 0 o.len s).ue = [] →
        (∀ x ∈ s.objs, x.2.gone = false) →
        ∃ t, exec (.coldFetchLanded j) s = .next t ∧ (coldEntryOf t w.handle).isSome = true) ∧
      (∀ c g m, w.kind = .shard → w.void = false → w.supply = none → cmdAt s (w.queue, w.seq) = some c → c.staging = some g →
        g.members[w.member]? = some m → m.source = 1 → w.idx < m.shards.length → shardReached s m w.idx = true →
        (∀ x ∈ s.cmds, ∀ y, x.staging = some y → ∀ z ∈ y.members, z.source = 1) →
        let sp := memberSpan s m w.idx
        ∃ t, exec (.shardCopied j) s = .next t ∧
          (((cmdAt t (w.queue, w.seq)).bind (·.staging)).bind (fun y => y.members[w.member]?)).bind (fun y => y.shards[w.idx]?) =
            some (if sha3 (sourceRead s m sp.1 sp.2) = shardDigest s m w.idx then 2 else 3)) ∧
      (∀ o a l, w.kind = .pageWait → w.void = false → Tbl.get? s.objs w.handle = some o → o.gone = false → w.idx < o.pages.length →
        allocHbm s (2 ^ stackFor o.stackMask w.idx) 1 pick = some (a :: l) → (eccReadAt (o.pages.getD w.idx 0) pageSize s).ue = [] →
        ∃ t, exec (.pageSwitch j pick) s = .next t ∧
          ((Tbl.get? t.objs w.handle).bind fun o => o.pages[w.idx]?) = some a) ∧
      (∀ q b x, w.kind = .kvReturn → reqAt s w.seq = some q → q.path[w.idx]? = none →
        q.blocks[w.idx - q.path.length]? = some b → b.spilled = true →
        newBlock q.job (blockBytes (servOr s q.job q.model)) false s = some x →
        ∃ t, exec (.kvBlockReturn j) s = .next t ∧
          ((reqAt t w.seq).bind fun q => q.blocks[w.idx - q.path.length]?) = some { b with addr := x.1, spilled := false })) ∧
    (∀ q seq c g m e, cmdAt s (q, seq) = some c → c.staging = some g → c.done = none → m ∈ g.members → e ∈ m.badAt →
      m.shards[e.1]? = some 3 → passed s e.2 (s.features.stageTimeout * 400000000) = true →
      ∃ t, exec (.stageTimeout q seq) s = .next t ∧ statusOf t (q, seq) = some .shardBad)

/-- The save point suspends the RUN at a boundary, with no descriptor of the job outstanding, and takes pages for the save set; when the
scan-out is complete the job is SAVED and CTX_SAVE completes OK with its size and tier (R247-R251). -/
def Obligations.ContextsAreSaved : Prop :=
  ∀ (part : Nat) (p : Part) (s : State), running s = true → Tbl.get? s.parts part = some p → p.first = part →
    (∀ c sc tier pages, p.saving = none → (∀ k, p.running = some k → k.1 ≠ fwQueue) → p.running.bind (cmdAt s) = some c →
      saveOf s p c.job = some sc → maySuspend s p c = true → atBoundary c = true → quietJob s c.job = true →
      savePlace s (byteAt sc.pkt 32) (pagesOf (saveBytes p (savedUnits s p sc.job).length)) = some (tier, pages) →
      ∃ t q v, exec (.ctxSavePoint part) s = .next t ∧ Tbl.get? t.parts part = some q ∧ q.running = none ∧
        q.suspended = p.suspended ++ [c.key] ∧ q.saving = some v ∧ v.tier = tier ∧ v.pages = pages ∧ v.job = sc.job) ∧
    (∀ v b c, p.saving = some v → Tbl.get? s.jobs v.job = some b → b.closing = none → cmdAt s (v.queue, v.seq) = some c →
      c.done = none → running (scanOut p v.job (savedUnits s p v.job) s) = true →
      ∃ t, exec (.ctxSaveComplete part) s = .next t ∧ statusOf t (v.queue, v.seq) = some .ok ∧
        resultOf t (v.queue, v.seq) = leBytes 8 v.bytes ++ [BitVec.ofNat 8 v.tier] ∧
        (Tbl.get? t.jobs v.job).map (fun b => (b.state, b.saveSet.isSome)) = some (.saved, true) ∧
        (Tbl.get? t.parts part).map (·.saving) = some none)

/-! ### Serving -/

/-- A serving step of a model enters its partition's queue with the tokens of its sequences; when it ends, a decoding sequence takes its
row, or with drafts to verify the accepted ones and one row more and adapts its draft length, a prefilling one its chunk, and a failed
step ends the turn with its status. Draft steps enter the draft job's queue, at most the draft image's STEPTOK tokens each, and the last of
a draft's yields its row. At a step boundary the head of the deferred queue is admitted (R261, R265, R269, R278-R281). That a step's
output rows and status come with the command, the slot whose model a step serves (stepSlot), and the queue number fwQueue that steps have in
a partition's queue are the model's choices (log 30). -/
def Obligations.ServingStepsAdvance : Prop :=
  ∀ (job model req : Nat) (rows : List (List Byte × Bool)) (draft : List Byte) (st : Status) (s : State),
    (∀ v f, canServe (dropDrafts s) job model = some v → modelStep s job model = none → partOfJob s job = some f →
      let s0 := dropDrafts s
      let l := planStep s0 v (stepSlot (sequences s0 job model))
      l ≠ [] → stepRoom s0 job = true → ∃ t, exec (.servingStep job model rows st) s = .next t ∧
        (Tbl.get? t.parts f).map (·.queue) = (Tbl.get? s.parts f).map (·.queue ++ [(fwQueue, s.srv.nextStep)]) ∧
        Tbl.get? t.srv.steps s.srv.nextStep = some (mkStep job model false l)) ∧
    (∀ n x y q, modelStep s job model = some (n, x) → running s = true → stepRuns s n = true → x.seqs = [y] → y.req = req →
      seqLive s y = some q →
      let v := servOr s q.job q.model
      (isOk st = false → q.held = none → ∃ t q1 o, exec (.servingStep job model rows st) s = .next t ∧
        reqAt t req = some q1 ∧ q1.state = .ended ∧ q1.turn = none ∧ q1.outputs = q.outputs ++ [o] ∧ o.status = st ∧ o.ended = 2) ∧
      (∀ b, isOk st = true → decoding q = true → y.tokens = 1 → rows = [(b, false)] → q.rows.length + 1 < q.maxNew →
        ∃ t q1, exec (.servingStep job model rows st) s = .next t ∧ reqAt t req = some q1 ∧ q1.state = .decode ∧
          q1.rows = q.rows ++ [sliceB b 0 v.outRow] ∧ q1.seqRows = q.seqRows ++ q.next.toList) ∧
      (∀ w, isOk st = true → decoding q = false → q.turn = some w →
        ∃ t q1, exec (.servingStep job model rows st) s = .next t ∧ reqAt t req = some q1 ∧
          q1.seqRows = q.seqRows ++ (q.next.toList ++ w.input).take y.tokens ∧
          q1.turn.map (·.input) = some ((q.next.toList ++ w.input).drop y.tokens) ∧
          q1.state = if (q.next.toList ++ w.input).drop y.tokens = [] then .decode else .prefill) ∧
      (isOk st = true → decoding q = true → 2 ≤ y.tokens → rows.length = y.tokens → (∀ z ∈ rows, z.2 = false) →
        q.rows.length + y.tokens < q.maxNew → draftTokens s q + 1 = y.tokens → draftStepOf s req = none → q.job = job →
        q.model = model → draftTokens s q ≤ q.drafts.length →
        let os := rows.map fun z => sliceB z.1 0 v.outRow
        let a := acceptedDrafts (q.drafts.take (y.tokens - 1)) os
        ∃ t q1, exec (.draftStep req draft (rows, st)) s = .next t ∧ exec (.servingStep job model rows st) s = .next t ∧
          reqAt t req = some q1 ∧ q1.rows = q.rows ++ os.take (a + 1) ∧ q1.drafts = [] ∧
          (q1.draftL, q1.zeroRun, q1.suspended) = nextDraft (y.tokens - 1) a q.zeroRun)) ∧
    (∀ q dj s1, reqAt s req = some q → draftStepOf s req = none → inTurn q = true → decoding q = true →
      q.drafts.length < draftTokens s q → draftJob s q = some dj → stepRoom s dj = true →
      giveDraftBlocks req dj (blockBytes (servOr s dj q.model)) (ceilDiv (draftTarget q) 16 - q.draftBlocks.length) s = some s1 →
      ∃ t, exec (.draftStep req draft (rows, st)) s = .next t ∧ Tbl.get? t.srv.steps s1.srv.nextStep =
        some (mkStep dj q.model true [stepSeq req q (min (draftTarget q - q.draftLen) (servOr s dj q.model).stepTok)])) ∧
    (∀ n x y q, draftStepOf s req = some (n, x) → running s = true → stepRuns s n = true → isOk st = true → x.seqs = [y] →
      y.req = req → seqLive s y = some q → ∃ t q1, exec (.draftStep req draft (rows, st)) s = .next t ∧ reqAt t req = some q1 ∧
        (draftTarget q ≤ q.draftLen + y.tokens →
          q1.drafts = q.drafts ++ [sliceB draft 0 (servOr s q.job q.model).inRow] ∧ q1.draftLen = draftTarget q) ∧
        (q.draftLen + y.tokens < draftTarget q → q1.drafts = q.drafts ∧ q1.draftLen = q.draftLen + y.tokens)) ∧
    (∀ s1, running s = true → jobStateOf s job ≠ .saved → atStepBoundary s job model = true → deferredQueue s job model = [req] →
      tryAdmit req s = some s1 → ∃ t, exec (.stepBoundaryAdmission job model) s = .next t ∧
        (reqAt t req).map (·.state) = some .prefill)

/-- A deferred turn whose wait has passed completes REFUSED_BUSY, and an opening request goes with it; an idle request and an output are
gone 10 s after they were last produced (R232, R263, R270). -/
def Obligations.RequestsAndOutputsExpire : Prop :=
  ∀ (req idx : Nat) (q : Req) (s : State), reqAt s req = some q →
    (∀ w c, q.turn = some w → q.state = .deferred → passed s w.accepted (msUnits w.maxWait) = true → s.dump.fault = none →
      boundaryAdmit q.job q.model s = s → q.held = none → cmdAt s (w.queue, w.seq) = some c → c.done = none →
      ∃ t, exec (.deferredExpiry req) s = .next t ∧
        statusOf t (w.queue, w.seq) = some .refusedBusy ∧ (q.outputs = [] → reqAt t req = none) ∧
        (q.outputs ≠ [] → (reqAt t req).map (fun q => (q.state, q.turn.isSome)) = some (.idle, false))) ∧
    (turnOpen q = false → passed s q.doneAt (msUnits 10000) = true → ∃ t, exec (.requestRetentionExpiry req) s = .next t ∧
      reqAt t req = none) ∧
    (∀ o, q.outputs[idx]? = some o → passed s o.time (msUnits 10000) = true → ∃ t, exec (.outputRetentionExpiry req idx) s = .next t ∧
      ((reqAt t req).bind fun q => q.outputs[idx]?) = some { o with gone := true, rows := [] })

/-! ### Power, heat and clocks -/

/-- A sensor position one of whose sensors has not failed (R315, R330). -/
def goodSensor (s : State) (code : Nat) : Prop := ∃ x, s.thm.sensors[code]? = some x ∧ (x.failA && x.failB) = false

/-- VIN64, PWR_ALERT_N, PWR_GOOD, the resets and THERMTRIP_N: below 52 V the part stops and its memories are lost; outside 56-68 V and
for PWR_ALERT_N low for 100 ns it is in the floor state at 100 MHz; that ends 1 ms after every cause has cleared; PWR_GOOD samples the
straps and starts a boot; a reset of 10 µs boots the part and samples the straps, one below 1 µs does nothing, one between does
what this part does with it
(Config.shortResetActs, log 2); after THERMTRIP_N the part is off and no
reset acts (R301, R314, R316, R375, R387, R390, R394-R396). That lost memory reads as zeros is the model's choice (log 4), and so is the
boot that starts with PWR_GOOD at once, the resets taken as released (log 19). -/
def Obligations.PowerAndResetPins : Prop :=
  ∀ (vin power ns code : Nat) (temp : W16) (tray : BitVec 5) (bp cs : Bool) (s : State), memoriesOk s →
    let straps : Straps := { tray := tray, boardPos := bp, chipSrc := cs }
    let strapped := if cs then 0x3F else BitVec.ofNat 6 (2 * tray.toNat + ofBool bp)
    (vin < 5200 → ∃ t, exec (.vin64UndervoltReset vin) s = .next t ∧ t.glb.state = .off ∧ t.mem = [] ∧ t.jobs = [] ∧
      t.pwr.domainsOff = List.range 176 ∧
      t.pins = { s.pins with vin := vin, pwrGood := false, thermtrip := false, clkreq := false }) ∧
    (s.glb.state = .off → s.pins.pwrGood = false → 5400 ≤ vin → vin ≤ 7200 →
      exec (.powerUp vin) s = .next { s with pins := { s.pins with vin := vin } }) ∧
    (powered s = true → 5200 ≤ vin → vin ≤ 7200 → vin < 5600 ∨ 6800 < vin →
      ∃ t, exec (.vin64OutOfRange vin power) s = .next t ∧ t.pins.vin = vin ∧ t.pwr.floor = true ∧
        t.pwr.causes.getLsbD (if vin < 5600 then 1 else 2) = true ∧
        (s.pwr.floor = false → t.clk.fclk = 100 ∧ inputPower t ≤ 450 ∧ ∀ e ∈ t.parts, e.2.fill.start = 0 ∧ e.2.fill.target = 0)) ∧
    (powered s = true → 5700 ≤ vin → vin ≤ 6700 → ∃ t, exec (.vin64OutOfRange vin power) s = .next t ∧ t.pins.vin = vin ∧
      t.pwr.causes.getLsbD 1 = false ∧ t.pwr.causes.getLsbD 2 = false ∧ t.clk = s.clk) ∧
    (powered s = true → s.pwr.floor = true →
      (5600 ≤ vin ∧ vin < 5700 ∧ s.pwr.vinLow = true) ∨ (6700 < vin ∧ vin ≤ 6800 ∧ s.pwr.vinHigh = true) →
      ∃ t, exec (.vin64OutOfRange vin power) s = .next t ∧ t.pins.vin = vin ∧ t.pwr.floor = true ∧ t.pwr.clearSince = none ∧
        t.pwr.causes.getLsbD (if vin < 5700 then 1 else 2) = true) ∧
    (powered s = true →
      (100 ≤ ns → ∃ t, exec (.pwrAlertN true ns power) s = .next t ∧ t.pwr.floor = true ∧ t.pwr.causes.getLsbD 0 = true ∧
        (s.pwr.floor = false → t.clk.fclk = 100)) ∧
      (ns < 100 → exec (.pwrAlertN true ns power) s = .next s) ∧
      (∃ t, exec (.pwrAlertN false ns power) s = .next t ∧ t.pwr.causes.getLsbD 0 = false ∧ t.pwr.floor = s.pwr.floor)) ∧
    (∀ a, s.pwr.clearSince = some a → s.pwr.floor = true → s.pwr.causes = 0 → passed s a (msUnits 1) = true →
      ∃ t, exec .floorExit s = .next t ∧ t.clk = s.clk ∧
        t.pwr = { s.pwr with floor := false, clearSince := none, vinLow := false, vinHigh := false, riseAt := s.clk.rackTime }) ∧
    (s.glb.state = .off → s.pins.pwrGood = false → s.pins.thermtrip = false → 5200 ≤ s.pins.vin →
      ∃ t, exec (.pwrGood tray bp cs) s = .next t ∧ t.glb.state = .boot ∧ t.jobs = [] ∧
        t.pins = { s.pins with pwrGood := true, clkreq := true, trayId := tray, boardPos := bp, chipSrc := cs } ∧
        t.glb.partId = strapped) ∧
    (∀ i ∈ [Instr.resetN ns straps, .perstN ns straps],
      (s.pins.pwrGood = true → s.pins.thermtrip = false → 10000 ≤ ns → ∃ t, exec i s = .next t ∧ t.glb.state = .boot ∧
        t.pins = { s.pins with trayId := tray, boardPos := bp, chipSrc := cs } ∧ t.glb.partId = strapped ∧ t.mem = [] ∧ t.jobs = [] ∧ t.parts = [] ∧ t.host = s.host ∧
        t.mctl.remap = loadRemap s.boot.flash ∧
        t.boot.counter = s.boot.counter) ∧
      (ns < 1000 → exec i s = .next s)) ∧
    (s.pins.pwrGood = true → s.pins.thermtrip = false → 1000 ≤ ns → ns < 10000 →
      exec (.resetN ns straps) s = (if Config.shortResetActs false then exec (.resetN 10000 straps) s else .next s) ∧
      exec (.perstN ns straps) s = (if Config.shortResetActs true then exec (.perstN 10000 straps) s else .next s)) ∧
    (powered s = true → code < 45 → goodSensor s code → hotAt code s.thm.trip temp = true → ∃ t, exec (.thermtripN code temp) s = .next t ∧
      t.glb.state = .off ∧ t.pins = { s.pins with thermtrip := true } ∧ t.mem = [] ∧
      t.pwr.domainsOff = tripDomains ∧ exec (.resetN ns straps) t = .next t ∧ exec (.perstN ns straps) t = .next t)

/-- Power caps: a write of CAP clamps it to 450-1950 W and leaves it waiting, with the deadline and CAP_AT of the same transfer or as they
stood; it is in force at CAP_AT, and a cap below the power starts a cap-follow in which all fill falls; CAP_LAG is raised once for the
projection at its start and once at the deadline; the cap is met at or below it, at the highest step of FCLK that fits
(R307-R309, R364). -/
def Obligations.CapsAreFollowed : Prop :=
  ∀ (cap slew ramp : W16) (power : Nat) (d : Option W32) (a : W64) (be : BitVec 8) (s : State), memoriesOk s →
    let taken := fun (t : State) =>
      t = { s with pwr := t.pwr } ∧ (d = none → t.pwr.deadlineReg = s.pwr.deadlineReg) ∧
      (∀ v, d = some v → t.pwr.deadlineReg = min 1000000 (v.toNat % 2 ^ 20)) ∧
      ∀ i, i < 64 → t.pwr.atReg.getLsbD i = if be.getLsbD (i / 8) then a.getLsbD i else s.pwr.atReg.getLsbD i
    (powered s = true → ∃ t, exec (.mgCap (some cap) d (a, be)) s = .next t ∧ taken t ∧ t.pwr.cap = s.pwr.cap ∧
      450 ≤ t.pwr.capReg ∧ t.pwr.capReg ≤ 1950 ∧ (450 ≤ cap.toNat → cap.toNat ≤ 1950 → t.pwr.capReg = cap.toNat) ∧
      t.pwr.waiting = some { cap := t.pwr.capReg, deadline := t.pwr.deadlineReg, capAt := t.pwr.atReg }) ∧
    (powered s = true → ∃ t, exec (.mgCap none d (a, be)) s = .next t ∧ taken t ∧ t.pwr.capReg = s.pwr.capReg ∧
      t.pwr.waiting = s.pwr.waiting) ∧
    (powered s = true → ∃ t, exec (.mgCapSlew slew) s = .next t ∧ t.pwr.slew = max 100 (min 5000 slew.toNat) ∧
      t = { s with pwr := { s.pwr with slew := t.pwr.slew, loose := t.pwr.loose }, parts := t.parts }) ∧
    (powered s = true → ∃ t, exec (.mgRamp ramp) s = .next t ∧ t.pwr.ramp = max 10 (min 2000 ramp.toNat) ∧
      t = { s with pwr := { s.pwr with ramp := t.pwr.ramp, loose := t.pwr.loose }, parts := t.parts }) ∧
    (∀ w, s.pwr.waiting = some w →
      let c := min w.cap s.pwr.ceiling
      (w.capAt = 0 ∨ w.capAt.toNat ≤ s.clk.rally.toNat → ∃ t, exec (.capEffective power) s = .next t ∧ t.pwr.cap = w.cap ∧
        t.pwr.waiting = none ∧
        (power ≤ c ∨ s.pwr.floor = true → t.pwr.follow = none ∧ t.pwr.capLag = false) ∧
        (c < power → s.pwr.floor = false → (∀ e ∈ t.parts, e.2.fill.target = 0) ∧
          ∃ f, t.pwr.follow = some f ∧ f.cap = c ∧ f.t0 = s.clk.rackTime ∧ f.p0 = power ∧ f.deadline = w.deadline ∧ f.lag1 = false ∧
            (f.lag0 = true ↔ w.deadline ≠ 0 ∧ w.deadline * s.pwr.slew < (power - c) * 1000) ∧ t.pwr.capLag = f.lag0)) ∧
      (w.capAt ≠ 0 → s.clk.rally.toNat < w.capAt.toNat → exec (.capEffective power) s = .next s)) ∧
    (∀ f, s.pwr.follow = some f →
      (f.deadline ≠ 0 → f.lag1 = false → passed s f.t0 (usUnits f.deadline) = true → f.cap < power →
        ∃ t, exec (.capLag power) s = .next t ∧ t.pwr.capLag = true ∧ t.pwr.follow = some { f with lag1 := true } ∧
          t.parts = s.parts ∧ t.clk = s.clk) ∧
      (f.deadline = 0 ∨ f.lag1 = true ∨ power ≤ f.cap → exec (.capLag power) s = .next s) ∧
      (power ≤ f.cap →
        let m := measure power { s with pwr := { s.pwr with follow := none, capLag := false, riseAt := s.clk.rackTime } }
        let step := fitStep (powerAt m) f.cap s.clk.fclk
        (∃ t, exec (.capMet power step) s = .next t ∧ t.pwr.follow = none ∧ t.pwr.capLag = false ∧
          t.clk = { s.clk with fclk := step }) ∧
        (100 ≤ s.clk.fclk → 100 ≤ step ∧ step ≤ s.clk.fclk) ∧
        (∀ g, 100 ≤ g → g ≤ 700 → g % 25 = 0 → g ≤ s.clk.fclk → powerAt m g ≤ f.cap → g ≤ step) ∧
        ∀ g, g ≠ step → exec (.capMet power g) s = .next s) ∧
      (∀ g, f.cap < power → exec (.capMet power g) s = .next s))

/-- Heat and droop: the throttle engages at its threshold, takes FCLK down by 50 MHz every 100 µs once the fill is gone, to 100
MHz at the least, and is released
when every reading is 3 °C below; the floor threshold is a cause of the floor state; FCLK periods are stretched from a droop until the
rail has recovered for 16 of them (R305, R315). -/
def Obligations.HeatAndDroop : Prop :=
  ∀ (code power : Nat) (temp : W16) (s : State), memoriesOk s →
    (powered s = true → code < 45 → goodSensor s code → hotAt code s.thm.throttle temp = true → s.pwr.throttle = false →
      ∃ t, exec (.thermThrottle code temp) s = .next t ∧ t.pwr.throttle = true ∧ t.pwr.throttleStep = s.clk.rackTime ∧
        t.clk = s.clk ∧ (t.thm.sensors[code]?).map (·.temp) = (s.thm.sensors[code]?).map fun _ => temp) ∧
    (s.pwr.throttle = true → s.pwr.floor = false → s.pwr.follow = none → fillTotal s = 0 → anyHot s s.thm.throttle = true →
      passed s s.pwr.throttleStep (usUnits 100) = true → ∃ t, exec .throttleStep s = .next t ∧ 100 ≤ t.clk.fclk ∧ (150 ≤ s.clk.fclk → t.clk.fclk + 50 = s.clk.fclk) ∧
        t = { s with clk := { s.clk with fclk := t.clk.fclk }, pwr := { s.pwr with throttleStep := s.clk.rackTime } }) ∧
    (s.pwr.floor = true ∨ s.pwr.follow ≠ none ∨ fillTotal s ≠ 0 → exec .throttleStep s = .next s) ∧
    (powered s = true → code < 45 → s.pwr.throttle = true →
      (∀ i, i < 45 → toSigned 16 (positionTemp (setReading code temp s) i).toNat ≤ sensorThreshold i (s.thm.throttle - 3)) →
      ∃ t, exec (.throttleRelease code temp) s = .next t ∧ t.pwr.throttle = false ∧ t.pwr.throttleRise = true ∧
        t.pwr.causes.getLsbD 3 = false ∧ t.clk = s.clk) ∧
    (powered s = true → code < 45 → goodSensor s code → hotAt code s.thm.floor temp = true → s.pwr.causes.getLsbD 3 = false →
      ∃ t, exec (.thermalFloor code temp power) s = .next t ∧ t.pwr.floor = true ∧ t.pwr.causes.getLsbD 3 = true ∧
        (s.pwr.floor = false → t.clk.fclk = 100)) ∧
    (powered s = true → exec .droopDetect s = .next { s with clk := { s.clk with stretched := true, recovered := 0 } }) ∧
    (s.clk.stretched = true → 16 ≤ s.clk.recovered →
      exec .droopRecover s = .next { s with clk := { s.clk with stretched := false, recovered := 0 } }) ∧
    (s.clk.recovered < 16 → exec .droopRecover s = .next s)

/-- Load fill, hints and energy: an episode ends when all fill is zero, and is reported above 100 W; a heavy hint starts the fill toward
the lesser of W and the demand, a light one paces the running command; unclaimed fill falls 10 ms after it is reached and a light hint
ends 1 ms after its time; every 10 µs the energy counters take what was used, each queue what its commands are charged, and a due snapshot
copies them; where nothing has been moved, the command that executes on the one busy partition is charged the energy of its column groups
(R312, R313, R317, R318, R357). That an update charges the commands executing at it is the model's choice (log 14). -/
def Obligations.FillHintsAndEnergy : Prop :=
  ∀ (part total fill power energy : Nat) (cgs units : List Nat) (s : State),
    (powered s = true → passed s (Tbl.getD s.nrg.live 0x20 0) (usUnits 10) = true →
      let l := energyCharges s cgs (units.getD 0 0) (units.getD 1 0)
      (∀ p k, s.nrg.moved = [] → Tbl.get? s.parts part = some p → p.first = part → p.running = some k → k.1 ≠ fwQueue →
        (∀ e ∈ s.parts, e = (part, p) ∨ (e.2.running = none ∧ e.2.saving = none)) → s.parts.Nodup →
        ∀ q, queueCharge l q = if q = k.1 then ((List.range p.count).map fun i => cgs.getD (part + i) 0).sum else 0) ∧
      ∃ t, exec (.energyUpdate total fill cgs units) s = .next t ∧
        (let b := fun (o n : Nat) => Tbl.getD t.nrg.live o 0 = Tbl.getD s.nrg.live o 0 + BitVec.ofNat 64 n
         b 0 total ∧ b 8 fill ∧ b 0x18 (queueCharge l 64) ∧ (∀ q, q < 64 → b (0x200 + 8 * q) (queueCharge l q)) ∧
           ∀ g, g < 32 → b (0x100 + 8 * g) (cgs.getD g 0)) ∧
        Tbl.getD t.nrg.live 0x10 0 = Tbl.getD s.nrg.live 0x10 0 + BitVec.ofNat 64 total - BitVec.ofNat 64 fill
          - BitVec.ofNat 64 ((List.range 65).map (queueCharge l)).sum ∧
        (∀ c ∈ s.cmds, { c with energy := c.energy + cmdCharge l c.key } ∈ t.cmds) ∧
        Tbl.getD t.nrg.live 0x20 0 = s.clk.rackTime ∧ t.nrg.snap = false ∧
        t.nrg.copies = (if s.nrg.snap then t.nrg.live else s.nrg.copies)) ∧
    (∀ e, s.pwr.episode = some e → anyFill s = false →
      ∃ t, exec (.rampFill power energy) s = .next t ∧ t.pwr.episode = none ∧
        t.evq.seq = if 100 < e.fill ∧ (s.pwr.rampFills.filter fun x => decide (elapsed x s.clk.rackTime < 400000000)).length < 10
          then s.evq.seq + 1 + (if s.evq.overflow && evqFree s.evq != 0 then 1 else 0) else s.evq.seq) ∧
    (∀ p, Tbl.get? s.parts part = some p →
      (∀ h, p.hints.find? (fun h => !h.active && reached s h.at_) = some h →
        (h.heavy = true → demandRunning s p = false → p.handed = none → fillAllowed s = true →
          let now := fillNow s p
          let want := min h.power (demandOf s p)
          ∃ t q, exec (.hintLeadTime part) s = .next t ∧ Tbl.get? t.parts part = some q ∧ q.hints = p.hints.erase h ∧
            (now < want → q.fill.start = now ∧ q.fill.target = now + min (want - now) (fillRoom s p) ∧
              q.fill.since = s.clk.rackTime ∧ q.fill.hinted = true) ∧
            (want ≤ now → q.fill = p.fill)) ∧
        (h.heavy = false → demandRunning s p = true → ∃ t q, exec (.hintLeadTime part) s = .next t ∧
          Tbl.get? t.parts part = some q ∧ q.hints = p.hints.erase h ++ [{ h with active := true }] ∧
          fillNow t q = fillNow s p ∧ q.fill.target = p.fill.target ∧
          (q.pace.map fun f => (f.start, f.target)) = some (runPower s p, runPower s p - h.power))) ∧
      (p.fill.hinted = true → p.fill.target ≠ 0 → passed s p.fill.since (p.fill.dur + msUnits 10) = true →
        ∃ t q, exec (.hintFillTimeout part) s = .next t ∧ Tbl.get? t.parts part = some q ∧ q.fill.start = fillNow s p ∧
          q.fill.target = 0 ∧ q.fill.since = s.clk.rackTime ∧ q.fill.hinted = false) ∧
      (∀ h, p.hints.find? (fun h => !h.heavy && h.active && reached s (h.due + BitVec.ofNat 64 (msUnits 1))) = some h →
        ∃ t q, exec (.hintLightRecovery part) s = .next t ∧ Tbl.get? t.parts part = some q ∧ q.hints = p.hints.erase h ∧
          fillNow t q = fillNow s p ∧ q.fill.target = p.fill.target ∧ (q.pace.map fun f => (f.start, f.target)) =
            if demandRunning s p = true ∧ p.pace.isSome = true then some (runPower s p, demandOf s p)
            else p.pace.map fun f => (f.start, f.target)))

/-! ### Den, boot, the host link -/

/-- The part enters DEN when its time has passed, with no tile contents left, and wakes READY with its ports training; the boot ROM takes
the first image that passes, the preferred one first; READY resets the doorbells and blows the fuses; after an activation
FW_ACTIVATED follows; a hot reset closes every job and disables the rings; RACKCLK and CXL_REFCLK are lost and come back
(R295, R319, R320, R375, R377-R382, R391, R394). The device state after a hot reset, DEN, SERVICE and a DRAIN that the rack manager asks
for kept and else READY, is the model's reading (log 19). -/
def Obligations.DenBootAndHostLink : Prop :=
  ∀ (hbm : Byte) (ddr : BitVec 12) (dimmGib : List Nat) (faults : List (Nat × Nat × Nat)) (s : State), memoriesOk s →
    (s.glb.denEntry = true → passed s s.glb.sleepAt (denUnits s) = true → ∃ t, exec .denEntered s = .next t ∧
      t.glb.state = .den ∧ t.glb.denEntry = false ∧ t.glb.sleep = none ∧ t.tiles = [] ∧ inputPower t = 70 ∧
      ∀ i ∈ tileDomains, i ∈ t.pwr.domainsOff) ∧
    (s.glb.state = .den → s.glb.wake = true → passed s s.glb.wakeAt (max (usUnits 400) (rampUnits s 250)) = true →
      ∃ t, exec .woke s = .next t ∧ t.glb = { s.glb with state := .ready, wake := false } ∧ t.pwr.domainsOff = spareOff s ∧
        (s.glb.denEntry = false → s.pwr.floor = false → s.parts = [] → s.pwr.loose = [] → inputPower t = 320) ∧
        ∀ i, i < 9 → (i = 8 ∨ idKnown s = true) →
          (t.lnk.ports[i]?).map (·.state) = (s.lnk.ports[i]?).map fun _ => LinkState.training) ∧
    (s.glb.state = .boot → s.boot.activating = false → s.boot.accepted = false → s.boot.failed = false →
      (∀ b, [preferredImage s.boot.flash, !preferredImage s.boot.flash].find? (fwPasses s.boot) = some b →
        ∃ t, exec .bootImageCheck s = .next t ∧ t.boot.accepted = true ∧ t.boot.image = b ∧
          t.boot.identity = mldsaPublic s.boot.seed ∧ t.boot.measurement = fwDigest (fwImage s.boot.flash b) ∧
          t.glb = { s.glb with fwVer := BitVec.ofNat 32 (fwVersion (fwImage s.boot.flash b)) }) ∧
      (fwPasses s.boot false = false → fwPasses s.boot true = false → ∃ t, exec .bootImageCheck s = .next t ∧
        t.boot = { s.boot with failed := true, romReport := t.boot.romReport, identity := mldsaPublic s.boot.seed } ∧
        t.boot.romReport.length = 2 ∧ t.glb = { s.glb with fwVer := 0xFFFFFFFF })) ∧
    (s.glb.state = .boot → s.boot.accepted = true → ∃ t, exec (.ready hbm ddr dimmGib faults) s = .next t ∧
      t.glb.state = .ready ∧ t.qdb.doorbells = [] ∧
      t.boot.counter = if s.boot.prefFailed = false ∧ s.boot.counter < s.boot.svn then s.boot.svn else s.boot.counter) ∧
    (s.boot.restart = true → s.glb.state ≠ .boot → s.glb.state ≠ .off → ∃ t, exec .fwActivated s = .next t ∧
      t.boot = { s.boot with restart := false } ∧
      t.evq.seq = s.evq.seq + 1 + (if s.evq.overflow && evqFree s.evq != 0 && s.evq.everEn then 1 else 0)) ∧
    (s.glb.state ≠ .off → s.glb.state ≠ .boot → ∃ t, exec .hotReset s = .next t ∧ t.queues = [] ∧ t.qdb = Qdb.reset ∧
      t.evq.en = false ∧ t.msix = Msix.reset ∧ t.jobs = [] ∧ t.att.snoop = [] ∧ t.att.linkUp = s.clk.cxlRef ∧
      (s.glb.state = .den ∨ s.glb.state = .service → t.glb.state = s.glb.state) ∧
      (s.glb.state = .drain → s.glb.drainReq = true → t.glb.state = .drain) ∧
      (s.glb.state ≠ .den → s.glb.state ≠ .service → s.glb.drainReq = false → t.glb.state = .ready)) ∧
    (s.glb.state ≠ .off → ∃ t, exec .cxlRefclkLoss s = .next t ∧ t.clk.cxlRef = false ∧ t.att.linkUp = false) ∧
    (s.clk.rackclk = true → ∃ t, exec .rackclkLoss s = .next t ∧ t.clk.rackclk = false ∧ t.clk.rackclkLost = true ∧
      t.clk.rallySync = false ∧ t.clk.rallyLocked = false ∧ t.clk.rackTime = s.clk.rackTime) ∧
    (exec .rackclkStart s = .next { s with clk := { s.clk with rackclk := true, rackclkLost := false } })

/-! ### Links, peers and the rack manager -/

/-- Flits and ports: a flit that fails its CRC counts and asks for a NAK, one out of order is discarded, one in order from a peer that may
speak is taken and marks the peer up, one of another tenant is dropped and counted; unacknowledged flits are sent again, the eighth
time the port retrains; read requests are answered with the data asked for, in one burst; ports go down, lose lanes, train and come up
(R286, R290-R294, R299). That an error answer is two bytes of status, and that a NAK stands on the wire at once, are the model's
choices (log 21). -/
def Obligations.LinksCarryFlits : Prop :=
  ∀ (port good lane spare cause : Nat) (flit : List Byte) (x : LinkPort) (s : State), memoriesOk s → port ≤ 8 →
    s.lnk.ports[port]? = some x →
    (x.state = .up →
      let b := sliceB flit 0 256
      let f := readFlit b
      (crc32 (b.take 252) ≠ fieldAt b 252 4 → ∃ t w, exec (.flitReceive port flit) s = .next t ∧ t = { s with lnk := t.lnk } ∧
        (portAt t port).crcErr = x.crcErr + 1 ∧ (portAt t port).rxSeq = x.rxSeq ∧ (portAt t port).wire = x.wire ++ [w] ∧
        bitAt (fieldAt w 248 4) 24 = true) ∧
      (crc32 (b.take 252) = fieldAt b 252 4 → f.type ≠ 0 → f.type ≠ 9 → f.lseq ≠ x.rxSeq.toNat →
        exec (.flitReceive port flit) s = .next s) ∧
      (crc32 (b.take 252) = fieldAt b 252 4 → f.lseq = x.rxSeq.toNat → (1 ≤ f.type ∧ f.type ≤ 4) ∨ f.type = 7 →
        (enabled s f.src = true → f.tenant = s.lnk.tenant.toNat → ∃ t, exec (.flitReceive port flit) s = .next t ∧
          (portAt t port).rxSeq = x.rxSeq + 1 ∧ (portAt t port).ack = x.rxSeq ∧ (peerAt t f.src).up = true ∧
          (peerAt t f.src).lastRx = s.clk.rackTime ∧ f.src ∈ (portAt t port).reach) ∧
        (enabled s f.src = false ∨ f.tenant ≠ s.lnk.tenant.toNat → ∃ t, exec (.flitReceive port flit) s = .next t ∧
          (portAt t port).rxSeq = x.rxSeq + 1 ∧ (portAt t port).tenantDrop = x.tenantDrop + 1 ∧ t.lnk.msgs = s.lnk.msgs))) ∧
    (∀ f rest, x.state = .up → x.buf = f :: rest → passed s x.waiting (usUnits 2) = true →
      (f.resends + 1 < 8 → ∃ t, exec (.replayTimeout port) s = .next t ∧
        (portAt t port).wire = x.wire ++ x.buf.map (·.bytes) ∧
        (portAt t port).replays = x.replays + BitVec.ofNat 64 x.buf.length ∧ (portAt t port).state = .up) ∧
      (8 ≤ f.resends + 1 → ∃ t, exec (.replayTimeout port) s = .next t ∧ (portAt t port).state = .retraining ∧
        (portAt t port).wire = x.wire ++ x.buf.map (·.bytes) ∧ (portAt t port).retrain = x.retrain + 1 ∧ (portAt t port).buf.length = x.buf.length)) ∧
    (∀ r rest y, s.lnk.rdreqs = r :: rest → running s = true → enabled s r.src = true → answerable s r = true →
      portsTo s r.src = [port] → x = y → y.state = .up → 17 ≤ y.credit1 → y.buf.length + 17 ≤ 512 → y.queue = [] →
      let sent := fun (t : State) (a : List Byte) => t.lnk.rdreqs = rest ∧
        (portAt t port).wire.length = y.wire.length + ceilDiv (16 + a.length) 240 ∧
        (portAt t port).credit1 + ceilDiv (16 + a.length) 240 = y.credit1 ∧
        (((portAt t port).wire.drop y.wire.length).flatMap fun w => sliceB w 8 240).take (16 + a.length) =
          burstHeader r.id a.length 1 true 0 ++ a
      (∀ l b s2, requested s r = .inr l → spanBytes l { s with lnk := { s.lnk with rdreqs := rest } } = (some b, s2) →
        0 < r.len → r.len ≤ 4032 → ∃ t, exec .rdreqServe s = .next t ∧ sent t (readAnswer s r b)) ∧
      (∀ st, requested s r = .inl st → ∃ t, exec .rdreqServe s = .next t ∧ sent t (leBytes 2 (statusCode st)))) ∧
    (powered s = true → downCause x port cause good = true → ∃ t, exec (.linkDown port cause good) s = .next t ∧
      (portAt t port).state = .down ∧ portUp? t port = false) ∧
    (x.state = .up → x.spares ≠ 0 → cause ≤ 1 → ∃ t, exec (.laneSpared port lane spare cause) s = .next t ∧
      t.lnk.ports[port]? = some { x with spares := x.spares - 1, good := x.good - 1 }) ∧
    (x.state = .up → x.spares = 0 → cause ≤ 1 →
      (minLanes port ≤ x.good - 1 → ∃ t, exec (.laneSpared port lane spare cause) s = .next t ∧
        t.lnk.ports[port]? = some { x with good := x.good - 1, lanes := lanesFor port (x.good - 1),
                                           spares := x.good - 1 - lanesFor port (x.good - 1) }) ∧
      (x.good - 1 < minLanes port → ∃ t, exec (.laneSpared port lane spare cause) s = .next t ∧ (portAt t port).state = .down)) ∧
    (powered s = true → x.state = .down → passed s x.tried (msUnits 1000) = true → port = 8 ∨ idKnown s = true →
      ∃ t, exec (.portTrainRetry port) s = .next t ∧ t = { s with lnk := t.lnk } ∧
        t.lnk.ports[port]? = some { x with state := .training, tried := s.clk.rackTime }) ∧
    (x.state = .training → minLanes port ≤ min good (if port = 8 then 18 else 5) →
      ∃ t, exec (.portUp port good) s = .next t ∧ ((portAt t port).spares ≠ 0 → t = { s with lnk := t.lnk }) ∧
        (portAt t port).state = .up ∧
        (portAt t port).lanes = (if port = 8 then (if 16 ≤ good then 16 else 8) else 4) ∧
        (portAt t port).lanes + (portAt t port).spares = min good (if port = 8 then 18 else 5) ∧ (portAt t port).buf = [] ∧
        (portAt t port).rxSeq = 0)

/-- Peers, the rally counter and the rack manager: KEEPALIVE goes out to an enabled peer, on every port that leads toward it as the model
reads the rule (log 33); a silent peer is down; an
exchange sets the counter first, then steers it by one tick, and eight offsets in a row within 20 ns synchronise it, one beyond loses it,
as 50 µs without a reply does; MG_PARTID, MG_RACKTIME, MG_PEERMASK, MG_TENANT and MG_DRAIN take effect
(R215, R282, R286, R295, R296, R299, R364, R365). -/
def Obligations.PeersRallyAndRackManager : Prop :=
  ∀ (peer port res1 res2 : Nat) (t1 t2 t3 t4 v : W64) (be : BitVec 8) (b : Byte) (s : State), memoriesOk s →
    (enabled s peer = true → passed s (peerAt s peer).lastTx (usUnits 10) = true → ∃ t, exec (.keepalive peer) s = .next t ∧
      (keepalivePorts s peer ≠ [] → (peerAt t peer).lastTx = s.clk.rackTime) ∧
      ∀ i ∈ keepalivePorts s peer, ∀ x, s.lnk.ports[i]? = some x → 1 ≤ x.credit1 → x.buf.length < 512 → x.queue = [] →
        (portAt t i).wire.length = x.wire.length + 1) ∧
    (enabled s peer = true → (peerAt s peer).up = true → passed s (peerAt s peer).lastRx (usUnits 50) = true ∨ reachable s peer = false →
      ∃ t, exec (.peerDownTimeout peer) s = .next t ∧ (peerAt t peer).up = false) ∧
    (rallyPort s = some port → s.clk.rallyMaster.toNat ≠ s.glb.partId.toNat → passed s s.clk.rallyReplyAt (usUnits 10) = true →
      let off := rallyOffsetOf t1 t2 t3 t4 res1 res2
      ∃ t, exec (.rallyExchange port t1 t2 t3 t4 res1 res2) s = .next t ∧ t.clk.rallyOffset = off ∧
        (s.clk.rallyLocked = false → t.clk.rally = s.clk.rally + BitVec.ofInt 64 off ∧ t.clk.rallyLocked = true) ∧
        (s.clk.rallyLocked = true → s.clk.rallySync = false → t.clk.rally = s.clk.rally ∧
          (-16 ≤ off ∧ off ≤ 16 → t.clk.rallyGood = s.clk.rallyGood + 1 ∧
            t.clk.rallySync = (decide (8 ≤ s.clk.rallyGood + 1) && s.clk.rackclk)) ∧
          (off < -16 ∨ 16 < off → t.clk.rallyGood = 0 ∧ t.clk.rallySync = false)) ∧
        (s.clk.rallyLocked = true → s.clk.rallySync = true →
          (0 < off → off ≤ 16 → t.clk.rally = s.clk.rally + 1 ∧ t.clk.rallySync = true) ∧
          (-16 ≤ off → off < 0 → t.clk.rally = s.clk.rally - 1 ∧ t.clk.rallySync = true) ∧
          (off < -16 ∨ 16 < off → t.clk.rallySync = false ∧ t.clk.rallyLocked = false))) ∧
    (s.clk.rallySync = true → s.clk.rallyMaster.toNat ≠ s.glb.partId.toNat → passed s s.clk.rallyReplyAt (usUnits 50) = true → ∃ t, exec (.rallyUnsync port) s = .next t ∧
      t.clk = { s.clk with rallySync := false, rallyLocked := false, rallyGood := 0 }) ∧
    (powered s = true →
      (s.pins.chipSrc = true → s.glb.partSet = false → ∃ t, exec (.mgPartid b) s = .next t ∧
        t.glb = { s.glb with partId := b.setWidth 6, partSet := true } ∧
        ∀ i, i < 8 → ∀ x, s.lnk.ports[i]? = some x → x.state = .down → (portAt t i).state = .training) ∧
      (s.pins.chipSrc = false ∨ s.glb.partSet = true → exec (.mgPartid b) s = .next s) ∧
      (s.clk.rtLoaded = false → exec (.mgRacktime v 0xFF) s = .next { s with clk := { s.clk with rackTime := v, rtLoaded := true } }) ∧
      (s.clk.rtLoaded = true ∨ be ≠ 0xFF → exec (.mgRacktime v be) s = .next s) ∧
      (∃ t, exec (.mgPeermask v be) s = .next t ∧ ∀ i, i < 64 →
        t.lnk.mask.getLsbD i = if be.getLsbD (i / 8) then v.getLsbD i else s.lnk.mask.getLsbD i) ∧
      exec (.mgTenant b) s = .next { s with lnk := { s.lnk with tenant := b } } ∧
      (∃ t, exec (.mgDrain b) s = .next t ∧ (s.glb.sleep = none → t = { s with glb := t.glb }) ∧ t.glb.drainReq = b.getLsbD 0 ∧
        (b.getLsbD 0 = true → s.glb.state = .active → t.glb.state = .drain) ∧
        (b.getLsbD 0 = false → s.glb.state = .drain → s.glb.sleep = none →
          t.glb.state = if anyExecuting s || anyTurn s then .active else .ready)))
end

