-- ==== Sys2Proof/Laws/Memory.lean ====
section
/-! SUPPORT. Byte storage: the canonical form is kept by every operation, and what a byte reads after each of them. -/
namespace Sys2Proof.Machine

theorem Mem.wfFrom_mono {m : Mem} {a b : Nat} (h : Mem.wfFrom b m = true) (hab : a ≤ b) : Mem.wfFrom a m = true := by
  cases m with
  | nil => rfl
  | cons c t =>
    simp only [Mem.wfFrom, Bool.and_eq_true, decide_eq_true_eq] at h ⊢
    exact ⟨⟨by omega, h.1.2⟩, h.2⟩

/-- Below the first address that may be listed every byte reads 0x00. -/
theorem Mem.get_below {m : Mem} {lo a : Nat} (h : Mem.wfFrom lo m = true) (ha : a < lo) : Mem.get m a = 0 := by
  induction m generalizing lo with
  | nil => rfl
  | cons c t ih =>
    simp only [Mem.wfFrom, Bool.and_eq_true, decide_eq_true_eq] at h
    rw [Mem.get, if_neg (by omega)]
    exact ih h.2 (by omega)

theorem Mem.wfFrom_put {m : Mem} {lo a : Nat} (b : Byte) (h : Mem.wfFrom lo m = true) (ha : lo ≤ a) :
    Mem.wfFrom lo (Mem.put m a b) = true := by
  induction m generalizing lo with
  | nil =>
    rw [Mem.put]
    split
    · rfl
    · rename_i hb
      simp only [Mem.wfFrom, Bool.and_eq_true, decide_eq_true_eq]
      exact ⟨⟨ha, by simpa using hb⟩, trivial⟩
  | cons c t ih =>
    obtain ⟨k, v⟩ := c
    have h0 := h
    simp only [Mem.wfFrom, Bool.and_eq_true, decide_eq_true_eq] at h
    simp only [Mem.put]
    split
    · split
      · exact h0
      · rename_i hlt hb
        simp only [Mem.wfFrom, Bool.and_eq_true, decide_eq_true_eq]
        exact ⟨⟨ha, by simpa using hb⟩, ⟨by omega, h.1.2⟩, h.2⟩
    · split
      · split
        · exact Mem.wfFrom_mono h.2 (by omega)
        · rename_i hb
          simp only [Mem.wfFrom, Bool.and_eq_true, decide_eq_true_eq]
          exact ⟨⟨ha, by simpa using hb⟩, by subst_vars; exact h.2⟩
      · simp only [Mem.wfFrom, Bool.and_eq_true, decide_eq_true_eq]
        exact ⟨h.1, ih h.2 (by omega)⟩

/-- A byte after one byte was stored. -/
theorem Mem.get_put {m : Mem} {lo : Nat} (h : Mem.wfFrom lo m = true) (a : Nat) (b : Byte) (x : Nat) :
    Mem.get (Mem.put m a b) x = if x = a then b else Mem.get m x := by
  induction m generalizing lo with
  | nil =>
    rw [Mem.put]
    split
    · rename_i hb
      rw [hb]
      simp only [Mem.get, ite_self]
    · simp only [Mem.get, eq_comm]
  | cons c t ih =>
    obtain ⟨k, v⟩ := c
    simp only [Mem.wfFrom, Bool.and_eq_true, decide_eq_true_eq] at h
    simp only [Mem.put]
    split
    · rename_i hlt
      split
      · rename_i hb
        split
        · rename_i hx
          rw [hx, hb, Mem.get, if_neg (by omega)]
          exact Mem.get_below h.2 (by omega)
        · rfl
      · simp [Mem.get, eq_comm]
    · split
      · rename_i h1 h2
        split
        · rename_i hb
          split
          · rename_i hx
            rw [hx, hb]
            exact Mem.get_below h.2 (by omega)
          · rename_i hx
            rw [Mem.get.eq_2, if_neg (by omega)]
        · simp only [Mem.get]
          by_cases hx : x = a
          · simp [hx]
          · have h3 : ¬a = x := fun h => hx h.symm
            have h4 : ¬k = x := fun h => hx (h2 ▸ h.symm)
            rw [if_neg h3, if_neg hx, if_neg h4]
      · rename_i h1 h2
        simp only [Mem.get]
        split
        · rename_i hk
          rw [if_neg (by omega)]
        · exact ih h.2

theorem Mem.wfFrom_canon (m : Mem) : Mem.wfFrom 0 (Mem.canon m) = true := by
  induction m with
  | nil => rfl
  | cons c t ih => exact Mem.wfFrom_put c.2 ih (Nat.zero_le _)

/-- Every memory a step leaves is in canonical form. -/
theorem Mem.wf_canon (m : Mem) : Mem.wf (Mem.canon m) = true := Mem.wfFrom_canon m

/-- The canonical form reads as the cells it was made from. -/
@[simp] theorem Mem.get_canon (m : Mem) (a : Nat) : Mem.get (Mem.canon m) a = Mem.get m a := by
  induction m with
  | nil => rfl
  | cons c t ih =>
    show Mem.get (Mem.put (Mem.canon t) c.1 c.2) a = _
    rw [Mem.get_put (Mem.wfFrom_canon t), ih]
    obtain ⟨k, v⟩ := c
    simp [Mem.get, eq_comm]

@[simp] theorem Mem.read_canon (m : Mem) (a n : Nat) : Mem.read (Mem.canon m) a n = Mem.read m a n := by
  simp [Mem.read]

theorem Mem.put_front {m : Mem} {k : Nat} {v : Byte} (h : Mem.wfFrom (k + 1) m = true) (hv : v ≠ 0) :
    Mem.put m k v = (k, v) :: m := by
  cases m with
  | nil => rw [Mem.put, if_neg hv]
  | cons c t =>
    simp only [Mem.wfFrom, Bool.and_eq_true, decide_eq_true_eq] at h
    rw [Mem.put, if_pos (by omega), if_neg hv]

/-- The canonical form of a canonical memory is itself. -/
theorem Mem.canon_of_wfFrom {m : Mem} {lo : Nat} (h : Mem.wfFrom lo m = true) : Mem.canon m = m := by
  induction m generalizing lo with
  | nil => rfl
  | cons c t ih =>
    simp only [Mem.wfFrom, Bool.and_eq_true, decide_eq_true_eq, bne_iff_ne] at h
    show Mem.put (Mem.canon t) c.1 c.2 = _
    rw [ih h.2, Mem.put_front h.2 h.1.2]

theorem Mem.canon_of_wf {m : Mem} (h : Mem.wf m = true) : Mem.canon m = m := Mem.canon_of_wfFrom h

theorem Mem.wf_write {m : Mem} (a : Nat) (b : List Byte) (h : Mem.wf m = true) : Mem.wf (Mem.write m a b) = true := by
  induction b generalizing m a with
  | nil => exact h
  | cons x xs ih => exact ih (a + 1) (Mem.wfFrom_put x h (Nat.zero_le _))

/-- A byte after a run of bytes was stored. -/
theorem Mem.get_write {m : Mem} (h : Mem.wf m = true) (a : Nat) (b : List Byte) (x : Nat) :
    Mem.get (Mem.write m a b) x = if a ≤ x ∧ x < a + b.length then b.getD (x - a) 0 else Mem.get m x := by
  induction b generalizing m a with
  | nil =>
    rw [Mem.write, if_neg (by rintro ⟨h1, h2⟩; simp at h2; omega)]
  | cons y ys ih =>
    rw [Mem.write, ih (Mem.wfFrom_put y h (Nat.zero_le _)) (a + 1), Mem.get_put h]
    by_cases h1 : x = a
    · subst h1
      rw [if_neg (by omega), if_pos rfl, if_pos (by simp)]
      simp
    · by_cases h2 : a ≤ x ∧ x < a + (ys.length + 1)
      · rw [if_pos (by omega), if_pos (by simpa using h2)]
        have : x - a = x - (a + 1) + 1 := by omega
        simp [this]
      · rw [if_neg (by omega), if_neg h1, if_neg (by simpa using h2)]

/-- What was stored reads back. -/
theorem Mem.read_write {m : Mem} (h : Mem.wf m = true) (a : Nat) (b : List Byte) :
    Mem.read (Mem.write m a b) a b.length = b := by
  apply List.ext_getElem
  · simp [Mem.read]
  · intro i h1 h2
    simp only [Mem.read, List.getElem_map, List.getElem_range, Mem.get_write h]
    rw [if_pos (by omega)]
    simp [h2]

theorem Mem.wfFrom_filter {m : Mem} {lo : Nat} (p : Host.Cell → Bool) (h : Mem.wfFrom lo m = true) :
    Mem.wfFrom lo (m.filter p) = true := by
  induction m generalizing lo with
  | nil => rfl
  | cons c t ih =>
    simp only [Mem.wfFrom, Bool.and_eq_true, decide_eq_true_eq] at h
    rw [List.filter_cons]
    split
    · simp only [Mem.wfFrom, Bool.and_eq_true, decide_eq_true_eq]
      exact ⟨h.1, ih h.2⟩
    · exact Mem.wfFrom_mono (ih h.2) (by omega)

theorem Mem.wf_clear {m : Mem} (a n : Nat) (h : Mem.wf m = true) : Mem.wf (Mem.clear m a n) = true :=
  Mem.wfFrom_filter _ h

theorem Mem.get_filter (m : Mem) (p : Nat → Bool) (x : Nat) :
    Mem.get (m.filter fun c => p c.1) x = if p x then Mem.get m x else 0 := by
  induction m with
  | nil => simp [Mem.get]
  | cons c t ih =>
    obtain ⟨k, v⟩ := c
    rw [List.filter_cons]
    by_cases hk : k = x
    · subst hk
      by_cases hp : p k = true
      · simp [hp, Mem.get]
      · simp [hp, ih]
    · by_cases hp : p k = true
      · simp [hp, Mem.get, hk, ih]
      · simp [hp, Mem.get, hk, ih]

/-- A byte after a span was set to 0x00. -/
theorem Mem.get_clear (m : Mem) (a n x : Nat) :
    Mem.get (Mem.clear m a n) x = if x < a ∨ a + n ≤ x then Mem.get m x else 0 := by
  have := Mem.get_filter m (fun k => decide (k < a) || decide (a + n ≤ k)) x
  simpa [Mem.clear] using this

theorem Mem.wf_paste {m : Mem} (a n : Nat) (cells : Mem) (h : Mem.wf m = true) : Mem.wf (Mem.paste m a n cells) = true := by
  have : ∀ (l : List Host.Cell) (m : Mem), Mem.wf m = true →
      Mem.wf (l.foldl (fun acc c => Mem.put acc (a + c.1) c.2) m) = true := by
    intro l
    induction l with
    | nil => exact fun _ h => h
    | cons c t ih => exact fun m h => ih _ (Mem.wfFrom_put c.2 h (Nat.zero_le _))
  exact this _ _ (Mem.wf_clear a n h)

end Sys2Proof.Machine
end

