-- ==== Sys2Proof/Laws/State.lean ====
section
/-! SUPPORT. One lemma per field for each named update of the state, and what a committed step answers. -/
namespace Sys2Proof.Machine

/-- A committed step answers the state with both memories in canonical form. -/
theorem commit_next (s : State) : commit s = .next { s with mem := Mem.canon s.mem, host := Mem.canon s.host } := rfl

/-! ### setTile -/

@[simp] theorem setTile_pending (i : Nat) (t : Tile) (s : State) : (setTile i t s).pending = s.pending := rfl
@[simp] theorem setTile_clk (i : Nat) (t : Tile) (s : State) : (setTile i t s).clk = s.clk := rfl
@[simp] theorem setTile_slow (i : Nat) (t : Tile) (s : State) : (setTile i t s).slow = s.slow := rfl
@[simp] theorem setTile_pins (i : Nat) (t : Tile) (s : State) : (setTile i t s).pins = s.pins := rfl
@[simp] theorem setTile_glb (i : Nat) (t : Tile) (s : State) : (setTile i t s).glb = s.glb := rfl
@[simp] theorem setTile_qdb (i : Nat) (t : Tile) (s : State) : (setTile i t s).qdb = s.qdb := rfl
@[simp] theorem setTile_queues (i : Nat) (t : Tile) (s : State) : (setTile i t s).queues = s.queues := rfl
@[simp] theorem setTile_evq (i : Nat) (t : Tile) (s : State) : (setTile i t s).evq = s.evq := rfl
@[simp] theorem setTile_msix (i : Nat) (t : Tile) (s : State) : (setTile i t s).msix = s.msix := rfl
@[simp] theorem setTile_interims (i : Nat) (t : Tile) (s : State) : (setTile i t s).interims = s.interims := rfl
@[simp] theorem setTile_features (i : Nat) (t : Tile) (s : State) : (setTile i t s).features = s.features := rfl
@[simp] theorem setTile_trace (i : Nat) (t : Tile) (s : State) : (setTile i t s).trace = s.trace := rfl
@[simp] theorem setTile_jobs (i : Nat) (t : Tile) (s : State) : (setTile i t s).jobs = s.jobs := rfl
@[simp] theorem setTile_cmds (i : Nat) (t : Tile) (s : State) : (setTile i t s).cmds = s.cmds := rfl
@[simp] theorem setTile_parts (i : Nat) (t : Tile) (s : State) : (setTile i t s).parts = s.parts := rfl
@[simp] theorem setTile_counts (i : Nat) (t : Tile) (s : State) : (setTile i t s).counts = s.counts := rfl
@[simp] theorem setTile_tiles (i : Nat) (t : Tile) (s : State) : (setTile i t s).tiles = Tbl.set s.tiles i t := rfl
@[simp] theorem setTile_images (i : Nat) (t : Tile) (s : State) : (setTile i t s).images = s.images := rfl
@[simp] theorem setTile_objs (i : Nat) (t : Tile) (s : State) : (setTile i t s).objs = s.objs := rfl
@[simp] theorem setTile_cold (i : Nat) (t : Tile) (s : State) : (setTile i t s).cold = s.cold := rfl
@[simp] theorem setTile_descs (i : Nat) (t : Tile) (s : State) : (setTile i t s).descs = s.descs := rfl
@[simp] theorem setTile_nextDesc (i : Nat) (t : Tile) (s : State) : (setTile i t s).nextDesc = s.nextDesc := rfl
@[simp] theorem setTile_fox (i : Nat) (t : Tile) (s : State) : (setTile i t s).fox = s.fox := rfl
@[simp] theorem setTile_split (i : Nat) (t : Tile) (s : State) : (setTile i t s).split = s.split := rfl
@[simp] theorem setTile_tiers (i : Nat) (t : Tile) (s : State) : (setTile i t s).tiers = s.tiers := rfl
@[simp] theorem setTile_tierQueue (i : Nat) (t : Tile) (s : State) : (setTile i t s).tierQueue = s.tierQueue := rfl
@[simp] theorem setTile_srv (i : Nat) (t : Tile) (s : State) : (setTile i t s).srv = s.srv := rfl
@[simp] theorem setTile_lnk (i : Nat) (t : Tile) (s : State) : (setTile i t s).lnk = s.lnk := rfl
@[simp] theorem setTile_pwr (i : Nat) (t : Tile) (s : State) : (setTile i t s).pwr = s.pwr := rfl
@[simp] theorem setTile_thm (i : Nat) (t : Tile) (s : State) : (setTile i t s).thm = s.thm := rfl
@[simp] theorem setTile_nrg (i : Nat) (t : Tile) (s : State) : (setTile i t s).nrg = s.nrg := rfl
@[simp] theorem setTile_wdog (i : Nat) (t : Tile) (s : State) : (setTile i t s).wdog = s.wdog := rfl
@[simp] theorem setTile_mctl (i : Nat) (t : Tile) (s : State) : (setTile i t s).mctl = s.mctl := rfl
@[simp] theorem setTile_ras (i : Nat) (t : Tile) (s : State) : (setTile i t s).ras = s.ras := rfl
@[simp] theorem setTile_dump (i : Nat) (t : Tile) (s : State) : (setTile i t s).dump = s.dump := rfl
@[simp] theorem setTile_att (i : Nat) (t : Tile) (s : State) : (setTile i t s).att = s.att := rfl
@[simp] theorem setTile_boot (i : Nat) (t : Tile) (s : State) : (setTile i t s).boot = s.boot := rfl
@[simp] theorem setTile_fwPages (i : Nat) (t : Tile) (s : State) : (setTile i t s).fwPages = s.fwPages := rfl
@[simp] theorem setTile_mem (i : Nat) (t : Tile) (s : State) : (setTile i t s).mem = s.mem := rfl
@[simp] theorem setTile_host (i : Nat) (t : Tile) (s : State) : (setTile i t s).host = s.host := rfl
@[simp] theorem setTile_fresh (i : Nat) (t : Tile) (s : State) : (setTile i t s).fresh = s.fresh := rfl

/-! ### onTile -/

@[simp] theorem onTile_pending (i : Nat) (f : Tile → Tile) (s : State) : (onTile i f s).pending = s.pending := rfl
@[simp] theorem onTile_clk (i : Nat) (f : Tile → Tile) (s : State) : (onTile i f s).clk = s.clk := rfl
@[simp] theorem onTile_slow (i : Nat) (f : Tile → Tile) (s : State) : (onTile i f s).slow = s.slow := rfl
@[simp] theorem onTile_pins (i : Nat) (f : Tile → Tile) (s : State) : (onTile i f s).pins = s.pins := rfl
@[simp] theorem onTile_glb (i : Nat) (f : Tile → Tile) (s : State) : (onTile i f s).glb = s.glb := rfl
@[simp] theorem onTile_qdb (i : Nat) (f : Tile → Tile) (s : State) : (onTile i f s).qdb = s.qdb := rfl
@[simp] theorem onTile_queues (i : Nat) (f : Tile → Tile) (s : State) : (onTile i f s).queues = s.queues := rfl
@[simp] theorem onTile_evq (i : Nat) (f : Tile → Tile) (s : State) : (onTile i f s).evq = s.evq := rfl
@[simp] theorem onTile_msix (i : Nat) (f : Tile → Tile) (s : State) : (onTile i f s).msix = s.msix := rfl
@[simp] theorem onTile_interims (i : Nat) (f : Tile → Tile) (s : State) : (onTile i f s).interims = s.interims := rfl
@[simp] theorem onTile_features (i : Nat) (f : Tile → Tile) (s : State) : (onTile i f s).features = s.features := rfl
@[simp] theorem onTile_trace (i : Nat) (f : Tile → Tile) (s : State) : (onTile i f s).trace = s.trace := rfl
@[simp] theorem onTile_jobs (i : Nat) (f : Tile → Tile) (s : State) : (onTile i f s).jobs = s.jobs := rfl
@[simp] theorem onTile_cmds (i : Nat) (f : Tile → Tile) (s : State) : (onTile i f s).cmds = s.cmds := rfl
@[simp] theorem onTile_parts (i : Nat) (f : Tile → Tile) (s : State) : (onTile i f s).parts = s.parts := rfl
@[simp] theorem onTile_counts (i : Nat) (f : Tile → Tile) (s : State) : (onTile i f s).counts = s.counts := rfl
@[simp] theorem onTile_tiles (i : Nat) (f : Tile → Tile) (s : State) : (onTile i f s).tiles = Tbl.set s.tiles i (f (tileAt s i)) := rfl
@[simp] theorem onTile_images (i : Nat) (f : Tile → Tile) (s : State) : (onTile i f s).images = s.images := rfl
@[simp] theorem onTile_objs (i : Nat) (f : Tile → Tile) (s : State) : (onTile i f s).objs = s.objs := rfl
@[simp] theorem onTile_cold (i : Nat) (f : Tile → Tile) (s : State) : (onTile i f s).cold = s.cold := rfl
@[simp] theorem onTile_descs (i : Nat) (f : Tile → Tile) (s : State) : (onTile i f s).descs = s.descs := rfl
@[simp] theorem onTile_nextDesc (i : Nat) (f : Tile → Tile) (s : State) : (onTile i f s).nextDesc = s.nextDesc := rfl
@[simp] theorem onTile_fox (i : Nat) (f : Tile → Tile) (s : State) : (onTile i f s).fox = s.fox := rfl
@[simp] theorem onTile_split (i : Nat) (f : Tile → Tile) (s : State) : (onTile i f s).split = s.split := rfl
@[simp] theorem onTile_tiers (i : Nat) (f : Tile → Tile) (s : State) : (onTile i f s).tiers = s.tiers := rfl
@[simp] theorem onTile_tierQueue (i : Nat) (f : Tile → Tile) (s : State) : (onTile i f s).tierQueue = s.tierQueue := rfl
@[simp] theorem onTile_srv (i : Nat) (f : Tile → Tile) (s : State) : (onTile i f s).srv = s.srv := rfl
@[simp] theorem onTile_lnk (i : Nat) (f : Tile → Tile) (s : State) : (onTile i f s).lnk = s.lnk := rfl
@[simp] theorem onTile_pwr (i : Nat) (f : Tile → Tile) (s : State) : (onTile i f s).pwr = s.pwr := rfl
@[simp] theorem onTile_thm (i : Nat) (f : Tile → Tile) (s : State) : (onTile i f s).thm = s.thm := rfl
@[simp] theorem onTile_nrg (i : Nat) (f : Tile → Tile) (s : State) : (onTile i f s).nrg = s.nrg := rfl
@[simp] theorem onTile_wdog (i : Nat) (f : Tile → Tile) (s : State) : (onTile i f s).wdog = s.wdog := rfl
@[simp] theorem onTile_mctl (i : Nat) (f : Tile → Tile) (s : State) : (onTile i f s).mctl = s.mctl := rfl
@[simp] theorem onTile_ras (i : Nat) (f : Tile → Tile) (s : State) : (onTile i f s).ras = s.ras := rfl
@[simp] theorem onTile_dump (i : Nat) (f : Tile → Tile) (s : State) : (onTile i f s).dump = s.dump := rfl
@[simp] theorem onTile_att (i : Nat) (f : Tile → Tile) (s : State) : (onTile i f s).att = s.att := rfl
@[simp] theorem onTile_boot (i : Nat) (f : Tile → Tile) (s : State) : (onTile i f s).boot = s.boot := rfl
@[simp] theorem onTile_fwPages (i : Nat) (f : Tile → Tile) (s : State) : (onTile i f s).fwPages = s.fwPages := rfl
@[simp] theorem onTile_mem (i : Nat) (f : Tile → Tile) (s : State) : (onTile i f s).mem = s.mem := rfl
@[simp] theorem onTile_host (i : Nat) (f : Tile → Tile) (s : State) : (onTile i f s).host = s.host := rfl
@[simp] theorem onTile_fresh (i : Nat) (f : Tile → Tile) (s : State) : (onTile i f s).fresh = s.fresh := rfl

/-! ### onPart -/

@[simp] theorem onPart_pending (i : Nat) (g : Part → Part) (s : State) : (onPart i g s).pending = s.pending := rfl
@[simp] theorem onPart_clk (i : Nat) (g : Part → Part) (s : State) : (onPart i g s).clk = s.clk := rfl
@[simp] theorem onPart_slow (i : Nat) (g : Part → Part) (s : State) : (onPart i g s).slow = s.slow := rfl
@[simp] theorem onPart_pins (i : Nat) (g : Part → Part) (s : State) : (onPart i g s).pins = s.pins := rfl
@[simp] theorem onPart_glb (i : Nat) (g : Part → Part) (s : State) : (onPart i g s).glb = s.glb := rfl
@[simp] theorem onPart_qdb (i : Nat) (g : Part → Part) (s : State) : (onPart i g s).qdb = s.qdb := rfl
@[simp] theorem onPart_queues (i : Nat) (g : Part → Part) (s : State) : (onPart i g s).queues = s.queues := rfl
@[simp] theorem onPart_evq (i : Nat) (g : Part → Part) (s : State) : (onPart i g s).evq = s.evq := rfl
@[simp] theorem onPart_msix (i : Nat) (g : Part → Part) (s : State) : (onPart i g s).msix = s.msix := rfl
@[simp] theorem onPart_interims (i : Nat) (g : Part → Part) (s : State) : (onPart i g s).interims = s.interims := rfl
@[simp] theorem onPart_features (i : Nat) (g : Part → Part) (s : State) : (onPart i g s).features = s.features := rfl
@[simp] theorem onPart_trace (i : Nat) (g : Part → Part) (s : State) : (onPart i g s).trace = s.trace := rfl
@[simp] theorem onPart_jobs (i : Nat) (g : Part → Part) (s : State) : (onPart i g s).jobs = s.jobs := rfl
@[simp] theorem onPart_cmds (i : Nat) (g : Part → Part) (s : State) : (onPart i g s).cmds = s.cmds := rfl
@[simp] theorem onPart_parts (i : Nat) (g : Part → Part) (s : State) : (onPart i g s).parts = Tbl.upd s.parts i g := rfl
@[simp] theorem onPart_counts (i : Nat) (g : Part → Part) (s : State) : (onPart i g s).counts = s.counts := rfl
@[simp] theorem onPart_tiles (i : Nat) (g : Part → Part) (s : State) : (onPart i g s).tiles = s.tiles := rfl
@[simp] theorem onPart_images (i : Nat) (g : Part → Part) (s : State) : (onPart i g s).images = s.images := rfl
@[simp] theorem onPart_objs (i : Nat) (g : Part → Part) (s : State) : (onPart i g s).objs = s.objs := rfl
@[simp] theorem onPart_cold (i : Nat) (g : Part → Part) (s : State) : (onPart i g s).cold = s.cold := rfl
@[simp] theorem onPart_descs (i : Nat) (g : Part → Part) (s : State) : (onPart i g s).descs = s.descs := rfl
@[simp] theorem onPart_nextDesc (i : Nat) (g : Part → Part) (s : State) : (onPart i g s).nextDesc = s.nextDesc := rfl
@[simp] theorem onPart_fox (i : Nat) (g : Part → Part) (s : State) : (onPart i g s).fox = s.fox := rfl
@[simp] theorem onPart_split (i : Nat) (g : Part → Part) (s : State) : (onPart i g s).split = s.split := rfl
@[simp] theorem onPart_tiers (i : Nat) (g : Part → Part) (s : State) : (onPart i g s).tiers = s.tiers := rfl
@[simp] theorem onPart_tierQueue (i : Nat) (g : Part → Part) (s : State) : (onPart i g s).tierQueue = s.tierQueue := rfl
@[simp] theorem onPart_srv (i : Nat) (g : Part → Part) (s : State) : (onPart i g s).srv = s.srv := rfl
@[simp] theorem onPart_lnk (i : Nat) (g : Part → Part) (s : State) : (onPart i g s).lnk = s.lnk := rfl
@[simp] theorem onPart_pwr (i : Nat) (g : Part → Part) (s : State) : (onPart i g s).pwr = s.pwr := rfl
@[simp] theorem onPart_thm (i : Nat) (g : Part → Part) (s : State) : (onPart i g s).thm = s.thm := rfl
@[simp] theorem onPart_nrg (i : Nat) (g : Part → Part) (s : State) : (onPart i g s).nrg = s.nrg := rfl
@[simp] theorem onPart_wdog (i : Nat) (g : Part → Part) (s : State) : (onPart i g s).wdog = s.wdog := rfl
@[simp] theorem onPart_mctl (i : Nat) (g : Part → Part) (s : State) : (onPart i g s).mctl = s.mctl := rfl
@[simp] theorem onPart_ras (i : Nat) (g : Part → Part) (s : State) : (onPart i g s).ras = s.ras := rfl
@[simp] theorem onPart_dump (i : Nat) (g : Part → Part) (s : State) : (onPart i g s).dump = s.dump := rfl
@[simp] theorem onPart_att (i : Nat) (g : Part → Part) (s : State) : (onPart i g s).att = s.att := rfl
@[simp] theorem onPart_boot (i : Nat) (g : Part → Part) (s : State) : (onPart i g s).boot = s.boot := rfl
@[simp] theorem onPart_fwPages (i : Nat) (g : Part → Part) (s : State) : (onPart i g s).fwPages = s.fwPages := rfl
@[simp] theorem onPart_mem (i : Nat) (g : Part → Part) (s : State) : (onPart i g s).mem = s.mem := rfl
@[simp] theorem onPart_host (i : Nat) (g : Part → Part) (s : State) : (onPart i g s).host = s.host := rfl
@[simp] theorem onPart_fresh (i : Nat) (g : Part → Part) (s : State) : (onPart i g s).fresh = s.fresh := rfl

/-! ### onJob -/

@[simp] theorem onJob_pending (i : Nat) (g : Job → Job) (s : State) : (onJob i g s).pending = s.pending := rfl
@[simp] theorem onJob_clk (i : Nat) (g : Job → Job) (s : State) : (onJob i g s).clk = s.clk := rfl
@[simp] theorem onJob_slow (i : Nat) (g : Job → Job) (s : State) : (onJob i g s).slow = s.slow := rfl
@[simp] theorem onJob_pins (i : Nat) (g : Job → Job) (s : State) : (onJob i g s).pins = s.pins := rfl
@[simp] theorem onJob_glb (i : Nat) (g : Job → Job) (s : State) : (onJob i g s).glb = s.glb := rfl
@[simp] theorem onJob_qdb (i : Nat) (g : Job → Job) (s : State) : (onJob i g s).qdb = s.qdb := rfl
@[simp] theorem onJob_queues (i : Nat) (g : Job → Job) (s : State) : (onJob i g s).queues = s.queues := rfl
@[simp] theorem onJob_evq (i : Nat) (g : Job → Job) (s : State) : (onJob i g s).evq = s.evq := rfl
@[simp] theorem onJob_msix (i : Nat) (g : Job → Job) (s : State) : (onJob i g s).msix = s.msix := rfl
@[simp] theorem onJob_interims (i : Nat) (g : Job → Job) (s : State) : (onJob i g s).interims = s.interims := rfl
@[simp] theorem onJob_features (i : Nat) (g : Job → Job) (s : State) : (onJob i g s).features = s.features := rfl
@[simp] theorem onJob_trace (i : Nat) (g : Job → Job) (s : State) : (onJob i g s).trace = s.trace := rfl
@[simp] theorem onJob_jobs (i : Nat) (g : Job → Job) (s : State) : (onJob i g s).jobs = Tbl.upd s.jobs i g := rfl
@[simp] theorem onJob_cmds (i : Nat) (g : Job → Job) (s : State) : (onJob i g s).cmds = s.cmds := rfl
@[simp] theorem onJob_parts (i : Nat) (g : Job → Job) (s : State) : (onJob i g s).parts = s.parts := rfl
@[simp] theorem onJob_counts (i : Nat) (g : Job → Job) (s : State) : (onJob i g s).counts = s.counts := rfl
@[simp] theorem onJob_tiles (i : Nat) (g : Job → Job) (s : State) : (onJob i g s).tiles = s.tiles := rfl
@[simp] theorem onJob_images (i : Nat) (g : Job → Job) (s : State) : (onJob i g s).images = s.images := rfl
@[simp] theorem onJob_objs (i : Nat) (g : Job → Job) (s : State) : (onJob i g s).objs = s.objs := rfl
@[simp] theorem onJob_cold (i : Nat) (g : Job → Job) (s : State) : (onJob i g s).cold = s.cold := rfl
@[simp] theorem onJob_descs (i : Nat) (g : Job → Job) (s : State) : (onJob i g s).descs = s.descs := rfl
@[simp] theorem onJob_nextDesc (i : Nat) (g : Job → Job) (s : State) : (onJob i g s).nextDesc = s.nextDesc := rfl
@[simp] theorem onJob_fox (i : Nat) (g : Job → Job) (s : State) : (onJob i g s).fox = s.fox := rfl
@[simp] theorem onJob_split (i : Nat) (g : Job → Job) (s : State) : (onJob i g s).split = s.split := rfl
@[simp] theorem onJob_tiers (i : Nat) (g : Job → Job) (s : State) : (onJob i g s).tiers = s.tiers := rfl
@[simp] theorem onJob_tierQueue (i : Nat) (g : Job → Job) (s : State) : (onJob i g s).tierQueue = s.tierQueue := rfl
@[simp] theorem onJob_srv (i : Nat) (g : Job → Job) (s : State) : (onJob i g s).srv = s.srv := rfl
@[simp] theorem onJob_lnk (i : Nat) (g : Job → Job) (s : State) : (onJob i g s).lnk = s.lnk := rfl
@[simp] theorem onJob_pwr (i : Nat) (g : Job → Job) (s : State) : (onJob i g s).pwr = s.pwr := rfl
@[simp] theorem onJob_thm (i : Nat) (g : Job → Job) (s : State) : (onJob i g s).thm = s.thm := rfl
@[simp] theorem onJob_nrg (i : Nat) (g : Job → Job) (s : State) : (onJob i g s).nrg = s.nrg := rfl
@[simp] theorem onJob_wdog (i : Nat) (g : Job → Job) (s : State) : (onJob i g s).wdog = s.wdog := rfl
@[simp] theorem onJob_mctl (i : Nat) (g : Job → Job) (s : State) : (onJob i g s).mctl = s.mctl := rfl
@[simp] theorem onJob_ras (i : Nat) (g : Job → Job) (s : State) : (onJob i g s).ras = s.ras := rfl
@[simp] theorem onJob_dump (i : Nat) (g : Job → Job) (s : State) : (onJob i g s).dump = s.dump := rfl
@[simp] theorem onJob_att (i : Nat) (g : Job → Job) (s : State) : (onJob i g s).att = s.att := rfl
@[simp] theorem onJob_boot (i : Nat) (g : Job → Job) (s : State) : (onJob i g s).boot = s.boot := rfl
@[simp] theorem onJob_fwPages (i : Nat) (g : Job → Job) (s : State) : (onJob i g s).fwPages = s.fwPages := rfl
@[simp] theorem onJob_mem (i : Nat) (g : Job → Job) (s : State) : (onJob i g s).mem = s.mem := rfl
@[simp] theorem onJob_host (i : Nat) (g : Job → Job) (s : State) : (onJob i g s).host = s.host := rfl
@[simp] theorem onJob_fresh (i : Nat) (g : Job → Job) (s : State) : (onJob i g s).fresh = s.fresh := rfl

/-! ### onObj -/

@[simp] theorem onObj_pending (i : Nat) (g : Obj → Obj) (s : State) : (onObj i g s).pending = s.pending := rfl
@[simp] theorem onObj_clk (i : Nat) (g : Obj → Obj) (s : State) : (onObj i g s).clk = s.clk := rfl
@[simp] theorem onObj_slow (i : Nat) (g : Obj → Obj) (s : State) : (onObj i g s).slow = s.slow := rfl
@[simp] theorem onObj_pins (i : Nat) (g : Obj → Obj) (s : State) : (onObj i g s).pins = s.pins := rfl
@[simp] theorem onObj_glb (i : Nat) (g : Obj → Obj) (s : State) : (onObj i g s).glb = s.glb := rfl
@[simp] theorem onObj_qdb (i : Nat) (g : Obj → Obj) (s : State) : (onObj i g s).qdb = s.qdb := rfl
@[simp] theorem onObj_queues (i : Nat) (g : Obj → Obj) (s : State) : (onObj i g s).queues = s.queues := rfl
@[simp] theorem onObj_evq (i : Nat) (g : Obj → Obj) (s : State) : (onObj i g s).evq = s.evq := rfl
@[simp] theorem onObj_msix (i : Nat) (g : Obj → Obj) (s : State) : (onObj i g s).msix = s.msix := rfl
@[simp] theorem onObj_interims (i : Nat) (g : Obj → Obj) (s : State) : (onObj i g s).interims = s.interims := rfl
@[simp] theorem onObj_features (i : Nat) (g : Obj → Obj) (s : State) : (onObj i g s).features = s.features := rfl
@[simp] theorem onObj_trace (i : Nat) (g : Obj → Obj) (s : State) : (onObj i g s).trace = s.trace := rfl
@[simp] theorem onObj_jobs (i : Nat) (g : Obj → Obj) (s : State) : (onObj i g s).jobs = s.jobs := rfl
@[simp] theorem onObj_cmds (i : Nat) (g : Obj → Obj) (s : State) : (onObj i g s).cmds = s.cmds := rfl
@[simp] theorem onObj_parts (i : Nat) (g : Obj → Obj) (s : State) : (onObj i g s).parts = s.parts := rfl
@[simp] theorem onObj_counts (i : Nat) (g : Obj → Obj) (s : State) : (onObj i g s).counts = s.counts := rfl
@[simp] theorem onObj_tiles (i : Nat) (g : Obj → Obj) (s : State) : (onObj i g s).tiles = s.tiles := rfl
@[simp] theorem onObj_images (i : Nat) (g : Obj → Obj) (s : State) : (onObj i g s).images = s.images := rfl
@[simp] theorem onObj_objs (i : Nat) (g : Obj → Obj) (s : State) : (onObj i g s).objs = Tbl.upd s.objs i g := rfl
@[simp] theorem onObj_cold (i : Nat) (g : Obj → Obj) (s : State) : (onObj i g s).cold = s.cold := rfl
@[simp] theorem onObj_descs (i : Nat) (g : Obj → Obj) (s : State) : (onObj i g s).descs = s.descs := rfl
@[simp] theorem onObj_nextDesc (i : Nat) (g : Obj → Obj) (s : State) : (onObj i g s).nextDesc = s.nextDesc := rfl
@[simp] theorem onObj_fox (i : Nat) (g : Obj → Obj) (s : State) : (onObj i g s).fox = s.fox := rfl
@[simp] theorem onObj_split (i : Nat) (g : Obj → Obj) (s : State) : (onObj i g s).split = s.split := rfl
@[simp] theorem onObj_tiers (i : Nat) (g : Obj → Obj) (s : State) : (onObj i g s).tiers = s.tiers := rfl
@[simp] theorem onObj_tierQueue (i : Nat) (g : Obj → Obj) (s : State) : (onObj i g s).tierQueue = s.tierQueue := rfl
@[simp] theorem onObj_srv (i : Nat) (g : Obj → Obj) (s : State) : (onObj i g s).srv = s.srv := rfl
@[simp] theorem onObj_lnk (i : Nat) (g : Obj → Obj) (s : State) : (onObj i g s).lnk = s.lnk := rfl
@[simp] theorem onObj_pwr (i : Nat) (g : Obj → Obj) (s : State) : (onObj i g s).pwr = s.pwr := rfl
@[simp] theorem onObj_thm (i : Nat) (g : Obj → Obj) (s : State) : (onObj i g s).thm = s.thm := rfl
@[simp] theorem onObj_nrg (i : Nat) (g : Obj → Obj) (s : State) : (onObj i g s).nrg = s.nrg := rfl
@[simp] theorem onObj_wdog (i : Nat) (g : Obj → Obj) (s : State) : (onObj i g s).wdog = s.wdog := rfl
@[simp] theorem onObj_mctl (i : Nat) (g : Obj → Obj) (s : State) : (onObj i g s).mctl = s.mctl := rfl
@[simp] theorem onObj_ras (i : Nat) (g : Obj → Obj) (s : State) : (onObj i g s).ras = s.ras := rfl
@[simp] theorem onObj_dump (i : Nat) (g : Obj → Obj) (s : State) : (onObj i g s).dump = s.dump := rfl
@[simp] theorem onObj_att (i : Nat) (g : Obj → Obj) (s : State) : (onObj i g s).att = s.att := rfl
@[simp] theorem onObj_boot (i : Nat) (g : Obj → Obj) (s : State) : (onObj i g s).boot = s.boot := rfl
@[simp] theorem onObj_fwPages (i : Nat) (g : Obj → Obj) (s : State) : (onObj i g s).fwPages = s.fwPages := rfl
@[simp] theorem onObj_mem (i : Nat) (g : Obj → Obj) (s : State) : (onObj i g s).mem = s.mem := rfl
@[simp] theorem onObj_host (i : Nat) (g : Obj → Obj) (s : State) : (onObj i g s).host = s.host := rfl
@[simp] theorem onObj_fresh (i : Nat) (g : Obj → Obj) (s : State) : (onObj i g s).fresh = s.fresh := rfl

/-! ### onDesc -/

@[simp] theorem onDesc_pending (i : Nat) (g : Desc → Desc) (s : State) : (onDesc i g s).pending = s.pending := rfl
@[simp] theorem onDesc_clk (i : Nat) (g : Desc → Desc) (s : State) : (onDesc i g s).clk = s.clk := rfl
@[simp] theorem onDesc_slow (i : Nat) (g : Desc → Desc) (s : State) : (onDesc i g s).slow = s.slow := rfl
@[simp] theorem onDesc_pins (i : Nat) (g : Desc → Desc) (s : State) : (onDesc i g s).pins = s.pins := rfl
@[simp] theorem onDesc_glb (i : Nat) (g : Desc → Desc) (s : State) : (onDesc i g s).glb = s.glb := rfl
@[simp] theorem onDesc_qdb (i : Nat) (g : Desc → Desc) (s : State) : (onDesc i g s).qdb = s.qdb := rfl
@[simp] theorem onDesc_queues (i : Nat) (g : Desc → Desc) (s : State) : (onDesc i g s).queues = s.queues := rfl
@[simp] theorem onDesc_evq (i : Nat) (g : Desc → Desc) (s : State) : (onDesc i g s).evq = s.evq := rfl
@[simp] theorem onDesc_msix (i : Nat) (g : Desc → Desc) (s : State) : (onDesc i g s).msix = s.msix := rfl
@[simp] theorem onDesc_interims (i : Nat) (g : Desc → Desc) (s : State) : (onDesc i g s).interims = s.interims := rfl
@[simp] theorem onDesc_features (i : Nat) (g : Desc → Desc) (s : State) : (onDesc i g s).features = s.features := rfl
@[simp] theorem onDesc_trace (i : Nat) (g : Desc → Desc) (s : State) : (onDesc i g s).trace = s.trace := rfl
@[simp] theorem onDesc_jobs (i : Nat) (g : Desc → Desc) (s : State) : (onDesc i g s).jobs = s.jobs := rfl
@[simp] theorem onDesc_cmds (i : Nat) (g : Desc → Desc) (s : State) : (onDesc i g s).cmds = s.cmds := rfl
@[simp] theorem onDesc_parts (i : Nat) (g : Desc → Desc) (s : State) : (onDesc i g s).parts = s.parts := rfl
@[simp] theorem onDesc_counts (i : Nat) (g : Desc → Desc) (s : State) : (onDesc i g s).counts = s.counts := rfl
@[simp] theorem onDesc_tiles (i : Nat) (g : Desc → Desc) (s : State) : (onDesc i g s).tiles = s.tiles := rfl
@[simp] theorem onDesc_images (i : Nat) (g : Desc → Desc) (s : State) : (onDesc i g s).images = s.images := rfl
@[simp] theorem onDesc_objs (i : Nat) (g : Desc → Desc) (s : State) : (onDesc i g s).objs = s.objs := rfl
@[simp] theorem onDesc_cold (i : Nat) (g : Desc → Desc) (s : State) : (onDesc i g s).cold = s.cold := rfl
@[simp] theorem onDesc_descs (i : Nat) (g : Desc → Desc) (s : State) : (onDesc i g s).descs = Tbl.upd s.descs i g := rfl
@[simp] theorem onDesc_nextDesc (i : Nat) (g : Desc → Desc) (s : State) : (onDesc i g s).nextDesc = s.nextDesc := rfl
@[simp] theorem onDesc_fox (i : Nat) (g : Desc → Desc) (s : State) : (onDesc i g s).fox = s.fox := rfl
@[simp] theorem onDesc_split (i : Nat) (g : Desc → Desc) (s : State) : (onDesc i g s).split = s.split := rfl
@[simp] theorem onDesc_tiers (i : Nat) (g : Desc → Desc) (s : State) : (onDesc i g s).tiers = s.tiers := rfl
@[simp] theorem onDesc_tierQueue (i : Nat) (g : Desc → Desc) (s : State) : (onDesc i g s).tierQueue = s.tierQueue := rfl
@[simp] theorem onDesc_srv (i : Nat) (g : Desc → Desc) (s : State) : (onDesc i g s).srv = s.srv := rfl
@[simp] theorem onDesc_lnk (i : Nat) (g : Desc → Desc) (s : State) : (onDesc i g s).lnk = s.lnk := rfl
@[simp] theorem onDesc_pwr (i : Nat) (g : Desc → Desc) (s : State) : (onDesc i g s).pwr = s.pwr := rfl
@[simp] theorem onDesc_thm (i : Nat) (g : Desc → Desc) (s : State) : (onDesc i g s).thm = s.thm := rfl
@[simp] theorem onDesc_nrg (i : Nat) (g : Desc → Desc) (s : State) : (onDesc i g s).nrg = s.nrg := rfl
@[simp] theorem onDesc_wdog (i : Nat) (g : Desc → Desc) (s : State) : (onDesc i g s).wdog = s.wdog := rfl
@[simp] theorem onDesc_mctl (i : Nat) (g : Desc → Desc) (s : State) : (onDesc i g s).mctl = s.mctl := rfl
@[simp] theorem onDesc_ras (i : Nat) (g : Desc → Desc) (s : State) : (onDesc i g s).ras = s.ras := rfl
@[simp] theorem onDesc_dump (i : Nat) (g : Desc → Desc) (s : State) : (onDesc i g s).dump = s.dump := rfl
@[simp] theorem onDesc_att (i : Nat) (g : Desc → Desc) (s : State) : (onDesc i g s).att = s.att := rfl
@[simp] theorem onDesc_boot (i : Nat) (g : Desc → Desc) (s : State) : (onDesc i g s).boot = s.boot := rfl
@[simp] theorem onDesc_fwPages (i : Nat) (g : Desc → Desc) (s : State) : (onDesc i g s).fwPages = s.fwPages := rfl
@[simp] theorem onDesc_mem (i : Nat) (g : Desc → Desc) (s : State) : (onDesc i g s).mem = s.mem := rfl
@[simp] theorem onDesc_host (i : Nat) (g : Desc → Desc) (s : State) : (onDesc i g s).host = s.host := rfl
@[simp] theorem onDesc_fresh (i : Nat) (g : Desc → Desc) (s : State) : (onDesc i g s).fresh = s.fresh := rfl

/-! ### onQueue -/

@[simp] theorem onQueue_pending (i : Nat) (g : Queue → Queue) (s : State) : (onQueue i g s).pending = s.pending := rfl
@[simp] theorem onQueue_clk (i : Nat) (g : Queue → Queue) (s : State) : (onQueue i g s).clk = s.clk := rfl
@[simp] theorem onQueue_slow (i : Nat) (g : Queue → Queue) (s : State) : (onQueue i g s).slow = s.slow := rfl
@[simp] theorem onQueue_pins (i : Nat) (g : Queue → Queue) (s : State) : (onQueue i g s).pins = s.pins := rfl
@[simp] theorem onQueue_glb (i : Nat) (g : Queue → Queue) (s : State) : (onQueue i g s).glb = s.glb := rfl
@[simp] theorem onQueue_qdb (i : Nat) (g : Queue → Queue) (s : State) : (onQueue i g s).qdb = s.qdb := rfl
@[simp] theorem onQueue_queues (i : Nat) (g : Queue → Queue) (s : State) : (onQueue i g s).queues = Tbl.upd s.queues i g := rfl
@[simp] theorem onQueue_evq (i : Nat) (g : Queue → Queue) (s : State) : (onQueue i g s).evq = s.evq := rfl
@[simp] theorem onQueue_msix (i : Nat) (g : Queue → Queue) (s : State) : (onQueue i g s).msix = s.msix := rfl
@[simp] theorem onQueue_interims (i : Nat) (g : Queue → Queue) (s : State) : (onQueue i g s).interims = s.interims := rfl
@[simp] theorem onQueue_features (i : Nat) (g : Queue → Queue) (s : State) : (onQueue i g s).features = s.features := rfl
@[simp] theorem onQueue_trace (i : Nat) (g : Queue → Queue) (s : State) : (onQueue i g s).trace = s.trace := rfl
@[simp] theorem onQueue_jobs (i : Nat) (g : Queue → Queue) (s : State) : (onQueue i g s).jobs = s.jobs := rfl
@[simp] theorem onQueue_cmds (i : Nat) (g : Queue → Queue) (s : State) : (onQueue i g s).cmds = s.cmds := rfl
@[simp] theorem onQueue_parts (i : Nat) (g : Queue → Queue) (s : State) : (onQueue i g s).parts = s.parts := rfl
@[simp] theorem onQueue_counts (i : Nat) (g : Queue → Queue) (s : State) : (onQueue i g s).counts = s.counts := rfl
@[simp] theorem onQueue_tiles (i : Nat) (g : Queue → Queue) (s : State) : (onQueue i g s).tiles = s.tiles := rfl
@[simp] theorem onQueue_images (i : Nat) (g : Queue → Queue) (s : State) : (onQueue i g s).images = s.images := rfl
@[simp] theorem onQueue_objs (i : Nat) (g : Queue → Queue) (s : State) : (onQueue i g s).objs = s.objs := rfl
@[simp] theorem onQueue_cold (i : Nat) (g : Queue → Queue) (s : State) : (onQueue i g s).cold = s.cold := rfl
@[simp] theorem onQueue_descs (i : Nat) (g : Queue → Queue) (s : State) : (onQueue i g s).descs = s.descs := rfl
@[simp] theorem onQueue_nextDesc (i : Nat) (g : Queue → Queue) (s : State) : (onQueue i g s).nextDesc = s.nextDesc := rfl
@[simp] theorem onQueue_fox (i : Nat) (g : Queue → Queue) (s : State) : (onQueue i g s).fox = s.fox := rfl
@[simp] theorem onQueue_split (i : Nat) (g : Queue → Queue) (s : State) : (onQueue i g s).split = s.split := rfl
@[simp] theorem onQueue_tiers (i : Nat) (g : Queue → Queue) (s : State) : (onQueue i g s).tiers = s.tiers := rfl
@[simp] theorem onQueue_tierQueue (i : Nat) (g : Queue → Queue) (s : State) : (onQueue i g s).tierQueue = s.tierQueue := rfl
@[simp] theorem onQueue_srv (i : Nat) (g : Queue → Queue) (s : State) : (onQueue i g s).srv = s.srv := rfl
@[simp] theorem onQueue_lnk (i : Nat) (g : Queue → Queue) (s : State) : (onQueue i g s).lnk = s.lnk := rfl
@[simp] theorem onQueue_pwr (i : Nat) (g : Queue → Queue) (s : State) : (onQueue i g s).pwr = s.pwr := rfl
@[simp] theorem onQueue_thm (i : Nat) (g : Queue → Queue) (s : State) : (onQueue i g s).thm = s.thm := rfl
@[simp] theorem onQueue_nrg (i : Nat) (g : Queue → Queue) (s : State) : (onQueue i g s).nrg = s.nrg := rfl
@[simp] theorem onQueue_wdog (i : Nat) (g : Queue → Queue) (s : State) : (onQueue i g s).wdog = s.wdog := rfl
@[simp] theorem onQueue_mctl (i : Nat) (g : Queue → Queue) (s : State) : (onQueue i g s).mctl = s.mctl := rfl
@[simp] theorem onQueue_ras (i : Nat) (g : Queue → Queue) (s : State) : (onQueue i g s).ras = s.ras := rfl
@[simp] theorem onQueue_dump (i : Nat) (g : Queue → Queue) (s : State) : (onQueue i g s).dump = s.dump := rfl
@[simp] theorem onQueue_att (i : Nat) (g : Queue → Queue) (s : State) : (onQueue i g s).att = s.att := rfl
@[simp] theorem onQueue_boot (i : Nat) (g : Queue → Queue) (s : State) : (onQueue i g s).boot = s.boot := rfl
@[simp] theorem onQueue_fwPages (i : Nat) (g : Queue → Queue) (s : State) : (onQueue i g s).fwPages = s.fwPages := rfl
@[simp] theorem onQueue_mem (i : Nat) (g : Queue → Queue) (s : State) : (onQueue i g s).mem = s.mem := rfl
@[simp] theorem onQueue_host (i : Nat) (g : Queue → Queue) (s : State) : (onQueue i g s).host = s.host := rfl
@[simp] theorem onQueue_fresh (i : Nat) (g : Queue → Queue) (s : State) : (onQueue i g s).fresh = s.fresh := rfl

/-! ### onCmd -/

@[simp] theorem onCmd_pending (k : Nat × Nat) (g : Cmd → Cmd) (s : State) : (onCmd k g s).pending = s.pending := rfl
@[simp] theorem onCmd_clk (k : Nat × Nat) (g : Cmd → Cmd) (s : State) : (onCmd k g s).clk = s.clk := rfl
@[simp] theorem onCmd_slow (k : Nat × Nat) (g : Cmd → Cmd) (s : State) : (onCmd k g s).slow = s.slow := rfl
@[simp] theorem onCmd_pins (k : Nat × Nat) (g : Cmd → Cmd) (s : State) : (onCmd k g s).pins = s.pins := rfl
@[simp] theorem onCmd_glb (k : Nat × Nat) (g : Cmd → Cmd) (s : State) : (onCmd k g s).glb = s.glb := rfl
@[simp] theorem onCmd_qdb (k : Nat × Nat) (g : Cmd → Cmd) (s : State) : (onCmd k g s).qdb = s.qdb := rfl
@[simp] theorem onCmd_queues (k : Nat × Nat) (g : Cmd → Cmd) (s : State) : (onCmd k g s).queues = s.queues := rfl
@[simp] theorem onCmd_evq (k : Nat × Nat) (g : Cmd → Cmd) (s : State) : (onCmd k g s).evq = s.evq := rfl
@[simp] theorem onCmd_msix (k : Nat × Nat) (g : Cmd → Cmd) (s : State) : (onCmd k g s).msix = s.msix := rfl
@[simp] theorem onCmd_interims (k : Nat × Nat) (g : Cmd → Cmd) (s : State) : (onCmd k g s).interims = s.interims := rfl
@[simp] theorem onCmd_features (k : Nat × Nat) (g : Cmd → Cmd) (s : State) : (onCmd k g s).features = s.features := rfl
@[simp] theorem onCmd_trace (k : Nat × Nat) (g : Cmd → Cmd) (s : State) : (onCmd k g s).trace = s.trace := rfl
@[simp] theorem onCmd_jobs (k : Nat × Nat) (g : Cmd → Cmd) (s : State) : (onCmd k g s).jobs = s.jobs := rfl
@[simp] theorem onCmd_cmds (k : Nat × Nat) (g : Cmd → Cmd) (s : State) : (onCmd k g s).cmds = s.cmds.map fun c => if c.queue == k.1 && c.seq == k.2 then g c else c := rfl
@[simp] theorem onCmd_parts (k : Nat × Nat) (g : Cmd → Cmd) (s : State) : (onCmd k g s).parts = s.parts := rfl
@[simp] theorem onCmd_counts (k : Nat × Nat) (g : Cmd → Cmd) (s : State) : (onCmd k g s).counts = s.counts := rfl
@[simp] theorem onCmd_tiles (k : Nat × Nat) (g : Cmd → Cmd) (s : State) : (onCmd k g s).tiles = s.tiles := rfl
@[simp] theorem onCmd_images (k : Nat × Nat) (g : Cmd → Cmd) (s : State) : (onCmd k g s).images = s.images := rfl
@[simp] theorem onCmd_objs (k : Nat × Nat) (g : Cmd → Cmd) (s : State) : (onCmd k g s).objs = s.objs := rfl
@[simp] theorem onCmd_cold (k : Nat × Nat) (g : Cmd → Cmd) (s : State) : (onCmd k g s).cold = s.cold := rfl
@[simp] theorem onCmd_descs (k : Nat × Nat) (g : Cmd → Cmd) (s : State) : (onCmd k g s).descs = s.descs := rfl
@[simp] theorem onCmd_nextDesc (k : Nat × Nat) (g : Cmd → Cmd) (s : State) : (onCmd k g s).nextDesc = s.nextDesc := rfl
@[simp] theorem onCmd_fox (k : Nat × Nat) (g : Cmd → Cmd) (s : State) : (onCmd k g s).fox = s.fox := rfl
@[simp] theorem onCmd_split (k : Nat × Nat) (g : Cmd → Cmd) (s : State) : (onCmd k g s).split = s.split := rfl
@[simp] theorem onCmd_tiers (k : Nat × Nat) (g : Cmd → Cmd) (s : State) : (onCmd k g s).tiers = s.tiers := rfl
@[simp] theorem onCmd_tierQueue (k : Nat × Nat) (g : Cmd → Cmd) (s : State) : (onCmd k g s).tierQueue = s.tierQueue := rfl
@[simp] theorem onCmd_srv (k : Nat × Nat) (g : Cmd → Cmd) (s : State) : (onCmd k g s).srv = s.srv := rfl
@[simp] theorem onCmd_lnk (k : Nat × Nat) (g : Cmd → Cmd) (s : State) : (onCmd k g s).lnk = s.lnk := rfl
@[simp] theorem onCmd_pwr (k : Nat × Nat) (g : Cmd → Cmd) (s : State) : (onCmd k g s).pwr = s.pwr := rfl
@[simp] theorem onCmd_thm (k : Nat × Nat) (g : Cmd → Cmd) (s : State) : (onCmd k g s).thm = s.thm := rfl
@[simp] theorem onCmd_nrg (k : Nat × Nat) (g : Cmd → Cmd) (s : State) : (onCmd k g s).nrg = s.nrg := rfl
@[simp] theorem onCmd_wdog (k : Nat × Nat) (g : Cmd → Cmd) (s : State) : (onCmd k g s).wdog = s.wdog := rfl
@[simp] theorem onCmd_mctl (k : Nat × Nat) (g : Cmd → Cmd) (s : State) : (onCmd k g s).mctl = s.mctl := rfl
@[simp] theorem onCmd_ras (k : Nat × Nat) (g : Cmd → Cmd) (s : State) : (onCmd k g s).ras = s.ras := rfl
@[simp] theorem onCmd_dump (k : Nat × Nat) (g : Cmd → Cmd) (s : State) : (onCmd k g s).dump = s.dump := rfl
@[simp] theorem onCmd_att (k : Nat × Nat) (g : Cmd → Cmd) (s : State) : (onCmd k g s).att = s.att := rfl
@[simp] theorem onCmd_boot (k : Nat × Nat) (g : Cmd → Cmd) (s : State) : (onCmd k g s).boot = s.boot := rfl
@[simp] theorem onCmd_fwPages (k : Nat × Nat) (g : Cmd → Cmd) (s : State) : (onCmd k g s).fwPages = s.fwPages := rfl
@[simp] theorem onCmd_mem (k : Nat × Nat) (g : Cmd → Cmd) (s : State) : (onCmd k g s).mem = s.mem := rfl
@[simp] theorem onCmd_host (k : Nat × Nat) (g : Cmd → Cmd) (s : State) : (onCmd k g s).host = s.host := rfl
@[simp] theorem onCmd_fresh (k : Nat × Nat) (g : Cmd → Cmd) (s : State) : (onCmd k g s).fresh = s.fresh := rfl

/-! ### onVec -/

@[simp] theorem onVec_pending (v : Nat) (f : Vec → Vec) (s : State) : (onVec v f s).pending = s.pending := rfl
@[simp] theorem onVec_clk (v : Nat) (f : Vec → Vec) (s : State) : (onVec v f s).clk = s.clk := rfl
@[simp] theorem onVec_slow (v : Nat) (f : Vec → Vec) (s : State) : (onVec v f s).slow = s.slow := rfl
@[simp] theorem onVec_pins (v : Nat) (f : Vec → Vec) (s : State) : (onVec v f s).pins = s.pins := rfl
@[simp] theorem onVec_glb (v : Nat) (f : Vec → Vec) (s : State) : (onVec v f s).glb = s.glb := rfl
@[simp] theorem onVec_qdb (v : Nat) (f : Vec → Vec) (s : State) : (onVec v f s).qdb = s.qdb := rfl
@[simp] theorem onVec_queues (v : Nat) (f : Vec → Vec) (s : State) : (onVec v f s).queues = s.queues := rfl
@[simp] theorem onVec_evq (v : Nat) (f : Vec → Vec) (s : State) : (onVec v f s).evq = s.evq := rfl
@[simp] theorem onVec_msix (v : Nat) (f : Vec → Vec) (s : State) : (onVec v f s).msix = { s.msix with vecs := Tbl.set s.msix.vecs v (f (vecAt s v)) } := rfl
@[simp] theorem onVec_interims (v : Nat) (f : Vec → Vec) (s : State) : (onVec v f s).interims = s.interims := rfl
@[simp] theorem onVec_features (v : Nat) (f : Vec → Vec) (s : State) : (onVec v f s).features = s.features := rfl
@[simp] theorem onVec_trace (v : Nat) (f : Vec → Vec) (s : State) : (onVec v f s).trace = s.trace := rfl
@[simp] theorem onVec_jobs (v : Nat) (f : Vec → Vec) (s : State) : (onVec v f s).jobs = s.jobs := rfl
@[simp] theorem onVec_cmds (v : Nat) (f : Vec → Vec) (s : State) : (onVec v f s).cmds = s.cmds := rfl
@[simp] theorem onVec_parts (v : Nat) (f : Vec → Vec) (s : State) : (onVec v f s).parts = s.parts := rfl
@[simp] theorem onVec_counts (v : Nat) (f : Vec → Vec) (s : State) : (onVec v f s).counts = s.counts := rfl
@[simp] theorem onVec_tiles (v : Nat) (f : Vec → Vec) (s : State) : (onVec v f s).tiles = s.tiles := rfl
@[simp] theorem onVec_images (v : Nat) (f : Vec → Vec) (s : State) : (onVec v f s).images = s.images := rfl
@[simp] theorem onVec_objs (v : Nat) (f : Vec → Vec) (s : State) : (onVec v f s).objs = s.objs := rfl
@[simp] theorem onVec_cold (v : Nat) (f : Vec → Vec) (s : State) : (onVec v f s).cold = s.cold := rfl
@[simp] theorem onVec_descs (v : Nat) (f : Vec → Vec) (s : State) : (onVec v f s).descs = s.descs := rfl
@[simp] theorem onVec_nextDesc (v : Nat) (f : Vec → Vec) (s : State) : (onVec v f s).nextDesc = s.nextDesc := rfl
@[simp] theorem onVec_fox (v : Nat) (f : Vec → Vec) (s : State) : (onVec v f s).fox = s.fox := rfl
@[simp] theorem onVec_split (v : Nat) (f : Vec → Vec) (s : State) : (onVec v f s).split = s.split := rfl
@[simp] theorem onVec_tiers (v : Nat) (f : Vec → Vec) (s : State) : (onVec v f s).tiers = s.tiers := rfl
@[simp] theorem onVec_tierQueue (v : Nat) (f : Vec → Vec) (s : State) : (onVec v f s).tierQueue = s.tierQueue := rfl
@[simp] theorem onVec_srv (v : Nat) (f : Vec → Vec) (s : State) : (onVec v f s).srv = s.srv := rfl
@[simp] theorem onVec_lnk (v : Nat) (f : Vec → Vec) (s : State) : (onVec v f s).lnk = s.lnk := rfl
@[simp] theorem onVec_pwr (v : Nat) (f : Vec → Vec) (s : State) : (onVec v f s).pwr = s.pwr := rfl
@[simp] theorem onVec_thm (v : Nat) (f : Vec → Vec) (s : State) : (onVec v f s).thm = s.thm := rfl
@[simp] theorem onVec_nrg (v : Nat) (f : Vec → Vec) (s : State) : (onVec v f s).nrg = s.nrg := rfl
@[simp] theorem onVec_wdog (v : Nat) (f : Vec → Vec) (s : State) : (onVec v f s).wdog = s.wdog := rfl
@[simp] theorem onVec_mctl (v : Nat) (f : Vec → Vec) (s : State) : (onVec v f s).mctl = s.mctl := rfl
@[simp] theorem onVec_ras (v : Nat) (f : Vec → Vec) (s : State) : (onVec v f s).ras = s.ras := rfl
@[simp] theorem onVec_dump (v : Nat) (f : Vec → Vec) (s : State) : (onVec v f s).dump = s.dump := rfl
@[simp] theorem onVec_att (v : Nat) (f : Vec → Vec) (s : State) : (onVec v f s).att = s.att := rfl
@[simp] theorem onVec_boot (v : Nat) (f : Vec → Vec) (s : State) : (onVec v f s).boot = s.boot := rfl
@[simp] theorem onVec_fwPages (v : Nat) (f : Vec → Vec) (s : State) : (onVec v f s).fwPages = s.fwPages := rfl
@[simp] theorem onVec_mem (v : Nat) (f : Vec → Vec) (s : State) : (onVec v f s).mem = s.mem := rfl
@[simp] theorem onVec_host (v : Nat) (f : Vec → Vec) (s : State) : (onVec v f s).host = s.host := rfl
@[simp] theorem onVec_fresh (v : Nat) (f : Vec → Vec) (s : State) : (onVec v f s).fresh = s.fresh := rfl

/-! ### writeHost -/

@[simp] theorem writeHost_pending (a : Nat) (b : List Byte) (s : State) : (writeHost a b s).pending = s.pending := rfl
@[simp] theorem writeHost_clk (a : Nat) (b : List Byte) (s : State) : (writeHost a b s).clk = s.clk := rfl
@[simp] theorem writeHost_slow (a : Nat) (b : List Byte) (s : State) : (writeHost a b s).slow = s.slow := rfl
@[simp] theorem writeHost_pins (a : Nat) (b : List Byte) (s : State) : (writeHost a b s).pins = s.pins := rfl
@[simp] theorem writeHost_glb (a : Nat) (b : List Byte) (s : State) : (writeHost a b s).glb = s.glb := rfl
@[simp] theorem writeHost_qdb (a : Nat) (b : List Byte) (s : State) : (writeHost a b s).qdb = s.qdb := rfl
@[simp] theorem writeHost_queues (a : Nat) (b : List Byte) (s : State) : (writeHost a b s).queues = s.queues := rfl
@[simp] theorem writeHost_evq (a : Nat) (b : List Byte) (s : State) : (writeHost a b s).evq = s.evq := rfl
@[simp] theorem writeHost_msix (a : Nat) (b : List Byte) (s : State) : (writeHost a b s).msix = s.msix := rfl
@[simp] theorem writeHost_interims (a : Nat) (b : List Byte) (s : State) : (writeHost a b s).interims = s.interims := rfl
@[simp] theorem writeHost_features (a : Nat) (b : List Byte) (s : State) : (writeHost a b s).features = s.features := rfl
@[simp] theorem writeHost_trace (a : Nat) (b : List Byte) (s : State) : (writeHost a b s).trace = s.trace := rfl
@[simp] theorem writeHost_jobs (a : Nat) (b : List Byte) (s : State) : (writeHost a b s).jobs = s.jobs := rfl
@[simp] theorem writeHost_cmds (a : Nat) (b : List Byte) (s : State) : (writeHost a b s).cmds = s.cmds := rfl
@[simp] theorem writeHost_parts (a : Nat) (b : List Byte) (s : State) : (writeHost a b s).parts = s.parts := rfl
@[simp] theorem writeHost_counts (a : Nat) (b : List Byte) (s : State) : (writeHost a b s).counts = s.counts := rfl
@[simp] theorem writeHost_tiles (a : Nat) (b : List Byte) (s : State) : (writeHost a b s).tiles = s.tiles := rfl
@[simp] theorem writeHost_images (a : Nat) (b : List Byte) (s : State) : (writeHost a b s).images = s.images := rfl
@[simp] theorem writeHost_objs (a : Nat) (b : List Byte) (s : State) : (writeHost a b s).objs = s.objs := rfl
@[simp] theorem writeHost_cold (a : Nat) (b : List Byte) (s : State) : (writeHost a b s).cold = s.cold := rfl
@[simp] theorem writeHost_descs (a : Nat) (b : List Byte) (s : State) : (writeHost a b s).descs = s.descs := rfl
@[simp] theorem writeHost_nextDesc (a : Nat) (b : List Byte) (s : State) : (writeHost a b s).nextDesc = s.nextDesc := rfl
@[simp] theorem writeHost_fox (a : Nat) (b : List Byte) (s : State) : (writeHost a b s).fox = s.fox := rfl
@[simp] theorem writeHost_split (a : Nat) (b : List Byte) (s : State) : (writeHost a b s).split = s.split := rfl
@[simp] theorem writeHost_tiers (a : Nat) (b : List Byte) (s : State) : (writeHost a b s).tiers = s.tiers := rfl
@[simp] theorem writeHost_tierQueue (a : Nat) (b : List Byte) (s : State) : (writeHost a b s).tierQueue = s.tierQueue := rfl
@[simp] theorem writeHost_srv (a : Nat) (b : List Byte) (s : State) : (writeHost a b s).srv = s.srv := rfl
@[simp] theorem writeHost_lnk (a : Nat) (b : List Byte) (s : State) : (writeHost a b s).lnk = s.lnk := rfl
@[simp] theorem writeHost_pwr (a : Nat) (b : List Byte) (s : State) : (writeHost a b s).pwr = s.pwr := rfl
@[simp] theorem writeHost_thm (a : Nat) (b : List Byte) (s : State) : (writeHost a b s).thm = s.thm := rfl
@[simp] theorem writeHost_nrg (a : Nat) (b : List Byte) (s : State) : (writeHost a b s).nrg = s.nrg := rfl
@[simp] theorem writeHost_wdog (a : Nat) (b : List Byte) (s : State) : (writeHost a b s).wdog = s.wdog := rfl
@[simp] theorem writeHost_mctl (a : Nat) (b : List Byte) (s : State) : (writeHost a b s).mctl = s.mctl := rfl
@[simp] theorem writeHost_ras (a : Nat) (b : List Byte) (s : State) : (writeHost a b s).ras = s.ras := rfl
@[simp] theorem writeHost_dump (a : Nat) (b : List Byte) (s : State) : (writeHost a b s).dump = s.dump := rfl
@[simp] theorem writeHost_att (a : Nat) (b : List Byte) (s : State) : (writeHost a b s).att = s.att := rfl
@[simp] theorem writeHost_boot (a : Nat) (b : List Byte) (s : State) : (writeHost a b s).boot = s.boot := rfl
@[simp] theorem writeHost_fwPages (a : Nat) (b : List Byte) (s : State) : (writeHost a b s).fwPages = s.fwPages := rfl
@[simp] theorem writeHost_mem (a : Nat) (b : List Byte) (s : State) : (writeHost a b s).mem = s.mem := rfl
@[simp] theorem writeHost_host (a : Nat) (b : List Byte) (s : State) : (writeHost a b s).host = Mem.write s.host a b := rfl
@[simp] theorem writeHost_fresh (a : Nat) (b : List Byte) (s : State) : (writeHost a b s).fresh = s.fresh := rfl

end Sys2Proof.Machine
end

