-- ==== Sys2Proof/Laws/Ops.lean ====
section
/-! SUPPORT. What the shared operations can do: posting, settling the device state, deciding and finishing commands, judging a
packet. -/
namespace Sys2Proof.Machine

/-! ### Posting -/

/-- `t` is `s` but for what posting an event, a completion entry or a refusal touches. -/
def Posts (s t : State) : Prop :=
  t = { s with evq := t.evq, dump := t.dump, host := t.host, qdb := t.qdb, att := t.att, msix := t.msix, queues := t.queues }

theorem Posts.refl (s : State) : Posts s s := rfl

theorem Posts.trans {s t u : State} (h : Posts s t) (k : Posts t u) : Posts s u := by
  unfold Posts at *
  rw [k, h]

theorem posts_onVec (v : Nat) (f : Vec → Vec) (s : State) : Posts s (onVec v f s) := rfl
theorem posts_signal (v q : Nat) (u : Bool) (s : State) : Posts s (signal v q u s) := rfl

theorem posts_ringWrite (a : Nat) (b : List Byte) (f : Qdb → Qdb) (s : State) : Posts s (ringWrite a b f s) := by
  unfold ringWrite
  split <;> rfl

theorem posts_writeRec (r : EvRec) (s : State) : Posts s (writeRec r s) := by
  unfold writeRec
  dsimp only
  refine (posts_ringWrite (s.evq.base.toNat + 32 * s.evq.tail) (recBytes r s.evq.phase) evqReject s).trans ?_
  generalize ringWrite (s.evq.base.toNat + 32 * s.evq.tail) (recBytes r s.evq.phase) evqReject s = s1
  rfl

theorem posts_mirrorRec (r : EvRec) (s : State) : Posts s (mirrorRec r s) := by
  unfold mirrorRec
  split <;> rfl

theorem posts_raiseRec (code source job : Nat) (d : List Byte) (s : State) : Posts s (raiseRec code source job d s).2 := rfl

theorem posts_dropRec (c : EvClass) (s : State) : Posts s (dropRec c s) := by
  cases c <;> rfl

theorem posts_reserveRec (r : EvRec) (s : State) : Posts s (reserveRec r s) := by
  unfold reserveRec
  dsimp only
  split
  · split
    · exact posts_dropRec _ _
    · split
      · rfl
      · split <;> exact posts_dropRec _ _
  · split
    · rfl
    · exact posts_dropRec _ _
  · exact posts_dropRec _ _

theorem posts_keepRec (r : EvRec) (a : Nat) (m : Byte) (p : Bool) (s : State) : Posts s (keepRec r a m p s) := by
  unfold keepRec
  dsimp only
  split <;> rfl

theorem posts_postHeld (r : EvRec) (s : State) : Posts s (postHeld r s) := by
  unfold postHeld
  exact Posts.trans (by rfl) (posts_writeRec _ _)

theorem posts_drainHeld (n : Nat) (s : State) : Posts s (drainHeld n s) := by
  induction n generalizing s with
  | zero => rfl
  | succ n ih =>
    unfold drainHeld
    dsimp only
    split
    · rfl
    · split
      · rfl
      · exact Posts.trans (Posts.trans (by rfl) (posts_postHeld _ _)) (ih _)
      · exact Posts.trans (Posts.trans (by rfl) (posts_postHeld _ _)) (ih _)
      · split <;> exact Posts.trans (Posts.trans (by rfl) (posts_postHeld _ _)) (ih _)

theorem posts_flushEvq (s : State) : Posts s (flushEvq s) := by
  unfold flushEvq
  split
  · rfl
  · dsimp only
    split
    · exact (((Posts.trans (by rfl) (posts_mirrorRec _ _)).trans (posts_writeRec _ _)).trans (posts_keepRec _ _ _ _ _)).trans
        (posts_drainHeld _ _)
    · exact posts_drainHeld _ _

theorem posts_postEventAt (code source job : Nat) (d : List Byte) (a : Nat) (m : Byte) (s : State) :
    Posts s (postEventAt code source job d a m s).2 := by
  have h0 : Posts s (raiseRec code source job d s).2 := rfl
  unfold postEventAt
  generalize raiseRec code source job d s = x at *
  obtain ⟨r, s1⟩ := x
  have h1 : Posts s (if r.cls == .alarm then mirrorRec r s1 else s1) := by
    split
    · exact h0.trans (posts_mirrorRec _ _)
    · exact h0
  dsimp only
  generalize (if r.cls == .alarm then mirrorRec r s1 else s1) = s2 at *
  split
  · exact h1.trans (by rfl)
  · have h2 := h1.trans (posts_flushEvq s2)
    split
    · exact (h2.trans (posts_reserveRec _ _)).trans (posts_keepRec _ _ _ _ _)
    · split
      · exact (h2.trans (posts_writeRec _ _)).trans (posts_keepRec _ _ _ _ _)
      · exact (h2.trans (posts_dropRec _ _)).trans (posts_keepRec _ _ _ _ _)

theorem posts_postEvent (code source job : Nat) (d : List Byte) (s : State) : Posts s (postEvent code source job d s) :=
  posts_postEventAt _ _ _ _ _ _ _

theorem posts_postEntry (q seq : Nat) (st : Status) (job type flags loc : Nat) (r : List Byte) (u : Bool) (s : State) :
    Posts s (postEntry q seq st job type flags loc r u s) := by
  unfold postEntry
  split
  · rfl
  · rename_i k _
    dsimp only
    generalize entryBytes seq _ k.head job type _ loc r = b
    refine (posts_ringWrite (k.cqBase + 32 * k.cqTail) b (cqReject q) s).trans ?_
    generalize ringWrite (k.cqBase + 32 * k.cqTail) b (cqReject q) s = s1
    rfl

theorem posts_refuse (q : Nat) (p : Pkt) (r : Ref) (s : State) : Posts s (refuse q p r s) := by
  unfold refuse
  have h : Posts s (refuseReply p r s) := by
    unfold refuseReply
    dsimp only
    split <;> rfl
  exact h.trans (posts_postEntry _ _ _ _ _ _ _ _ _ _)

theorem posts_evqOverflow (s : State) : Posts s (flushEvq s) := posts_flushEvq s

/-! What posting leaves, field by field. -/

theorem Posts.pending {s t : State} (h : Posts s t) : t.pending = s.pending := by rw [h]
theorem Posts.clk {s t : State} (h : Posts s t) : t.clk = s.clk := by rw [h]
theorem Posts.pins {s t : State} (h : Posts s t) : t.pins = s.pins := by rw [h]
theorem Posts.slow {s t : State} (h : Posts s t) : t.slow = s.slow := by rw [h]
theorem Posts.glb {s t : State} (h : Posts s t) : t.glb = s.glb := by rw [h]
theorem Posts.interims {s t : State} (h : Posts s t) : t.interims = s.interims := by rw [h]
theorem Posts.features {s t : State} (h : Posts s t) : t.features = s.features := by rw [h]
theorem Posts.trace {s t : State} (h : Posts s t) : t.trace = s.trace := by rw [h]
theorem Posts.jobs {s t : State} (h : Posts s t) : t.jobs = s.jobs := by rw [h]
theorem Posts.cmds {s t : State} (h : Posts s t) : t.cmds = s.cmds := by rw [h]
theorem Posts.parts {s t : State} (h : Posts s t) : t.parts = s.parts := by rw [h]
theorem Posts.counts {s t : State} (h : Posts s t) : t.counts = s.counts := by rw [h]
theorem Posts.tiles {s t : State} (h : Posts s t) : t.tiles = s.tiles := by rw [h]
theorem Posts.images {s t : State} (h : Posts s t) : t.images = s.images := by rw [h]
theorem Posts.objs {s t : State} (h : Posts s t) : t.objs = s.objs := by rw [h]
theorem Posts.cold {s t : State} (h : Posts s t) : t.cold = s.cold := by rw [h]
theorem Posts.descs {s t : State} (h : Posts s t) : t.descs = s.descs := by rw [h]
theorem Posts.nextDesc {s t : State} (h : Posts s t) : t.nextDesc = s.nextDesc := by rw [h]
theorem Posts.fox {s t : State} (h : Posts s t) : t.fox = s.fox := by rw [h]
theorem Posts.split {s t : State} (h : Posts s t) : t.split = s.split := by rw [h]
theorem Posts.tiers {s t : State} (h : Posts s t) : t.tiers = s.tiers := by rw [h]
theorem Posts.tierQueue {s t : State} (h : Posts s t) : t.tierQueue = s.tierQueue := by rw [h]
theorem Posts.srv {s t : State} (h : Posts s t) : t.srv = s.srv := by rw [h]
theorem Posts.lnk {s t : State} (h : Posts s t) : t.lnk = s.lnk := by rw [h]
theorem Posts.pwr {s t : State} (h : Posts s t) : t.pwr = s.pwr := by rw [h]
theorem Posts.thm {s t : State} (h : Posts s t) : t.thm = s.thm := by rw [h]
theorem Posts.nrg {s t : State} (h : Posts s t) : t.nrg = s.nrg := by rw [h]
theorem Posts.wdog {s t : State} (h : Posts s t) : t.wdog = s.wdog := by rw [h]
theorem Posts.mctl {s t : State} (h : Posts s t) : t.mctl = s.mctl := by rw [h]
theorem Posts.ras {s t : State} (h : Posts s t) : t.ras = s.ras := by rw [h]
theorem Posts.boot {s t : State} (h : Posts s t) : t.boot = s.boot := by rw [h]
theorem Posts.fwPages {s t : State} (h : Posts s t) : t.fwPages = s.fwPages := by rw [h]
theorem Posts.mem {s t : State} (h : Posts s t) : t.mem = s.mem := by rw [h]
theorem Posts.fresh {s t : State} (h : Posts s t) : t.fresh = s.fresh := by rw [h]
@[simp] theorem postEvent_pending (c o j : Nat) (d : List Byte) (s : State) : (postEvent c o j d s).pending = s.pending := (posts_postEvent c o j d s).pending
@[simp] theorem postEvent_clk (c o j : Nat) (d : List Byte) (s : State) : (postEvent c o j d s).clk = s.clk := (posts_postEvent c o j d s).clk
@[simp] theorem postEvent_pins (c o j : Nat) (d : List Byte) (s : State) : (postEvent c o j d s).pins = s.pins := (posts_postEvent c o j d s).pins
@[simp] theorem postEvent_slow (c o j : Nat) (d : List Byte) (s : State) : (postEvent c o j d s).slow = s.slow := (posts_postEvent c o j d s).slow
@[simp] theorem postEvent_glb (c o j : Nat) (d : List Byte) (s : State) : (postEvent c o j d s).glb = s.glb := (posts_postEvent c o j d s).glb
@[simp] theorem postEvent_interims (c o j : Nat) (d : List Byte) (s : State) : (postEvent c o j d s).interims = s.interims := (posts_postEvent c o j d s).interims
@[simp] theorem postEvent_features (c o j : Nat) (d : List Byte) (s : State) : (postEvent c o j d s).features = s.features := (posts_postEvent c o j d s).features
@[simp] theorem postEvent_trace (c o j : Nat) (d : List Byte) (s : State) : (postEvent c o j d s).trace = s.trace := (posts_postEvent c o j d s).trace
@[simp] theorem postEvent_jobs (c o j : Nat) (d : List Byte) (s : State) : (postEvent c o j d s).jobs = s.jobs := (posts_postEvent c o j d s).jobs
@[simp] theorem postEvent_cmds (c o j : Nat) (d : List Byte) (s : State) : (postEvent c o j d s).cmds = s.cmds := (posts_postEvent c o j d s).cmds
@[simp] theorem postEvent_parts (c o j : Nat) (d : List Byte) (s : State) : (postEvent c o j d s).parts = s.parts := (posts_postEvent c o j d s).parts
@[simp] theorem postEvent_counts (c o j : Nat) (d : List Byte) (s : State) : (postEvent c o j d s).counts = s.counts := (posts_postEvent c o j d s).counts
@[simp] theorem postEvent_tiles (c o j : Nat) (d : List Byte) (s : State) : (postEvent c o j d s).tiles = s.tiles := (posts_postEvent c o j d s).tiles
@[simp] theorem postEvent_images (c o j : Nat) (d : List Byte) (s : State) : (postEvent c o j d s).images = s.images := (posts_postEvent c o j d s).images
@[simp] theorem postEvent_objs (c o j : Nat) (d : List Byte) (s : State) : (postEvent c o j d s).objs = s.objs := (posts_postEvent c o j d s).objs
@[simp] theorem postEvent_cold (c o j : Nat) (d : List Byte) (s : State) : (postEvent c o j d s).cold = s.cold := (posts_postEvent c o j d s).cold
@[simp] theorem postEvent_descs (c o j : Nat) (d : List Byte) (s : State) : (postEvent c o j d s).descs = s.descs := (posts_postEvent c o j d s).descs
@[simp] theorem postEvent_nextDesc (c o j : Nat) (d : List Byte) (s : State) : (postEvent c o j d s).nextDesc = s.nextDesc := (posts_postEvent c o j d s).nextDesc
@[simp] theorem postEvent_fox (c o j : Nat) (d : List Byte) (s : State) : (postEvent c o j d s).fox = s.fox := (posts_postEvent c o j d s).fox
@[simp] theorem postEvent_split (c o j : Nat) (d : List Byte) (s : State) : (postEvent c o j d s).split = s.split := (posts_postEvent c o j d s).split
@[simp] theorem postEvent_tiers (c o j : Nat) (d : List Byte) (s : State) : (postEvent c o j d s).tiers = s.tiers := (posts_postEvent c o j d s).tiers
@[simp] theorem postEvent_tierQueue (c o j : Nat) (d : List Byte) (s : State) : (postEvent c o j d s).tierQueue = s.tierQueue := (posts_postEvent c o j d s).tierQueue
@[simp] theorem postEvent_srv (c o j : Nat) (d : List Byte) (s : State) : (postEvent c o j d s).srv = s.srv := (posts_postEvent c o j d s).srv
@[simp] theorem postEvent_lnk (c o j : Nat) (d : List Byte) (s : State) : (postEvent c o j d s).lnk = s.lnk := (posts_postEvent c o j d s).lnk
@[simp] theorem postEvent_pwr (c o j : Nat) (d : List Byte) (s : State) : (postEvent c o j d s).pwr = s.pwr := (posts_postEvent c o j d s).pwr
@[simp] theorem postEvent_thm (c o j : Nat) (d : List Byte) (s : State) : (postEvent c o j d s).thm = s.thm := (posts_postEvent c o j d s).thm
@[simp] theorem postEvent_nrg (c o j : Nat) (d : List Byte) (s : State) : (postEvent c o j d s).nrg = s.nrg := (posts_postEvent c o j d s).nrg
@[simp] theorem postEvent_wdog (c o j : Nat) (d : List Byte) (s : State) : (postEvent c o j d s).wdog = s.wdog := (posts_postEvent c o j d s).wdog
@[simp] theorem postEvent_mctl (c o j : Nat) (d : List Byte) (s : State) : (postEvent c o j d s).mctl = s.mctl := (posts_postEvent c o j d s).mctl
@[simp] theorem postEvent_ras (c o j : Nat) (d : List Byte) (s : State) : (postEvent c o j d s).ras = s.ras := (posts_postEvent c o j d s).ras
@[simp] theorem postEvent_boot (c o j : Nat) (d : List Byte) (s : State) : (postEvent c o j d s).boot = s.boot := (posts_postEvent c o j d s).boot
@[simp] theorem postEvent_fwPages (c o j : Nat) (d : List Byte) (s : State) : (postEvent c o j d s).fwPages = s.fwPages := (posts_postEvent c o j d s).fwPages
@[simp] theorem postEvent_mem (c o j : Nat) (d : List Byte) (s : State) : (postEvent c o j d s).mem = s.mem := (posts_postEvent c o j d s).mem
@[simp] theorem postEvent_fresh (c o j : Nat) (d : List Byte) (s : State) : (postEvent c o j d s).fresh = s.fresh := (posts_postEvent c o j d s).fresh
@[simp] theorem postEntry_pending (q n : Nat) (st : Status) (j ty fl lo : Nat) (r : List Byte) (u : Bool) (s : State) : (postEntry q n st j ty fl lo r u s).pending = s.pending := (posts_postEntry q n st j ty fl lo r u s).pending
@[simp] theorem postEntry_clk (q n : Nat) (st : Status) (j ty fl lo : Nat) (r : List Byte) (u : Bool) (s : State) : (postEntry q n st j ty fl lo r u s).clk = s.clk := (posts_postEntry q n st j ty fl lo r u s).clk
@[simp] theorem postEntry_pins (q n : Nat) (st : Status) (j ty fl lo : Nat) (r : List Byte) (u : Bool) (s : State) : (postEntry q n st j ty fl lo r u s).pins = s.pins := (posts_postEntry q n st j ty fl lo r u s).pins
@[simp] theorem postEntry_slow (q n : Nat) (st : Status) (j ty fl lo : Nat) (r : List Byte) (u : Bool) (s : State) : (postEntry q n st j ty fl lo r u s).slow = s.slow := (posts_postEntry q n st j ty fl lo r u s).slow
@[simp] theorem postEntry_glb (q n : Nat) (st : Status) (j ty fl lo : Nat) (r : List Byte) (u : Bool) (s : State) : (postEntry q n st j ty fl lo r u s).glb = s.glb := (posts_postEntry q n st j ty fl lo r u s).glb
@[simp] theorem postEntry_interims (q n : Nat) (st : Status) (j ty fl lo : Nat) (r : List Byte) (u : Bool) (s : State) : (postEntry q n st j ty fl lo r u s).interims = s.interims := (posts_postEntry q n st j ty fl lo r u s).interims
@[simp] theorem postEntry_features (q n : Nat) (st : Status) (j ty fl lo : Nat) (r : List Byte) (u : Bool) (s : State) : (postEntry q n st j ty fl lo r u s).features = s.features := (posts_postEntry q n st j ty fl lo r u s).features
@[simp] theorem postEntry_trace (q n : Nat) (st : Status) (j ty fl lo : Nat) (r : List Byte) (u : Bool) (s : State) : (postEntry q n st j ty fl lo r u s).trace = s.trace := (posts_postEntry q n st j ty fl lo r u s).trace
@[simp] theorem postEntry_jobs (q n : Nat) (st : Status) (j ty fl lo : Nat) (r : List Byte) (u : Bool) (s : State) : (postEntry q n st j ty fl lo r u s).jobs = s.jobs := (posts_postEntry q n st j ty fl lo r u s).jobs
@[simp] theorem postEntry_cmds (q n : Nat) (st : Status) (j ty fl lo : Nat) (r : List Byte) (u : Bool) (s : State) : (postEntry q n st j ty fl lo r u s).cmds = s.cmds := (posts_postEntry q n st j ty fl lo r u s).cmds
@[simp] theorem postEntry_parts (q n : Nat) (st : Status) (j ty fl lo : Nat) (r : List Byte) (u : Bool) (s : State) : (postEntry q n st j ty fl lo r u s).parts = s.parts := (posts_postEntry q n st j ty fl lo r u s).parts
@[simp] theorem postEntry_counts (q n : Nat) (st : Status) (j ty fl lo : Nat) (r : List Byte) (u : Bool) (s : State) : (postEntry q n st j ty fl lo r u s).counts = s.counts := (posts_postEntry q n st j ty fl lo r u s).counts
@[simp] theorem postEntry_tiles (q n : Nat) (st : Status) (j ty fl lo : Nat) (r : List Byte) (u : Bool) (s : State) : (postEntry q n st j ty fl lo r u s).tiles = s.tiles := (posts_postEntry q n st j ty fl lo r u s).tiles
@[simp] theorem postEntry_images (q n : Nat) (st : Status) (j ty fl lo : Nat) (r : List Byte) (u : Bool) (s : State) : (postEntry q n st j ty fl lo r u s).images = s.images := (posts_postEntry q n st j ty fl lo r u s).images
@[simp] theorem postEntry_objs (q n : Nat) (st : Status) (j ty fl lo : Nat) (r : List Byte) (u : Bool) (s : State) : (postEntry q n st j ty fl lo r u s).objs = s.objs := (posts_postEntry q n st j ty fl lo r u s).objs
@[simp] theorem postEntry_cold (q n : Nat) (st : Status) (j ty fl lo : Nat) (r : List Byte) (u : Bool) (s : State) : (postEntry q n st j ty fl lo r u s).cold = s.cold := (posts_postEntry q n st j ty fl lo r u s).cold
@[simp] theorem postEntry_descs (q n : Nat) (st : Status) (j ty fl lo : Nat) (r : List Byte) (u : Bool) (s : State) : (postEntry q n st j ty fl lo r u s).descs = s.descs := (posts_postEntry q n st j ty fl lo r u s).descs
@[simp] theorem postEntry_nextDesc (q n : Nat) (st : Status) (j ty fl lo : Nat) (r : List Byte) (u : Bool) (s : State) : (postEntry q n st j ty fl lo r u s).nextDesc = s.nextDesc := (posts_postEntry q n st j ty fl lo r u s).nextDesc
@[simp] theorem postEntry_fox (q n : Nat) (st : Status) (j ty fl lo : Nat) (r : List Byte) (u : Bool) (s : State) : (postEntry q n st j ty fl lo r u s).fox = s.fox := (posts_postEntry q n st j ty fl lo r u s).fox
@[simp] theorem postEntry_split (q n : Nat) (st : Status) (j ty fl lo : Nat) (r : List Byte) (u : Bool) (s : State) : (postEntry q n st j ty fl lo r u s).split = s.split := (posts_postEntry q n st j ty fl lo r u s).split
@[simp] theorem postEntry_tiers (q n : Nat) (st : Status) (j ty fl lo : Nat) (r : List Byte) (u : Bool) (s : State) : (postEntry q n st j ty fl lo r u s).tiers = s.tiers := (posts_postEntry q n st j ty fl lo r u s).tiers
@[simp] theorem postEntry_tierQueue (q n : Nat) (st : Status) (j ty fl lo : Nat) (r : List Byte) (u : Bool) (s : State) : (postEntry q n st j ty fl lo r u s).tierQueue = s.tierQueue := (posts_postEntry q n st j ty fl lo r u s).tierQueue
@[simp] theorem postEntry_srv (q n : Nat) (st : Status) (j ty fl lo : Nat) (r : List Byte) (u : Bool) (s : State) : (postEntry q n st j ty fl lo r u s).srv = s.srv := (posts_postEntry q n st j ty fl lo r u s).srv
@[simp] theorem postEntry_lnk (q n : Nat) (st : Status) (j ty fl lo : Nat) (r : List Byte) (u : Bool) (s : State) : (postEntry q n st j ty fl lo r u s).lnk = s.lnk := (posts_postEntry q n st j ty fl lo r u s).lnk
@[simp] theorem postEntry_pwr (q n : Nat) (st : Status) (j ty fl lo : Nat) (r : List Byte) (u : Bool) (s : State) : (postEntry q n st j ty fl lo r u s).pwr = s.pwr := (posts_postEntry q n st j ty fl lo r u s).pwr
@[simp] theorem postEntry_thm (q n : Nat) (st : Status) (j ty fl lo : Nat) (r : List Byte) (u : Bool) (s : State) : (postEntry q n st j ty fl lo r u s).thm = s.thm := (posts_postEntry q n st j ty fl lo r u s).thm
@[simp] theorem postEntry_nrg (q n : Nat) (st : Status) (j ty fl lo : Nat) (r : List Byte) (u : Bool) (s : State) : (postEntry q n st j ty fl lo r u s).nrg = s.nrg := (posts_postEntry q n st j ty fl lo r u s).nrg
@[simp] theorem postEntry_wdog (q n : Nat) (st : Status) (j ty fl lo : Nat) (r : List Byte) (u : Bool) (s : State) : (postEntry q n st j ty fl lo r u s).wdog = s.wdog := (posts_postEntry q n st j ty fl lo r u s).wdog
@[simp] theorem postEntry_mctl (q n : Nat) (st : Status) (j ty fl lo : Nat) (r : List Byte) (u : Bool) (s : State) : (postEntry q n st j ty fl lo r u s).mctl = s.mctl := (posts_postEntry q n st j ty fl lo r u s).mctl
@[simp] theorem postEntry_ras (q n : Nat) (st : Status) (j ty fl lo : Nat) (r : List Byte) (u : Bool) (s : State) : (postEntry q n st j ty fl lo r u s).ras = s.ras := (posts_postEntry q n st j ty fl lo r u s).ras
@[simp] theorem postEntry_boot (q n : Nat) (st : Status) (j ty fl lo : Nat) (r : List Byte) (u : Bool) (s : State) : (postEntry q n st j ty fl lo r u s).boot = s.boot := (posts_postEntry q n st j ty fl lo r u s).boot
@[simp] theorem postEntry_fwPages (q n : Nat) (st : Status) (j ty fl lo : Nat) (r : List Byte) (u : Bool) (s : State) : (postEntry q n st j ty fl lo r u s).fwPages = s.fwPages := (posts_postEntry q n st j ty fl lo r u s).fwPages
@[simp] theorem postEntry_mem (q n : Nat) (st : Status) (j ty fl lo : Nat) (r : List Byte) (u : Bool) (s : State) : (postEntry q n st j ty fl lo r u s).mem = s.mem := (posts_postEntry q n st j ty fl lo r u s).mem
@[simp] theorem postEntry_fresh (q n : Nat) (st : Status) (j ty fl lo : Nat) (r : List Byte) (u : Bool) (s : State) : (postEntry q n st j ty fl lo r u s).fresh = s.fresh := (posts_postEntry q n st j ty fl lo r u s).fresh
@[simp] theorem refuse_pending (q : Nat) (p : Pkt) (r : Ref) (s : State) : (refuse q p r s).pending = s.pending := (posts_refuse q p r s).pending
@[simp] theorem refuse_clk (q : Nat) (p : Pkt) (r : Ref) (s : State) : (refuse q p r s).clk = s.clk := (posts_refuse q p r s).clk
@[simp] theorem refuse_pins (q : Nat) (p : Pkt) (r : Ref) (s : State) : (refuse q p r s).pins = s.pins := (posts_refuse q p r s).pins
@[simp] theorem refuse_slow (q : Nat) (p : Pkt) (r : Ref) (s : State) : (refuse q p r s).slow = s.slow := (posts_refuse q p r s).slow
@[simp] theorem refuse_glb (q : Nat) (p : Pkt) (r : Ref) (s : State) : (refuse q p r s).glb = s.glb := (posts_refuse q p r s).glb
@[simp] theorem refuse_interims (q : Nat) (p : Pkt) (r : Ref) (s : State) : (refuse q p r s).interims = s.interims := (posts_refuse q p r s).interims
@[simp] theorem refuse_features (q : Nat) (p : Pkt) (r : Ref) (s : State) : (refuse q p r s).features = s.features := (posts_refuse q p r s).features
@[simp] theorem refuse_trace (q : Nat) (p : Pkt) (r : Ref) (s : State) : (refuse q p r s).trace = s.trace := (posts_refuse q p r s).trace
@[simp] theorem refuse_jobs (q : Nat) (p : Pkt) (r : Ref) (s : State) : (refuse q p r s).jobs = s.jobs := (posts_refuse q p r s).jobs
@[simp] theorem refuse_cmds (q : Nat) (p : Pkt) (r : Ref) (s : State) : (refuse q p r s).cmds = s.cmds := (posts_refuse q p r s).cmds
@[simp] theorem refuse_parts (q : Nat) (p : Pkt) (r : Ref) (s : State) : (refuse q p r s).parts = s.parts := (posts_refuse q p r s).parts
@[simp] theorem refuse_counts (q : Nat) (p : Pkt) (r : Ref) (s : State) : (refuse q p r s).counts = s.counts := (posts_refuse q p r s).counts
@[simp] theorem refuse_tiles (q : Nat) (p : Pkt) (r : Ref) (s : State) : (refuse q p r s).tiles = s.tiles := (posts_refuse q p r s).tiles
@[simp] theorem refuse_images (q : Nat) (p : Pkt) (r : Ref) (s : State) : (refuse q p r s).images = s.images := (posts_refuse q p r s).images
@[simp] theorem refuse_objs (q : Nat) (p : Pkt) (r : Ref) (s : State) : (refuse q p r s).objs = s.objs := (posts_refuse q p r s).objs
@[simp] theorem refuse_cold (q : Nat) (p : Pkt) (r : Ref) (s : State) : (refuse q p r s).cold = s.cold := (posts_refuse q p r s).cold
@[simp] theorem refuse_descs (q : Nat) (p : Pkt) (r : Ref) (s : State) : (refuse q p r s).descs = s.descs := (posts_refuse q p r s).descs
@[simp] theorem refuse_nextDesc (q : Nat) (p : Pkt) (r : Ref) (s : State) : (refuse q p r s).nextDesc = s.nextDesc := (posts_refuse q p r s).nextDesc
@[simp] theorem refuse_fox (q : Nat) (p : Pkt) (r : Ref) (s : State) : (refuse q p r s).fox = s.fox := (posts_refuse q p r s).fox
@[simp] theorem refuse_split (q : Nat) (p : Pkt) (r : Ref) (s : State) : (refuse q p r s).split = s.split := (posts_refuse q p r s).split
@[simp] theorem refuse_tiers (q : Nat) (p : Pkt) (r : Ref) (s : State) : (refuse q p r s).tiers = s.tiers := (posts_refuse q p r s).tiers
@[simp] theorem refuse_tierQueue (q : Nat) (p : Pkt) (r : Ref) (s : State) : (refuse q p r s).tierQueue = s.tierQueue := (posts_refuse q p r s).tierQueue
@[simp] theorem refuse_srv (q : Nat) (p : Pkt) (r : Ref) (s : State) : (refuse q p r s).srv = s.srv := (posts_refuse q p r s).srv
@[simp] theorem refuse_lnk (q : Nat) (p : Pkt) (r : Ref) (s : State) : (refuse q p r s).lnk = s.lnk := (posts_refuse q p r s).lnk
@[simp] theorem refuse_pwr (q : Nat) (p : Pkt) (r : Ref) (s : State) : (refuse q p r s).pwr = s.pwr := (posts_refuse q p r s).pwr
@[simp] theorem refuse_thm (q : Nat) (p : Pkt) (r : Ref) (s : State) : (refuse q p r s).thm = s.thm := (posts_refuse q p r s).thm
@[simp] theorem refuse_nrg (q : Nat) (p : Pkt) (r : Ref) (s : State) : (refuse q p r s).nrg = s.nrg := (posts_refuse q p r s).nrg
@[simp] theorem refuse_wdog (q : Nat) (p : Pkt) (r : Ref) (s : State) : (refuse q p r s).wdog = s.wdog := (posts_refuse q p r s).wdog
@[simp] theorem refuse_mctl (q : Nat) (p : Pkt) (r : Ref) (s : State) : (refuse q p r s).mctl = s.mctl := (posts_refuse q p r s).mctl
@[simp] theorem refuse_ras (q : Nat) (p : Pkt) (r : Ref) (s : State) : (refuse q p r s).ras = s.ras := (posts_refuse q p r s).ras
@[simp] theorem refuse_boot (q : Nat) (p : Pkt) (r : Ref) (s : State) : (refuse q p r s).boot = s.boot := (posts_refuse q p r s).boot
@[simp] theorem refuse_fwPages (q : Nat) (p : Pkt) (r : Ref) (s : State) : (refuse q p r s).fwPages = s.fwPages := (posts_refuse q p r s).fwPages
@[simp] theorem refuse_mem (q : Nat) (p : Pkt) (r : Ref) (s : State) : (refuse q p r s).mem = s.mem := (posts_refuse q p r s).mem
@[simp] theorem refuse_fresh (q : Nat) (p : Pkt) (r : Ref) (s : State) : (refuse q p r s).fresh = s.fresh := (posts_refuse q p r s).fresh

/-! ### Settling the device state (R215) -/

/-- Settling changes GLB, and at a Den entry the ports and the power state. -/
theorem settle_glb (s : State) : settle s = { s with glb := (settle s).glb, lnk := (settle s).lnk, pwr := (settle s).pwr } := by
  unfold settle
  dsimp only
  split <;> (repeat' split) <;> (try unfold startDen) <;> rfl

@[simp] theorem settle_pending (s : State) : (settle s).pending = s.pending := by rw [settle_glb]
@[simp] theorem settle_clk (s : State) : (settle s).clk = s.clk := by rw [settle_glb]
@[simp] theorem settle_slow (s : State) : (settle s).slow = s.slow := by rw [settle_glb]
@[simp] theorem settle_pins (s : State) : (settle s).pins = s.pins := by rw [settle_glb]
@[simp] theorem settle_qdb (s : State) : (settle s).qdb = s.qdb := by rw [settle_glb]
@[simp] theorem settle_queues (s : State) : (settle s).queues = s.queues := by rw [settle_glb]
@[simp] theorem settle_evq (s : State) : (settle s).evq = s.evq := by rw [settle_glb]
@[simp] theorem settle_msix (s : State) : (settle s).msix = s.msix := by rw [settle_glb]
@[simp] theorem settle_interims (s : State) : (settle s).interims = s.interims := by rw [settle_glb]
@[simp] theorem settle_features (s : State) : (settle s).features = s.features := by rw [settle_glb]
@[simp] theorem settle_trace (s : State) : (settle s).trace = s.trace := by rw [settle_glb]
@[simp] theorem settle_jobs (s : State) : (settle s).jobs = s.jobs := by rw [settle_glb]
@[simp] theorem settle_cmds (s : State) : (settle s).cmds = s.cmds := by rw [settle_glb]
@[simp] theorem settle_parts (s : State) : (settle s).parts = s.parts := by rw [settle_glb]
@[simp] theorem settle_counts (s : State) : (settle s).counts = s.counts := by rw [settle_glb]
@[simp] theorem settle_tiles (s : State) : (settle s).tiles = s.tiles := by rw [settle_glb]
@[simp] theorem settle_images (s : State) : (settle s).images = s.images := by rw [settle_glb]
@[simp] theorem settle_objs (s : State) : (settle s).objs = s.objs := by rw [settle_glb]
@[simp] theorem settle_cold (s : State) : (settle s).cold = s.cold := by rw [settle_glb]
@[simp] theorem settle_descs (s : State) : (settle s).descs = s.descs := by rw [settle_glb]
@[simp] theorem settle_nextDesc (s : State) : (settle s).nextDesc = s.nextDesc := by rw [settle_glb]
@[simp] theorem settle_fox (s : State) : (settle s).fox = s.fox := by rw [settle_glb]
@[simp] theorem settle_split (s : State) : (settle s).split = s.split := by rw [settle_glb]
@[simp] theorem settle_tiers (s : State) : (settle s).tiers = s.tiers := by rw [settle_glb]
@[simp] theorem settle_tierQueue (s : State) : (settle s).tierQueue = s.tierQueue := by rw [settle_glb]
@[simp] theorem settle_srv (s : State) : (settle s).srv = s.srv := by rw [settle_glb]
@[simp] theorem settle_thm (s : State) : (settle s).thm = s.thm := by rw [settle_glb]
@[simp] theorem settle_nrg (s : State) : (settle s).nrg = s.nrg := by rw [settle_glb]
@[simp] theorem settle_wdog (s : State) : (settle s).wdog = s.wdog := by rw [settle_glb]
@[simp] theorem settle_mctl (s : State) : (settle s).mctl = s.mctl := by rw [settle_glb]
@[simp] theorem settle_ras (s : State) : (settle s).ras = s.ras := by rw [settle_glb]
@[simp] theorem settle_dump (s : State) : (settle s).dump = s.dump := by rw [settle_glb]
@[simp] theorem settle_att (s : State) : (settle s).att = s.att := by rw [settle_glb]
@[simp] theorem settle_boot (s : State) : (settle s).boot = s.boot := by rw [settle_glb]
@[simp] theorem settle_fwPages (s : State) : (settle s).fwPages = s.fwPages := by rw [settle_glb]
@[simp] theorem settle_mem (s : State) : (settle s).mem = s.mem := by rw [settle_glb]
@[simp] theorem settle_host (s : State) : (settle s).host = s.host := by rw [settle_glb]
@[simp] theorem settle_fresh (s : State) : (settle s).fresh = s.fresh := by rw [settle_glb]

/-! ### Commands -/

@[simp] theorem decide_eq (k : Nat × Nat) (st : Status) (r : List Byte) (s : State) :
    decide_ k st r s = onCmd k (fun c => if c.done.isSome then c else { c with done := some st, result := r }) s := rfl

end Sys2Proof.Machine
end

