-- ==== Sys2Proof/Laws/Exec.lean ====
section
/-! SUPPORT. What any command and any step can answer. -/
namespace Sys2Proof.Machine

/-- A command answers a committed state, but for the three that stop outside the absolute maximum ratings of R398. -/
theorem exec_commit (c : Instr) (s : State) :
    (∃ t, exec c s = commit t) ∨
    (exec c s = .fault .absoluteMaximum ∧ ∃ vin power, 7200 < vin ∧
      (c = .powerUp vin ∨ c = .vin64OutOfRange vin power ∨ c = .vin64UndervoltReset vin)) := by
  cases c
  case powerUp vin =>
    by_cases h : vin > 7200
    · exact .inr ⟨by simp [exec, execPowerUp, h], vin, 0, h, .inl rfl⟩
    · exact .inl ⟨_, by simp only [exec, execPowerUp, if_neg h]; rfl⟩
  case vin64OutOfRange vin power =>
    by_cases h : vin > 7200
    · exact .inr ⟨by simp [exec, execVin64OutOfRange, h], vin, power, h, .inr (.inl rfl)⟩
    · exact .inl ⟨_, by simp only [exec, execVin64OutOfRange, if_neg h]; rfl⟩
  case vin64UndervoltReset vin =>
    by_cases h : vin > 7200
    · exact .inr ⟨by simp [exec, execVin64UndervoltReset, h], vin, 0, h, .inr (.inr rfl)⟩
    · exact .inl ⟨_, by simp only [exec, execVin64UndervoltReset, if_neg h]; rfl⟩
  all_goals exact .inl ⟨_, rfl⟩

end Sys2Proof.Machine
end

