-- ==== Sys2Proof/Laws/Host.lean ====
section
/-! SUPPORT. Host commands: how a packet that passes its checks is taken, and how one that fails is refused. -/
namespace Sys2Proof.Machine

/-! ### Commands by name -/

theorem cmdAt_congr {s t : State} (h : t.cmds = s.cmds) (k : Nat × Nat) : cmdAt t k = cmdAt s k := by
  simp only [cmdAt, h]

@[simp] theorem cmdAt_settle (s : State) (k : Nat × Nat) : cmdAt (settle s) k = cmdAt s k := cmdAt_congr (by simp) k

/-- A named command after some command was changed, where the change keeps its name. -/
theorem cmdAt_onCmd (k l : Nat × Nat) (g : Cmd → Cmd) (hq : ∀ c, (g c).queue = c.queue) (hs : ∀ c, (g c).seq = c.seq) (s : State) :
    cmdAt (onCmd k g s) l = if k = l then (cmdAt s l).map g else cmdAt s l := by
  simp only [cmdAt, onCmd_cmds]
  induction s.cmds with
  | nil => simp
  | cons c t ih =>
    simp only [List.map_cons, List.find?_cons]
    by_cases hc : (c.queue == k.1 && c.seq == k.2) = true
    · simp only [hc, if_true, hq, hs]
      by_cases hk : k = l
      · subst hk
        simp [hc]
      · have hl : (c.queue == l.1 && c.seq == l.2) = false := by
          rw [Bool.eq_false_iff]
          intro hl
          simp only [Bool.and_eq_true, beq_iff_eq] at hc hl
          exact hk (Prod.ext (hc.1.symm.trans hl.1) (hc.2.symm.trans hl.2))
        simp only [hl]
        exact ih
    · simp only [hc, Bool.false_eq_true, if_false]
      cases hl : (c.queue == l.1 && c.seq == l.2)
      · simpa using ih
      · have : k ≠ l := by
          rintro rfl
          exact hc hl
        simp [this]

/-- A decision: the first one stands (R190). -/
theorem statusOf_decide {s : State} {k : Nat × Nat} {c : Cmd} (h : cmdAt s k = some c) (hd : c.done = none) (st : Status)
    (r : List Byte) : statusOf (decide_ k st r s) k = some st := by
  unfold statusOf decide_
  rw [cmdAt_onCmd k k _ (by intro c; split <;> rfl) (by intro c; split <;> rfl), if_pos rfl, h]
  simp [hd]

theorem cmdAt_decide {s : State} {k : Nat × Nat} {c : Cmd} (h : cmdAt s k = some c) (hd : c.done = none) (st : Status)
    (r : List Byte) : cmdAt (decide_ k st r s) k = some { c with done := some st, result := r } := by
  unfold decide_
  rw [cmdAt_onCmd k k _ (by intro c; split <;> rfl) (by intro c; split <;> rfl), if_pos rfl, h]
  simp [hd]

/-! ### Checks -/

theorem firstRef_none {l : List (Option Ref)} (h : firstRef l = none) : ∀ x ∈ l, x = none := by
  intro x hx
  unfold firstRef at h
  rw [List.findSome?_eq_none_iff] at h
  simpa using h x hx

theorem refuseIf_none {b : Bool} {st : Status} {loc : Nat} (h : refuseIf b st loc = none) : b = false := by
  cases b
  · rfl
  · simp [refuseIf] at h

/-- A packet that passes has a SEQ that no incomplete command of its queue carries (R212). -/
theorem checkPacket_new {sp : OpSpec} {s : State} {q : Nat} {p : Pkt} (h : checkPacket sp s q p = none) :
    cmdAt s (q, pktSeq p) = none := by
  have h1 := refuseIf_none (firstRef_none h (refuseIf (s.cmds.any fun c => c.queue == q && c.seq == pktSeq p) .badParam 4)
    (by simp))
  simpa [cmdAt, List.find?_eq_none] using h1

/-- It passes the parameter checks of its opcode (step 5). -/
theorem checkPacket_params {sp : OpSpec} {s : State} {q : Nat} {p : Pkt} (h : checkPacket sp s q p = none) :
    sp.params s q p = none := firstRef_none h _ (by simp)

/-- The device is in a state that takes the opcode (R218). -/
theorem checkPacket_device {sp : OpSpec} {s : State} {q : Nat} {p : Pkt} (h : checkPacket sp s q p = none) :
    (deviceRow sp.op).contains s.glb.state = true := by
  have h1 := firstRef_none h (if !(deviceRow sp.op).contains s.glb.state then conflict s q p else none) (by simp)
  by_cases hc : (deviceRow sp.op).contains s.glb.state = true
  · exact hc
  · rw [Bool.not_eq_true] at hc
    rw [hc] at h1
    cases h1

theorem checkPacket_state {sp : OpSpec} {s : State} {q : Nat} {p : Pkt} (h : checkPacket sp s q p = none) :
    sp.state s q p = none := firstRef_none h _ (by simp)

theorem checkPacket_resources {sp : OpSpec} {s : State} {q : Nat} {p : Pkt} (h : checkPacket sp s q p = none) :
    sp.resources s q p = none := firstRef_none h _ (by simp)

/-! ### Taking and refusing -/

theorem hostCommand_takes {sp : OpSpec} {q : Nat} {p : Pkt} {s : State} (h : takes sp q p s) (pick : Nat) :
    hostCommand sp q p pick s = settle (sp.effect (newCmd q (rowPacket sp.op p)) pick (enter sp q (rowPacket sp.op p) s)) := by
  simp [hostCommand, h.1, judge, h.2, accept]

theorem hostCommand_refuses {sp : OpSpec} {q : Nat} {p : Pkt} {s : State} {r : Ref}
    (hr : mayRead sp q s (rowPacket sp.op p) = true) (h : checkPacket sp s q (rowPacket sp.op p) = some r) (pick : Nat) :
    hostCommand sp q p pick s = refuse q (rowPacket sp.op p) r s := by
  simp [hostCommand, hr, judge, h]

/-- Entering changes the commands, the reservation of the queue's ring, and the partition's queue. -/
theorem enter_shape (sp : OpSpec) (q : Nat) (p : Pkt) (s : State) :
    enter sp q p s = { s with cmds := (enter sp q p s).cmds, queues := (enter sp q p s).queues, parts := (enter sp q p s).parts } := by
  unfold enter
  dsimp only
  split
  · split <;> rfl
  · rfl

@[simp] theorem enter_pending (sp : OpSpec) (q : Nat) (p : Pkt) (s : State) : (enter sp q p s).pending = s.pending := by rw [enter_shape]
@[simp] theorem enter_clk (sp : OpSpec) (q : Nat) (p : Pkt) (s : State) : (enter sp q p s).clk = s.clk := by rw [enter_shape]
@[simp] theorem enter_pins (sp : OpSpec) (q : Nat) (p : Pkt) (s : State) : (enter sp q p s).pins = s.pins := by rw [enter_shape]
@[simp] theorem enter_glb (sp : OpSpec) (q : Nat) (p : Pkt) (s : State) : (enter sp q p s).glb = s.glb := by rw [enter_shape]
@[simp] theorem enter_qdb (sp : OpSpec) (q : Nat) (p : Pkt) (s : State) : (enter sp q p s).qdb = s.qdb := by rw [enter_shape]
@[simp] theorem enter_evq (sp : OpSpec) (q : Nat) (p : Pkt) (s : State) : (enter sp q p s).evq = s.evq := by rw [enter_shape]
@[simp] theorem enter_msix (sp : OpSpec) (q : Nat) (p : Pkt) (s : State) : (enter sp q p s).msix = s.msix := by rw [enter_shape]
@[simp] theorem enter_interims (sp : OpSpec) (q : Nat) (p : Pkt) (s : State) : (enter sp q p s).interims = s.interims := by rw [enter_shape]
@[simp] theorem enter_features (sp : OpSpec) (q : Nat) (p : Pkt) (s : State) : (enter sp q p s).features = s.features := by rw [enter_shape]
@[simp] theorem enter_trace (sp : OpSpec) (q : Nat) (p : Pkt) (s : State) : (enter sp q p s).trace = s.trace := by rw [enter_shape]
@[simp] theorem enter_jobs (sp : OpSpec) (q : Nat) (p : Pkt) (s : State) : (enter sp q p s).jobs = s.jobs := by rw [enter_shape]
@[simp] theorem enter_tiles (sp : OpSpec) (q : Nat) (p : Pkt) (s : State) : (enter sp q p s).tiles = s.tiles := by rw [enter_shape]
@[simp] theorem enter_images (sp : OpSpec) (q : Nat) (p : Pkt) (s : State) : (enter sp q p s).images = s.images := by rw [enter_shape]
@[simp] theorem enter_objs (sp : OpSpec) (q : Nat) (p : Pkt) (s : State) : (enter sp q p s).objs = s.objs := by rw [enter_shape]
@[simp] theorem enter_cold (sp : OpSpec) (q : Nat) (p : Pkt) (s : State) : (enter sp q p s).cold = s.cold := by rw [enter_shape]
@[simp] theorem enter_descs (sp : OpSpec) (q : Nat) (p : Pkt) (s : State) : (enter sp q p s).descs = s.descs := by rw [enter_shape]
@[simp] theorem enter_nextDesc (sp : OpSpec) (q : Nat) (p : Pkt) (s : State) : (enter sp q p s).nextDesc = s.nextDesc := by rw [enter_shape]
@[simp] theorem enter_fox (sp : OpSpec) (q : Nat) (p : Pkt) (s : State) : (enter sp q p s).fox = s.fox := by rw [enter_shape]
@[simp] theorem enter_split (sp : OpSpec) (q : Nat) (p : Pkt) (s : State) : (enter sp q p s).split = s.split := by rw [enter_shape]
@[simp] theorem enter_tiers (sp : OpSpec) (q : Nat) (p : Pkt) (s : State) : (enter sp q p s).tiers = s.tiers := by rw [enter_shape]
@[simp] theorem enter_tierQueue (sp : OpSpec) (q : Nat) (p : Pkt) (s : State) : (enter sp q p s).tierQueue = s.tierQueue := by rw [enter_shape]
@[simp] theorem enter_srv (sp : OpSpec) (q : Nat) (p : Pkt) (s : State) : (enter sp q p s).srv = s.srv := by rw [enter_shape]
@[simp] theorem enter_lnk (sp : OpSpec) (q : Nat) (p : Pkt) (s : State) : (enter sp q p s).lnk = s.lnk := by rw [enter_shape]
@[simp] theorem enter_pwr (sp : OpSpec) (q : Nat) (p : Pkt) (s : State) : (enter sp q p s).pwr = s.pwr := by rw [enter_shape]
@[simp] theorem enter_thm (sp : OpSpec) (q : Nat) (p : Pkt) (s : State) : (enter sp q p s).thm = s.thm := by rw [enter_shape]
@[simp] theorem enter_nrg (sp : OpSpec) (q : Nat) (p : Pkt) (s : State) : (enter sp q p s).nrg = s.nrg := by rw [enter_shape]
@[simp] theorem enter_wdog (sp : OpSpec) (q : Nat) (p : Pkt) (s : State) : (enter sp q p s).wdog = s.wdog := by rw [enter_shape]
@[simp] theorem enter_mctl (sp : OpSpec) (q : Nat) (p : Pkt) (s : State) : (enter sp q p s).mctl = s.mctl := by rw [enter_shape]
@[simp] theorem enter_ras (sp : OpSpec) (q : Nat) (p : Pkt) (s : State) : (enter sp q p s).ras = s.ras := by rw [enter_shape]
@[simp] theorem enter_dump (sp : OpSpec) (q : Nat) (p : Pkt) (s : State) : (enter sp q p s).dump = s.dump := by rw [enter_shape]
@[simp] theorem enter_att (sp : OpSpec) (q : Nat) (p : Pkt) (s : State) : (enter sp q p s).att = s.att := by rw [enter_shape]
@[simp] theorem enter_boot (sp : OpSpec) (q : Nat) (p : Pkt) (s : State) : (enter sp q p s).boot = s.boot := by rw [enter_shape]
@[simp] theorem enter_fwPages (sp : OpSpec) (q : Nat) (p : Pkt) (s : State) : (enter sp q p s).fwPages = s.fwPages := by rw [enter_shape]
@[simp] theorem enter_mem (sp : OpSpec) (q : Nat) (p : Pkt) (s : State) : (enter sp q p s).mem = s.mem := by rw [enter_shape]
@[simp] theorem enter_host (sp : OpSpec) (q : Nat) (p : Pkt) (s : State) : (enter sp q p s).host = s.host := by rw [enter_shape]
@[simp] theorem enter_fresh (sp : OpSpec) (q : Nat) (p : Pkt) (s : State) : (enter sp q p s).fresh = s.fresh := by rw [enter_shape]

theorem cmdAt_enter {sp : OpSpec} {q : Nat} {p : Pkt} {s : State} (h : cmdAt s (q, pktSeq p) = none) :
    cmdAt (enter sp q p s) (q, pktSeq p) =
      some { newCmd q p with part := if sp.queued then partOfJob s (pktJob p) else none } := by
  have h0 : ∀ t : State, t.cmds = s.cmds ++ [newCmd q p] → cmdAt t (q, pktSeq p) = some (newCmd q p) := by
    intro t ht
    simp only [cmdAt] at h ⊢
    rw [ht, List.find?_append, h]
    simp [newCmd]
  unfold enter
  dsimp only
  cases hq : sp.queued
  · simp only [Bool.false_eq_true, if_false]
    exact h0 _ rfl
  · simp only [if_true]
    cases hp : partOfJob s (pktJob p) with
    | none => exact h0 _ rfl
    | some f =>
      simp only
      unfold enqueue
      have : ∀ (t : State), cmdAt (onPart f (fun p_1 => { p_1 with queue := p_1.queue ++ [(newCmd q p).key] }) t) (q, pktSeq p)
          = cmdAt t (q, pktSeq p) := fun t => cmdAt_congr rfl _
      rw [this, cmdAt_onCmd (newCmd q p).key (q, pktSeq p) (fun c => { c with part := some f }) (fun _ => rfl) (fun _ => rfl),
        if_pos (show (newCmd q p).key = (q, pktSeq p) from rfl), h0 _ rfl]
      rfl

/-- The command a packet becomes, as its effect finds it. -/
theorem cmdAt_takes {sp : OpSpec} {q : Nat} {p : Pkt} {s : State} (h : takes sp q p s) :
    cmdAt (enter sp q (rowPacket sp.op p) s) (takenKey sp q p) =
      some { newCmd q (rowPacket sp.op p) with
             part := if sp.queued then partOfJob s (pktJob (rowPacket sp.op p)) else none } :=
  cmdAt_enter (checkPacket_new h.2)

/-! ### What an accepted command answers -/

/-- A taken packet answers a next state, made from its effect. -/
theorem takes_next {c : Instr} {sp : OpSpec} {q : Nat} {p : Pkt} {pick : Nat} {s u : State}
    (hx : exec c s = commit (hostCommand sp q p pick s)) (h : takes sp q p s)
    (he : sp.effect (newCmd q (rowPacket sp.op p)) pick (enter sp q (rowPacket sp.op p) s) = u) :
    exec c s = .next { settle u with mem := Mem.canon u.mem, host := Mem.canon u.host } := by
  rw [hx, hostCommand_takes h, he, commit_next]
  simp

/-- An opcode whose effect decides its command: the status and result, and everything else as the effect `u` left it. -/
theorem takes_decides {c : Instr} {sp : OpSpec} {q : Nat} {p : Pkt} {pick : Nat} {s : State} (u : State) (st : Status)
    (r : List Byte) (hx : exec c s = commit (hostCommand sp q p pick s)) (h : takes sp q p s)
    (he : sp.effect (newCmd q (rowPacket sp.op p)) pick (enter sp q (rowPacket sp.op p) s) = decide_ (takenKey sp q p) st r u)
    (hu : u.cmds = (enter sp q (rowPacket sp.op p) s).cmds) :
    ∃ t, exec c s = .next t ∧ statusOf t (takenKey sp q p) = some st ∧ resultOf t (takenKey sp q p) = r ∧
      t = { u with cmds := t.cmds, glb := (settle (decide_ (takenKey sp q p) st r u)).glb,
                   lnk := (settle (decide_ (takenKey sp q p) st r u)).lnk, pwr := (settle (decide_ (takenKey sp q p) st r u)).pwr,
                   mem := Mem.canon u.mem, host := Mem.canon u.host } := by
  have hc := (cmdAt_congr hu (takenKey sp q p)).trans (cmdAt_takes h)
  have hd := cmdAt_decide hc rfl st r
  refine ⟨_, takes_next hx h he, ?_, ?_, ?_⟩
  · show (cmdAt _ _).bind _ = _
    rw [cmdAt_congr (s := decide_ (takenKey sp q p) st r u) (by simp) _, hd]
    rfl
  · show ((cmdAt _ _).map _).getD [] = _
    rw [cmdAt_congr (s := decide_ (takenKey sp q p) st r u) (by simp) _, hd]
    rfl
  · rw [settle_glb]
    rfl

end Sys2Proof.Machine
end

