-- ==== Sys2Proof/Laws/MlDsa.lean ====
section
/-! SUPPORT. Lengths in ML-DSA-44, and a signature that passes for any message: under the key of zeros, whose t is zero, the response of
zeros answers its own challenge. -/
namespace Sys2Proof.Machine

@[simp] theorem leBytes_length (n v : Nat) : (leBytes n v).length = n := by
  induction n generalizing v with
  | zero => rfl
  | succ n ih => simp [leBytes, ih]

@[simp] theorem sliceB_length (l : List Byte) (o n : Nat) : (sliceB l o n).length = n := by
  simp only [sliceB, List.length_append, List.length_take, List.length_drop, List.length_replicate]; omega

theorem shakeBlocks_length (rate n : Nat) (st : List W64) : (shakeBlocks rate n st).length = rate * n := by
  induction n generalizing st with
  | zero => rfl
  | succ n ih => simp [shakeBlocks, ih, Nat.mul_succ]; omega

theorem shake_length {rate : Nat} (h : 0 < rate) (m : List Byte) (n : Nat) : (shake rate m n).length = n := by
  have : n ≤ rate * ceilDiv n rate := by
    have := Nat.lt_mul_div_succ (n + rate - 1) h
    rw [ceilDiv, if_neg (by omega)]
    rw [Nat.mul_add] at this
    omega
  simp [shake, shakeBlocks_length]; omega

@[simp] theorem dsaH_length (m : List Byte) (n : Nat) : (dsaH m n).length = n := shake_length (by decide) m n

@[simp] theorem dsaChallenge_length (mu : List Byte) (w : PolyVec) : (dsaChallenge mu w).length = 32 := by simp [dsaChallenge]

theorem shaAbsorb_length (st : List W64) (b : List Byte) : (shaAbsorb st b).length = 25 := by
  have : ∀ (l : List W64) (x : List W64), x.length = 25 → (l.foldl shaRound x).length = 25 := by
    intro l
    induction l with
    | nil => exact fun _ h => h
    | cons a t ih => exact fun x _ => ih _ (by simp [shaRound])
  exact this _ _ (by simp)

@[simp] theorem sha3_length (m : List Byte) : (sha3 m).length = 32 := by
  have : ∀ (l : List (List Byte)) (x : List W64), x.length = 25 → (l.foldl shaAbsorb x).length = 25 := by
    intro l
    induction l with
    | nil => exact fun _ h => h
    | cons a t ih => exact fun x _ => ih _ (shaAbsorb_length _ _)
  have h : ∀ l : List W64, (l.flatMap fun w => leBytes 8 w.toNat).length = 8 * l.length := by
    intro l
    induction l with
    | nil => rfl
    | cons a t ih => simp [ih]; omega
  rw [sha3, h, List.length_take, this _ _ (List.length_replicate ..)]
  rfl

/-! ### Zeros -/

abbrev zeroPoly : Poly := List.replicate 256 0
abbrev zeroVec : PolyVec := List.replicate 4 zeroPoly

theorem ntt_zero : ntt zeroPoly = zeroPoly := by decide +kernel
theorem unNtt_zero : unNtt zeroPoly = zeroPoly := by decide +kernel

theorem zipWith_qMul_zero (n : Nat) (p : Poly) (h : p.length = n) :
    List.zipWith qMul p (List.replicate n 0) = List.replicate n 0 := by
  subst h
  induction p with
  | nil => rfl
  | cons a t ih => rw [List.length_cons, List.replicate_succ, List.zipWith_cons_cons, ih]; simp [qMul]

theorem mulZero (p : Poly) (h : p.length = 256) : List.zipWith qMul p zeroPoly = zeroPoly := zipWith_qMul_zero 256 p h

theorem expandA_length (rho : List Byte) : ∀ r ∈ expandA rho, r.length = 4 ∧ ∀ p ∈ r, p.length = 256 := by
  intro r hr
  obtain ⟨a, _, rfl⟩ := List.mem_map.1 hr
  refine ⟨by simp, fun p hp => ?_⟩
  obtain ⟨b, _, rfl⟩ := List.mem_map.1 hp
  rw [rejNtt, List.length_take, List.length_append, List.length_replicate]
  omega

theorem nttDot_zero (r : PolyVec) (h : r.length = 4 ∧ ∀ p ∈ r, p.length = 256) : nttDot r zeroVec = zeroPoly := by
  obtain ⟨hl, hp⟩ := h
  match r, hl with
  | [a, b, c, d], _ =>
    simp only [List.mem_cons, List.not_mem_nil, or_false, forall_eq_or_imp, forall_eq] at hp
    obtain ⟨ha, hb, hc, hd⟩ := hp
    have e : zeroVec = [zeroPoly, zeroPoly, zeroPoly, zeroPoly] := rfl
    rw [nttDot, e]
    simp only [List.zipWith_cons_cons, List.zipWith_nil_left, mulZero _ ha, mulZero _ hb, mulZero _ hc, mulZero _ hd]
    decide +kernel

theorem nttRows_zero (rho : List Byte) : nttRows (expandA rho) zeroVec = zeroVec := by
  have : ∀ r ∈ expandA rho, unNtt (nttDot r zeroVec) = zeroPoly := fun r h => by
    rw [nttDot_zero r (expandA_length rho r h), unNtt_zero]
  rw [nttRows, List.map_congr_left this, List.map_const', expandA, List.length_map, List.length_range]

theorem nttFrom_length (n m : Nat) (p : Poly) (h : p.length = 2 ^ n) : (nttFrom n m p).length = 2 ^ n := by
  induction n generalizing m p with
  | zero => simpa [nttFrom] using h
  | succ n ih =>
    have e : 2 ^ (n + 1) = 2 ^ n + 2 ^ n := by omega
    rw [nttFrom, List.length_append, ih, ih, e] <;> simp [h] <;> omega

theorem ntt_length (p : Poly) (h : p.length = 256) : (ntt p).length = 256 := nttFrom_length 8 1 p h

theorem sampleInBall_length (c : List Byte) : (sampleInBall c).length = 256 := by
  have step : ∀ s a i, (ballStep s a i).1.length = a.1.length := by
    intro s a i
    unfold ballStep
    split <;> simp
  have : ∀ (s : Nat) (l : List Nat) (a : Poly × List Byte), (l.foldl (ballStep s) a).1.length = a.1.length := by
    intro s l
    induction l with
    | nil => exact fun _ => rfl
    | cons x t ih => exact fun a => (ih _).trans (step s a x)
  unfold sampleInBall
  simp only [this, List.length_replicate]

theorem nttScale_zero (c : Poly) (h : c.length = 256) : nttScale c zeroVec = zeroVec := by
  rw [nttScale, List.map_replicate, mulZero c h, unNtt_zero]

/-! ### The signature under the key of zeros -/

/-- The key of zeros. -/
def zeroKey : List Byte := List.replicate 1312 0

/-- The response of zeros, packed, and no hint. -/
def zeroResponse : List Byte := (List.range 4).flatMap fun _ => packBits 18 (List.replicate 256 131072)

/-- Its signature of a message. -/
def zeroSignature (m : List Byte) : List Byte :=
  dsaChallenge (dsaMu zeroKey m) zeroVec ++ (zeroResponse ++ List.replicate 84 0)

theorem zeroResponse_length : zeroResponse.length = 2304 := by decide +kernel

@[simp] theorem zeroSignature_length (m : List Byte) : (zeroSignature m).length = 2420 := by
  rw [zeroSignature, List.length_append, List.length_append, dsaChallenge_length, zeroResponse_length, List.length_replicate]

theorem zeroResponse_reads : ((List.range 4).map fun i =>
    (unpackBits 18 256 (sliceB (zeroResponse ++ List.replicate 84 0) (576 * i) 576)).map fun (v : Nat) => qOf (131072 - (v : Int))) = zeroVec := by
  decide +kernel

/-- It passes. -/
theorem mldsaVerify_zero (m : List Byte) : mldsaVerify zeroKey m (zeroSignature m) = true := by
  have hk : zeroKey.length = 1312 := List.length_replicate ..
  have hd : (zeroSignature m).drop 2336 = List.replicate 84 0 := by
    rw [zeroSignature, ← List.append_assoc, List.drop_left' (by rw [List.length_append, dsaChallenge_length, zeroResponse_length])]
  have hh : unpackHint (List.replicate 84 (0 : Byte)) = some (List.replicate 4 (List.replicate 256 false)) := by decide +kernel
  have ht : (zeroSignature m).take 32 = dsaChallenge (dsaMu zeroKey m) zeroVec := by
    rw [zeroSignature, List.take_left' (dsaChallenge_length ..)]
  have hz : ((List.range 4).map fun i =>
      (unpackBits 18 256 (sliceB (zeroSignature m) (32 + 576 * i) 576)).map fun (v : Nat) => qOf (131072 - (v : Int))) = zeroVec := by
    have e : ∀ i, sliceB (zeroSignature m) (32 + 576 * i) 576 = sliceB (zeroResponse ++ List.replicate 84 0) (576 * i) 576 := by
      intro i
      have : (zeroSignature m).drop (32 + 576 * i) = (zeroResponse ++ List.replicate 84 0).drop (576 * i) := by
        rw [← List.drop_drop, zeroSignature, List.drop_left' (dsaChallenge_length ..)]
      simp only [sliceB, this]
    simp only [e]
    exact zeroResponse_reads
  have h1 : ((List.range 4).map fun i => (unpackBits 10 256 (sliceB zeroKey (32 + 320 * i) 320)).map fun v => v * 8192) = zeroVec := by
    decide +kernel
  have hn : zeroVec.map ntt = zeroVec := by rw [List.map_replicate, ntt_zero]
  have hv : vSub zeroVec zeroVec = zeroVec := by decide +kernel
  have hu : List.zipWith (List.zipWith useHint) (List.replicate 4 (List.replicate 256 false)) zeroVec = zeroVec := by decide +kernel
  have hm : decide (vNorm zeroVec < 131072 - 78) = true := by decide +kernel
  unfold mldsaVerify
  rw [hd, hh]
  simp only [ht, hz, h1, hn, nttRows_zero, nttScale_zero _ (ntt_length _ (sampleInBall_length _)), hv, hu, hm, hk, zeroSignature_length]
  simp

end Sys2Proof.Machine
end

