-- ==== Sys2Proof/Laws/Table.lean ====
section
/-! SUPPORT. Keyed tables and little-endian fields: what is found after each operation. -/
namespace Sys2Proof.Machine

theorem Tbl.get?_set {α : Type} (t : Tbl α) (i : Nat) (v : α) (j : Nat) :
    Tbl.get? (Tbl.set t i v) j = if i = j then some v else Tbl.get? t j := by
  induction t with
  | nil => simp [Tbl.set, Tbl.get?]
  | cons e t ih =>
    obtain ⟨k, w⟩ := e
    simp only [Tbl.set]
    split
    · simp only [Tbl.get?]
    · split
      · rename_i h1 h2
        subst h2
        simp only [Tbl.get?]
        split <;> rfl
      · rename_i h1 h2
        simp only [Tbl.get?, ih]
        by_cases hk : k = j
        · rw [if_pos hk, if_neg (by omega), if_pos hk]
        · rw [if_neg hk, if_neg hk]

@[simp] theorem Tbl.get?_set_self {α : Type} (t : Tbl α) (i : Nat) (v : α) : Tbl.get? (Tbl.set t i v) i = some v := by
  rw [Tbl.get?_set, if_pos rfl]

theorem Tbl.get?_set_ne {α : Type} (t : Tbl α) {i j : Nat} (v : α) (h : i ≠ j) :
    Tbl.get? (Tbl.set t i v) j = Tbl.get? t j := by rw [Tbl.get?_set, if_neg h]

@[simp] theorem Tbl.getD_set_self {α : Type} (t : Tbl α) (i : Nat) (v d : α) : Tbl.getD (Tbl.set t i v) i d = v := by
  simp [Tbl.getD]

theorem Tbl.getD_set_ne {α : Type} (t : Tbl α) {i j : Nat} (v d : α) (h : i ≠ j) :
    Tbl.getD (Tbl.set t i v) j d = Tbl.getD t j d := by simp [Tbl.getD, Tbl.get?_set_ne t v h]

theorem Tbl.get?_upd {α : Type} (t : Tbl α) (i : Nat) (f : α → α) (j : Nat) :
    Tbl.get? (Tbl.upd t i f) j = if i = j then (Tbl.get? t j).map f else Tbl.get? t j := by
  unfold Tbl.upd
  by_cases h : i = j
  · subst h
    rw [if_pos rfl]
    cases hg : Tbl.get? t i with
    | none => simp [hg]
    | some v => simp
  · rw [if_neg h]
    cases Tbl.get? t i with
    | none => rfl
    | some v => exact Tbl.get?_set_ne t _ h

@[simp] theorem Tbl.get?_upd_self {α : Type} (t : Tbl α) (i : Nat) (f : α → α) :
    Tbl.get? (Tbl.upd t i f) i = (Tbl.get? t i).map f := by rw [Tbl.get?_upd, if_pos rfl]

@[simp] theorem Tbl.get?_erase_self {α : Type} (t : Tbl α) (i : Nat) : Tbl.get? (Tbl.erase t i) i = none := by
  induction t with
  | nil => rfl
  | cons e t ih =>
    obtain ⟨k, w⟩ := e
    unfold Tbl.erase at ih ⊢
    rw [List.filter_cons]
    by_cases h : k = i
    · simpa [h] using ih
    · simpa [h, Tbl.get?] using ih

@[simp] theorem Tbl.get?_mapVals {α β : Type} (t : Tbl α) (f : α → β) (i : Nat) :
    Tbl.get? (Tbl.mapVals t f) i = (Tbl.get? t i).map f := by
  induction t with
  | nil => rfl
  | cons e t ih =>
    obtain ⟨k, w⟩ := e
    unfold Tbl.mapVals at ih ⊢
    by_cases h : k = i
    · simp [Tbl.get?, h]
    · simpa [Tbl.get?, h] using ih

theorem modAt_getElem? {α : Type} (l : List α) (i : Nat) (f : α → α) (j : Nat) :
    (modAt l i f)[j]? = if i = j then l[j]?.map f else l[j]? := by
  unfold modAt
  rw [List.getElem?_modify]
  split <;> simp

@[simp] theorem length_leBytes (n v : Nat) : (leBytes n v).length = n := by
  induction n generalizing v with
  | zero => rfl
  | succ n ih => simp [leBytes, ih]

/-- The bytes of a number spell it. -/
theorem leNat_leBytes (n v : Nat) : leNat (leBytes n v) = v % 256 ^ n := by
  induction n generalizing v with
  | zero => simp [leBytes, leNat, Nat.mod_one]
  | succ n ih =>
    simp only [leBytes, leNat, ih, BitVec.toNat_ofNat, show (2 : Nat) ^ 8 = 256 from rfl]
    rw [Nat.pow_succ 256 n, Nat.mul_comm (256 ^ n) 256, Nat.mod_mul]

@[simp] theorem length_sliceB (l : List Byte) (off n : Nat) : (sliceB l off n).length = n := by
  simp only [sliceB, List.length_append, List.length_replicate, List.length_take, List.length_drop]
  omega

end Sys2Proof.Machine
end

