-- ==== Sys2Proof/Machine/ConfigSpace.lean ====
section
/-! DEFINITION. What the host reads in configuration space, and the transactions that carry the X4's accesses to host memory
(R367, R368, R371). -/
namespace Sys2Proof.Machine

/-- The extended capabilities (R368). -/
inductive ExtCap where
  | aer | cxlDevice | cxlRegisterLocator | nymzoWindow
  deriving DecidableEq, Repr

/-- What configuration space shows (R367, R368). -/
inductive CfgItem where
  | deviceId | vendorId | classCode
  /-- Bytes of a BAR. -/
  | barSize (n : Nat)
  /-- Is a BAR prefetchable, and where in it do the CXL component registers, the MSI-X table and the pending bits stand? -/
  | prefetchable (n : Nat) | cxlRegisters | msixTable | pendingBits
  /-- The CXL Device DVSEC. -/
  | cacheCapable | memCapable | hdmCount | range1Size | memoryActive | cacheEnable
  /-- Link Status: the rate in bits [3:0], the width in bits [9:4] (PRESUMED as PCIe lays it out: log 2). -/
  | linkStatus
  deriving DecidableEq, Repr

def extCaps : List ExtCap := [.aer, .cxlDevice, .cxlRegisterLocator, .nymzoWindow]

/-- A read of configuration space, once it answers. -/
def cfgRead (s : State) (x : CfgItem) : Option Nat :=
  if !s.att.cfgUp || s.glb.state == .off then none
  else some (match x with
    | .deviceId => 0x4A04 | .vendorId => Config.vendorId | .classCode => 0x120000
    | .barSize n => match n with | 0 => 32 * 2 ^ 20 | 2 => 64 * 2 ^ 30 | 4 => 128 * 2 ^ 10 | _ => 0
    | .prefetchable n => ofBool (n == 2)
    | .cxlRegisters => 0 | .msixTable => 0x10000 | .pendingBits => 0x18000
    | .cacheCapable => 1 | .memCapable => 1 | .hdmCount => 1 | .range1Size => 256 * 2 ^ 30
    | .memoryActive => ofBool s.att.memActive | .cacheEnable => ofBool s.att.cacheOn
    | .linkStatus => s.att.rate + 16 * s.att.lanes)

/-- A transaction of the X4 to host memory (R371). -/
inductive HostTxn where
  | rdCurr | wrCur | woWrInv | ioRead | ioWrite
  deriving DecidableEq, Repr

/-- The transactions of an access of `n` bytes at a host address, line by line: with CXL.cache enabled a write of a whole 64 B line is
WrCur and one of a part is WOWrInv; with CXL.cache disabled all are CXL.io requests. Visibility and order are R231's in every case. -/
def hostTxns (s : State) (write : Bool) (a n : Nat) : List (Nat × HostTxn) :=
  (List.range (if n = 0 then 0 else (a % 64 + n + 63) / 64)).map fun i =>
    let line := a / 64 * 64 + 64 * i
    let whole := a ≤ line && line + 64 ≤ a + n
    (line, if !s.att.cacheOn then (if write then .ioWrite else .ioRead)
      else if !write then .rdCurr else if whole then .wrCur else .woWrInv)

end Sys2Proof.Machine
end

