-- ==== Sys2Proof/Tests/Slice0.lean ====
section
/-! SUPPORT. The model's own tests: what WellFormed refuses, and states and operands that meet the hypotheses of the statements. -/
namespace Sys2Proof.Tests
set_option Elab.async false
open Sys2Proof Sys2Proof.Machine

/-! ### Well-formedness -/

/-- Each check refuses an operand that names nothing. -/
theorem test_ill_formed : [Instr.nop 65 (List.replicate 64 0) 0, .nop 64 (List.replicate 63 0) 0, .nop 64 (List.replicate 576 0) 0,
    .nop 64 [] 0, .loadw 64 0, .loadw 0 24, .unitFailure 1 10, .unitFailure 2 16, .unitFailure 3 4, .ready 0 0 [] [(8, 0, 0)],
    .ready 0 0 [] [(0, 17, 0)], .ready 0 0 [] [(0, 0, 13)], .bar2Access 0 2 (some [1])].all (!wellFormed ·) = true := by decide +kernel

theorem test_well_formed : [Instr.nop 64 (List.replicate 64 0) 0, .nop 0 (List.replicate 512 0) 0, .loadw 63 23, .unitFailure 1 9,
    .unitFailure 2 15, .unitFailure 3 3, .ready 0 0 [] [(7, 16, 12)], .bar2Access 0 1 (some [1])].all wellFormed = true := by decide +kernel

/-! ### Small states -/

/-- Bytes from fields (offset, bytes, value) written into memory. -/
def putAll (m : Mem) (fs : List (Nat × Nat × Nat)) : Mem := fs.foldl (fun m f => Mem.write m f.1 (leBytes f.2.1 f.2.2)) m

def bytesOf (n : Nat) (fs : List (Nat × Nat × Nat)) : List Byte := Mem.read (putAll [] fs) 0 n

/-- A packet: opcode, FLAGS, job, SEQ, units and the fields of its parameters. -/
def pk (op flags job seq units : Nat) (fs : List (Nat × Nat × Nat)) : Pkt :=
  bytesOf (64 + 64 * units) ([(0, 1, op), (1, 1, flags), (2, 2, job), (4, 4, seq), (8, 1, units)] ++ fs)

def queueOf (job : Nat) : Queue :=
  { base := 0x100000, size := 64, tail := 0, head := 0, cqBase := 0x200000, cqSize := 64, cqTail := 0, cqPhase := true, cqHead := 0,
    reserved := 0, vector := 2, depth := 8, job }

def job1 : Job :=
  { state := .opened, saveAsked := false, account := 5, prio := 1, part := some 0, bindings := [], models := [], plan := none, hseq := 0,
    saveSet := none, closing := none }

def part0 : Part :=
  { first := 0, count := 1, shared := true, members := [1], queue := [], running := none, suspended := [], saving := none, slotIdx := 0,
    frame := 1, held := false, stalls := [], huddle := none, lastJob := 1, lastDemandEnd := none,
    fill := { start := 0, target := 0, since := 0, dur := 0, hinted := false }, hints := [], lost := none, pace := none, handed := none,
    counters := { rowsStreamed := 0, rowsSkipped := 0, spillRows := 0, haloWords := 0, gateTokens := 0, gateDrops := 0,
                  refineSkipped := 0, huddleLate := 0, huddleBad := 0, fabResidue := 0 } }

/-- READY, the admin ring enabled, SQ1 of job 1, and the job's partition of one column group. -/
def base : State :=
  { State.reset with
    glb := { Glb.reset with state := .ready }
    qdb := { Qdb.reset with aqEn := true, aqActive := true }
    queues := [(1, queueOf 1), (64, queueOf 0)]
    jobs := [(1, job1)]
    parts := [(0, part0)]
    mctl := { Mctl.reset with hbmTrained := 0xFF, ddrTrained := 0xFFF, dimmGib := List.replicate 12 64 } }

/-- The same with rack time `n`. -/
def at_ (n : Nat) (s : State) : State := { s with clk := { s.clk with rackTime := BitVec.ofNat 64 n } }

def cmdOf (op : Nat) : Cmd :=
  { queue := 1, seq := 7, job := 1, op, pkt := pk op 0 1 7 0 [], part := some 0, started := true, done := none, result := [],
    errLoc := 0, trunc := false, slotV := none, run := none, stages := [], stageAt := 0, between := false, staging := none, waits := [],
    req := none, energy := 0, hints := 0 }

def run0 : RunInfo :=
  { image := 9, slot := none, dims := [], baseDims := [], bufs := [], stepped := false, report := 0, entry := 0, inInning := true,
    restart := false, huddleDone := false, loops := 0, finished := false, executed := 0, huddleIdx := 0, hseqBase := 0, nextHold := 1,
    hold := none, freeCycle := false, drops := [], substs := [], degraded := [], cheaper := false, demand := [], plans := [], gates := [] }

def bind0 : Binding := { image := 9, model := 0xFFFF, part := 0, base := some 0, dataUnits := 4096, units := 4, cfgHome := 0, spill := false }

/-- Job 1 runs `c` on its partition, with an image bound. -/
def running1 (c : Cmd) : State :=
  { base with glb := { Glb.reset with state := .active }, cmds := [c], jobs := [(1, { job1 with bindings := [bind0] })],
              parts := [(0, { part0 with running := some (1, 7) })] }

theorem test_base_sound : memoriesOk base ∧ running base = true ∧ powered base = true ∧ regsOpen base = true := by
  refine ⟨⟨?_, ?_⟩, ?_, ?_, ?_⟩ <;> decide

/-! ### Objects and an image -/

def pageA : Nat := 0x010000000000
def pageD : Nat := 0x100000000000

/-- An object of one page. -/
def obj1 (type page : Nat) : Obj :=
  { job := 1, type, compressed := false, cold := false, pinned := false, plane := 0, elem := 0, codetab := 0, len := 0x200000,
    stackMask := 1, pages := [page], bankUnit := none, owner := none, lower := none, moving := [], gone := false, pool := false }

/-- An image for one column group, with two innings and eight symbols. -/
def img1 : List (Nat × Nat × Nat) := [(0, 4, 0x344E5956), (4, 2, 4), (6, 2, 128), (8, 8, 576), (20, 2, 2), (22, 1, 1), (25, 1, 1),
  (26, 2, 256), (32, 8, 128), (40, 4, 64),
  (128, 2, 3), (132, 4, 2), (136, 8, 256), (144, 8, 32), (160, 2, 4), (164, 4, 8), (168, 8, 320), (176, 8, 256),
  (320, 2, 1), (324, 4, 1), (352, 2, 2), (356, 4, 16), (384, 2, 248), (388, 4, 4), (416, 2, 249), (420, 4, 2), (448, 2, 250),
  (452, 4, 64), (480, 2, 4092), (482, 1, 1), (502, 2, 1), (512, 2, 4093), (514, 1, 1), (534, 2, 1), (544, 2, 4094), (546, 1, 1),
  (566, 2, 2)]

/-- Fields in memory from an address. -/
def at0 (a : Nat) (fs : List (Nat × Nat × Nat)) : Mem := (putAll [] fs).map fun c => (a + c.1, c.2)

/-- Image 9 loaded in an object's page, the one thing in memory. -/
def withImage (s : State) : State :=
  { s with objs := [(9, { obj1 5 pageA with len := 576 })], mem := at0 pageA img1,
           images := [(9, { job := 1, len := 576, x3 := false, measurement := [] })] }

def bound1 (s : State) : State := { s with jobs := [(1, { job1 with bindings := [bind0] })] }

/-- Bytes in host memory. -/
def onHost (fs : List (Nat × Nat × Nat)) (s : State) : State := { s with host := putAll s.host fs }

/-! ### Host commands -/

/-- The packet of a command on the AQ and on SQ1. -/
def adm (op : Nat) (fs : List (Nat × Nat × Nat)) : Pkt := pk op 0 0 3 0 fs
def sub (op : Nat) (fs : List (Nat × Nat × Nat)) : Pkt := pk op 0 1 3 0 fs

/-- A packet is read and passes every check. -/
def ok (sp : OpSpec) (q : Nat) (p : Pkt) (s : State) : Bool :=
  mayRead sp q s (rowPacket sp.op p) && (checkPacket sp s q (rowPacket sp.op p)).isNone

theorem takes_of_ok {sp : OpSpec} {q : Nat} {p : Pkt} {s : State} (h : ok sp q p s = true) : takes sp q p s := by
  unfold ok at h
  rw [Bool.and_eq_true, Option.isNone_iff_eq_none] at h
  exact h

def noJobs : State := { base with jobs := [], parts := [] }
def noPart : State := { base with jobs := [(1, { job1 with part := none })], parts := [] }

theorem test_takes_device : ok nopSpec 64 (adm 0 []) base && ok nopSpec 1 (sub 0 []) base
    && ok setFeatureSpec 64 (adm 2 [(32, 2, 1), (40, 8, 0x143C14)]) noJobs
    && ok setFeatureSpec 64 (adm 2 [(32, 2, 4), (40, 8, 3), (48, 8, 0x1000)]) noJobs
    && ok traceCtlSpec 64 (adm 0x60 [(32, 8, 0x300000), (40, 4, 4096), (46, 2, 3)]) base
    && ok budgetSetSpec 64 (adm 0x48 [(32, 2, 5), (36, 4, 100), (40, 4, 50)]) base
    && ok identifySpec 64 (adm 1 [(16, 8, 0x400000), (24, 4, 128)]) base && hostOk base 0x400000 128
    && ok getFeatureSpec 64 (adm 3 [(32, 2, 6)]) base
    && ok counterSnapshotSpec 64 (adm 0x61 [(40, 8, 0x500000), (48, 4, 64)]) base && hostOk base 0x500000 64
    && ok dumpReadSpec 64 (adm 0x72 [(40, 8, 0x500000), (48, 4, 64)]) base
    && ok budgetQuerySpec 64 (adm 0x49 [(32, 2, 4095)]) base = true := by decide +kernel

theorem test_takes_attest : takes attestSpec 64 (adm 0x71 [(16, 8, 0x400000), (24, 4, 128), (32, 8, 77)]) base ∧
    ∀ n, hostOk base 0x400000 n = true := ⟨takes_of_ok (by decide +kernel), fun _ => rfl⟩

theorem test_takes_jobs :
    ok jobOpenSpec 64 (adm 8 [(32, 1, 2), (33, 1, 1), (34, 2, 2), (36, 4, 64), (40, 8, 0x10000), (48, 8, 0x20000), (56, 4, 64), (60, 2, 4095),
      (62, 1, 2)]) base
    && ok jobOpenSpec 64 (pk 8 1 1 3 0 [(32, 1, 2), (33, 1, 1), (34, 2, 2), (36, 4, 64), (40, 8, 0x10000), (48, 8, 0x20000), (56, 4, 64)])
      base
    && ok jobCloseSpec 64 (pk 9 0 1 3 0 []) base
    && ok partitionAllocSpec 1 (sub 0x10 [(32, 1, 1), (33, 1, 0xFF), (34, 1, 0xFF), (35, 1, 1)]) noPart
    && ok partitionAllocSpec 1 (sub 0x10 [(36, 2, 2)]) { base with jobs := [(1, { job1 with part := none }), (2, job1)],
                                                                   parts := [(0, { part0 with members := [2] })] }
    = true := by decide +kernel

/-- An image without configurations, which any partition of one column group can hold. -/
def withBare (s : State) : State :=
  { s with objs := [(9, { obj1 5 pageA with len := 128 })], mem := Mem.write s.mem (pageA + 22) [1],
           images := [(9, { job := 1, len := 128, x3 := false, measurement := [] })] }

theorem test_takes_queued :
    ok imageBindSpec 1 (sub 0x19 [(32, 4, 9), (36, 1, 1), (38, 2, 0xFFFF)]) (withBare base)
    && ok ctxRestoreSpec 1 (sub 0x59 []) { base with jobs := [(1, { job1 with state := .saved })] }
    && ok partitionFreeSpec 1 (sub 0x11 []) base && ok ctxSaveSpec 1 (sub 0x58 [(32, 1, 1)]) base
    = true := by decide +kernel

/-- RUN of image 9 with no arguments, and a chain of two such RUNs. -/
def runPk : Pkt := sub 0x30 [(32, 4, 9), (36, 2, 0xFFFF)]
def chainHost (s : State) : State :=
  onHost [(0x6000, 1, 0x30), (0x6008, 8, 0x7000), (0x6010, 1, 0x30), (0x6018, 8, 0x7000), (0x7000, 1, 0x30), (0x7002, 2, 1), (0x7004, 4, 3),
    (0x7020, 4, 9), (0x7024, 2, 0xFFFF)] s

theorem test_takes_runs :
    ok runSpec 1 runPk (withBare (bound1 base)) && !isZeroRun (newRun (withBare (bound1 base)) 1 runPk none 0)
    && ok runChainSpec 1 (sub 0x31 [(32, 1, 2), (40, 8, 0x6000)]) (chainHost (withBare (bound1 base))) = true := by decide +kernel

/-- A plan of one huddle of gate 3 with part 5. -/
def planHost (s : State) : State :=
  onHost [(0x6000, 1, 1), (0x6001, 1, 1), (0x6002, 1, 1), (0x6010, 8, 1), (0x6040, 1, 3), (0x6080, 1, 3), (0x6081, 1, 1),
    (0x6084, 4, 192), (0x60C0, 1, 5)] { s with lnk := { s.lnk with mask := 0x20 } }

theorem test_takes_plan : ok exchangePlanSpec 1 (sub 0x68 [(40, 8, 0x6000), (48, 4, 256)]) (planHost base) = true := by decide +kernel

/-- One data object of job 1 in HBM. -/
def withObj (s : State) : State := { s with objs := [(9, obj1 4 pageA)] }

theorem test_takes_objects :
    ok objPlaceSpec 1 (sub 0x28 [(32, 1, 4), (34, 1, 1), (40, 8, 0x200000)]) base
    && (placeSpace base (rowPacket 0x28 (sub 0x28 [(32, 1, 4), (34, 1, 1), (40, 8, 0x200000)])) 0).isSome
    && ok objPlaceSpec 1 (sub 0x28 [(32, 1, 4), (34, 1, 0), (40, 8, 65536)]) base
    && (placeSpace base (rowPacket 0x28 (sub 0x28 [(32, 1, 4), (34, 1, 0), (40, 8, 65536)])) 0).isSome
    && ok objMoveSpec 1 (sub 0x29 [(32, 4, 9), (36, 1, 2)]) (withObj base) && (liveObj (withObj base) 9).isSome
    && ok objMoveSpec 1 (sub 0x29 [(32, 4, 9), (36, 1, 1), (37, 1, 1)]) (withObj base)
    && ok objReleaseSpec 1 (sub 0x29 [(32, 4, 9), (36, 1, 0xFF)]) (withObj base)
    && ok objPinSpec 1 (sub 0x2A [(32, 4, 9), (36, 1, 1)]) (withObj base) = true := by decide +kernel

/-! ### Model slots, serving, transfers -/

def emptySlot : MSlot := { state := .empty, members := [], bound := 0 }

/-- Model 5 of job 1 with slot A in a state. -/
def withModel (st : SlotState) (s : State) : State :=
  { s with jobs := [(1, { job1 with bindings := [bind0], models := [(5, { a := { emptySlot with state := st }, b := emptySlot, epoch := 3 })] })] }

/-- An image whose buffer symbol 256 a member can fill, and a member table with one member from host memory. -/
def img3 : List (Nat × Nat × Nat) := [(20, 2, 1), (22, 1, 1), (32, 8, 128), (128, 2, 4), (132, 4, 1), (136, 8, 192), (144, 8, 32),
  (192, 2, 256), (194, 1, 1), (208, 1, 1)]
def withMember (s : State) : State :=
  onHost [(0x6000, 2, 256), (0x6002, 1, 1), (0x6004, 1, 1), (0x6005, 1, 1), (0x6008, 8, 0x8000), (0x6010, 8, 64), (0x6018, 8, 64),
      (0x6020, 8, 0x9000)]
    { s with objs := [(9, { obj1 5 pageA with len := 224 })], mem := at0 pageA img3,
             images := [(9, { job := 1, len := 224, x3 := false, measurement := [] })] }

/-- A MODEL_STAGE in work whose one shard stands at `n`. -/
def stagingCmd1 (n : Nat) : Cmd :=
  { cmdOf 0x20 with staging := some { model := 5, slotB := false, members :=
      [{ sym := 256, handle := 9, source := 1, srcAddr := 0x8000, len := 64, plain := 64, digests := 0x9000, shards := [n], badAt := [(0, 0)] }] } }

def stagePk : Pkt := sub 0x20 [(32, 2, 5), (36, 4, 9), (40, 8, 0x6000), (48, 4, 1)]

theorem test_takes_models :
    ok modelStageSpec 1 stagePk (withMember (withModel .empty base))
    && (((memberEntries (withMember (withModel .empty base)) 0x6000 1).foldl (stageMember 1 5 0 false)
          (some ([], enter modelStageSpec 1 (rowPacket 0x20 stagePk) (withMember (withModel .empty base))))).isSome)
    && ok resupplySpec 1 (pk 0x20 1 1 3 0 [(32, 2, 5), (40, 8, 0x8000), (48, 4, 64)]) { withModel .staging base with cmds := [stagingCmd1 3] }
    && ok modelCommitSpec 1 (sub 0x21 [(32, 2, 5)]) (withModel .staged base)
    && ok modelEvictSpec 1 (sub 0x22 [(32, 2, 5)]) (withModel .live base) = true := by decide +kernel

/-- Job 1 serves model 5 with image 9. -/
def serving1 (s : State) : State :=
  { withImage (withModel .live s) with srv := { Srv.reset with images := [(1029, 9)] } }

def turn0 : Turn :=
  { queue := 1, seq := 7, input := [[1, 0, 0, 0], [2, 0, 0, 0]], last := false, charge := 0, unmatched := 2, matched := 0, accepted := 0,
    admitted := some 0, maxWait := 200, order := 0, nodes := [], reserve := 0 }

def out0 : Output :=
  { status := .ok, ended := 0, rows := [[9, 9, 9, 9]], rowSize := 4, time := 0, cost := 4, warren := 0, fetched := false, gone := false }

def req0 : Req :=
  { job := 1, model := 5, slotB := false, epoch := 3, account := 5, prio := 1, draft := false, maxNew := 8, maxWait := 0, state := .decode,
    turn := some turn0, held := none, seqRows := [], next := some [7, 0, 0, 0], blocks := [], path := [], rows := [], degraded := false,
    outputs := [out0], draftL := 4, zeroRun := 0, suspended := 0, draftFrom := 0, drafts := [], draftLen := 0, draftBlocks := [], doneAt := 0, lastUse := 0 }

/-- Request 21 of job 1 as given. -/
def withReq (q : Req) (s : State) : State := { serving1 s with srv := { Srv.reset with images := [(1029, 9)], reqs := [(21, q)] } }

theorem test_takes_serving :
    ok reqOpenSpec 1 (sub 0x40 [(32, 2, 5), (36, 2, 5), (40, 4, 3), (44, 4, 2), (48, 8, 0x6000)]) (serving1 base)
    && ok reqFeedSpec 1 (sub 0x41 [(32, 4, 21), (40, 8, 0x6000), (48, 4, 2)]) (withReq req0 base) && turnOpen req0
    && ok reqCloseSpec 1 (sub 0x42 [(32, 4, 21)]) (withReq { req0 with turn := none } base)
    && ok reqQuerySpec 1 (sub 0x43 [(32, 4, 21)]) (withReq req0 base)
    && ok resultFetchSpec 1 (sub 0x39 [(32, 4, 21), (40, 8, 0x6000), (48, 4, 64)]) (withReq req0 base)
    && !passed (withReq req0 base) out0.time retention
    && ok resultFetchSpec 1 (sub 0x39 [(32, 4, 21), (36, 2, 1), (40, 8, 0x6000), (48, 4, 64)]) (withReq req0 base)
    && (req0.outputs[1]?).isNone = true := by decide +kernel

theorem test_takes_transfers :
    ok xferSpec 1 (pk 0x38 0 1 3 1 [(40, 8, 0x6000), (48, 8, 64), (56, 4, 9)]) (withObj base)
    && ok xferSpec 1 (pk 0x38 0 1 3 1 [(32, 1, 2), (33, 1, 1), (72, 4, 9), (76, 4, 64), (92, 4, 1), (96, 1, 1)]) (withObj (bound1 base))
    && ok powerHintSpec 1 (sub 0x50 [(36, 4, 1000000), (40, 2, 1950)]) base
    && ok cancelSpec 1 (sub 0x33 [(33, 1, 1), (36, 4, 7)]) { base with cmds := [cmdOf 0x38] }
    && ok stepContinueSpec 1 (sub 0x32 [(32, 4, 7), (36, 1, 1), (40, 4, 6), (48, 8, 0x6000)])
      { base with cmds := [{ cmdOf 0x30 with run := some { run0 with stepped := true, hold := some { holdId := 6, gateId := 2, postedAt := none } } }] }
    = true := by decide +kernel

theorem test_takes_cancel_waits : cmdAt { base with cmds := [cmdOf 0x38] } (1, 7) = some (cmdOf 0x38) ∧ (cmdOf 0x38).op ∉ [0x33, 0x09, 0x40, 0x41] ∧
    part0.running ≠ some (1, 7) ∧ part0.saving = none := by decide +kernel

theorem test_takes_firmware :
    ok sleepSpec 64 (adm 0x78 []) base && !anyExecuting base && !anyTurn base && !base.glb.denEntry
    && ok resetComputeSpec 64 (adm 0x7F []) { base with glb := { Glb.reset with state := .service } } = true := by decide +kernel

/-! ### Rings -/

/-- A packet in SQ1's ring. -/
def ringed (op : Nat) : State :=
  onHost [(0x100000, 1, op), (0x100002, 2, 1), (0x100004, 4, 9)] { base with queues := [(1, { queueOf 1 with tail := 1 }), (64, queueOf 0)] }

/-- The packet the ring read meets. -/
def meets (s : State) (f : Queue → Nat → Pkt → Bool) : Bool :=
  match turnQueue s with
  | none => false
  | some q => match Tbl.get? s.queues q with
    | none => false
    | some k => match nextPacket s k with
      | some (n, p, true) => f k n p
      | _ => false

theorem test_rings : (turnQueue base).isNone
    && meets (ringed 0) (fun k n p => n == 1 && byteAt p 0 == 0 && byteAt p 8 ≤ 7 && decide (k.head < k.size))
    && meets (ringed 0x0E) (fun k _ p => (specOf p).isNone && byteAt p 8 ≤ 7 && decide (k.head < k.size)
        && hostOk base (k.cqBase + 32 * k.cqTail) 32) = true := by decide +kernel

/-- Decided commands, and an interim entry that waits. -/
def decided (op : Nat) : State := { base with cmds := [{ cmdOf op with done := some .ok, result := [5] }],
                                              interims := [{ queue := 1, seq := 7, type := 1, result := [1], req := 0 }] }

theorem test_entries : (cmdAt (decided 0x19) (1, 7)).any (fun c => c.done == some .ok && mayFinish (decided 0x19) c && c.op != 0x09)
    && (cmdAt (decided 0x09) (1, 7)).any (fun c => c.done == some .ok && mayFinish (decided 0x09) c && c.op == 0x09)
    && ((decided 0x19).interims.find? (·.queue == 1)).isSome && cqFree (queueOf 1) != 0 && hostOk (decided 0x19) 0x200000 32
    = true := by decide +kernel

/-- A NOP with a reserved byte set is refused. -/
theorem test_refused : mayRead nopSpec 1 base (rowPacket 0 (sub 0 [(10, 1, 1)])) && hostOk base 0x200000 32
    && (checkPacket nopSpec base 1 (rowPacket 0 (sub 0 [(10, 1, 1)])) == badParam 10) = true := by decide +kernel

/-! ### A firmware image that passes -/

/-- The first 20 bytes of the header: the magic, version 1, SVN 0, slot 0, a body of one byte. -/
def fwHead : List Byte := leBytes 4 0x57465A4E ++ leBytes 4 1 ++ List.replicate 8 0 ++ leBytes 4 1

def fwSum : List Byte := sha3 (fwHead ++ [0])

/-- An image signed under the key of zeros, with a body of one byte 0. -/
def fwImg : List Byte :=
  fwHead ++ (fwSum ++ (zeroKey ++ (zeroSignature fwSum ++ List.replicate 313 0)))

theorem fwImg_length : fwImg.length = 4097 := by
  simp only [fwImg, List.length_append, zeroSignature_length, List.length_replicate, show fwHead.length = 20 from rfl,
    show zeroKey.length = 1312 from List.length_replicate .., show fwSum.length = 32 from sha3_length _]

theorem fwImg_header : fwImg.take 4096 = fwHead ++ (fwSum ++ (zeroKey ++ (zeroSignature fwSum ++ List.replicate 312 0))) := by
  have e : fwImg = (fwHead ++ (fwSum ++ (zeroKey ++ (zeroSignature fwSum ++ List.replicate 312 0)))) ++ [0] := by
    simp only [fwImg, List.append_assoc, List.replicate_succ' (n := 312)]
  rw [e, List.take_left']
  simp only [List.length_append, zeroSignature_length, List.length_replicate, show fwHead.length = 20 from rfl,
    show zeroKey.length = 1312 from List.length_replicate .., show fwSum.length = 32 from sha3_length _]

/-- Parts of the image, whatever stands behind its signature. -/
theorem fwParts (z : List Byte) : let b := fwHead ++ (fwSum ++ (zeroKey ++ (zeroSignature fwSum ++ z)))
    sliceB b 20 32 = fwSum ∧ sliceB b 52 1312 = zeroKey ∧ sliceB b 1364 2420 = zeroSignature fwSum ∧ b.drop 3784 = z := by
  have h20 : fwHead.length = 20 := rfl
  have h32 : fwSum.length = 32 := sha3_length _
  have hk : zeroKey.length = 1312 := List.length_replicate ..
  have hs : (zeroSignature fwSum).length = 2420 := zeroSignature_length _
  have d1 : ∀ y : List Byte, (fwHead ++ y).drop 20 = y := fun y => List.drop_left' h20
  have d2 : ∀ y : List Byte, (fwHead ++ (fwSum ++ y)).drop 52 = y := fun y => by
    rw [show 52 = 20 + 32 from rfl, ← List.drop_drop, d1, List.drop_left' h32]
  have d3 : ∀ y : List Byte, (fwHead ++ (fwSum ++ (zeroKey ++ y))).drop 1364 = y := fun y => by
    rw [show 1364 = 52 + 1312 from rfl, ← List.drop_drop, d2, List.drop_left' hk]
  have cut : ∀ (x y : List Byte) (n : Nat), x.length = n → (x ++ y).take n ++ List.replicate (n - ((x ++ y).take n).length) 0 = x :=
    fun x y n h => by rw [List.take_left' h, h, Nat.sub_self]; simp
  refine ⟨?_, ?_, ?_, ?_⟩
  · rw [sliceB, d1]; exact cut _ _ _ h32
  · rw [sliceB, d2]; exact cut _ _ _ hk
  · rw [sliceB, d3]; exact cut _ _ _ hs
  · rw [show 3784 = 1364 + 2420 from rfl, ← List.drop_drop, d3, List.drop_left' hs]

theorem fwHeader_ok (n : Nat) (h : 312 ≤ n) :
    fwHeaderOk (fwHead ++ (fwSum ++ (zeroKey ++ (zeroSignature fwSum ++ List.replicate n 0)))) = true := by
  have d := (fwParts (List.replicate n 0)).2.2.2
  have z : allZero (sliceB (fwHead ++ (fwSum ++ (zeroKey ++ (zeroSignature fwSum ++ List.replicate n 0)))) 3784 312) = true := by
    rw [sliceB, d, List.take_replicate, Nat.min_eq_left h, List.length_replicate]
    decide +kernel
  unfold fwHeaderOk
  rw [z]
  rfl

/-- Keys that fuse the digest of the key of zeros. -/
def fwBoot : Boot := { Boot.reset with keys := [sha3 zeroKey, []], flash := Mem.write [] 0x1900000 fwImg }

theorem fwImg_auth : fwAuthOk fwBoot fwImg = true := by
  have p := fwParts (List.replicate 313 0)
  have body : fwImg.take 20 ++ sliceB fwImg 4096 (fwBodyLen fwImg) = fwHead ++ [0] := by
    have e : fwBodyLen fwImg = 1 := rfl
    have t : fwImg.take 20 = fwHead := List.take_left' rfl
    have d : fwImg.drop 4096 = [0] := by
      have := (fwParts (List.replicate 313 0)).2.2.2
      rw [show 4096 = 3784 + 312 from rfl, ← List.drop_drop, fwImg, this]
      rfl
    rw [e, t, sliceB, d]
    rfl
  have k : sliceB fwImg 52 1312 = zeroKey := p.2.1
  have g : sliceB fwImg 1364 2420 = zeroSignature fwSum := p.2.2.1
  have s : fwDigest fwImg = fwSum := p.1
  unfold fwAuthOk
  simp only [body, k, g, s, mldsaVerify_zero]
  simp [fwBoot, show byteAt fwImg 9 = 0 from rfl, show fwSvn fwImg = 0 from rfl, Boot.reset, fwSum]

theorem Mem.read_add (m : Mem) (a n k : Nat) : Mem.read m a (n + k) = Mem.read m a n ++ Mem.read m (a + n) k := by
  simp [Mem.read, List.range_add, List.map_append, Function.comp_def, Nat.add_assoc]

theorem fwFlash_image : fwImage fwBoot.flash true = fwImg := by
  have w : Mem.wf ([] : Mem) = true := rfl
  have r := Mem.read_write w 0x1900000 fwImg
  rw [fwImg_length, show 4097 = 4096 + 1 from rfl, Mem.read_add] at r
  have l : ∀ n a, (Mem.read (Mem.write [] 0x1900000 fwImg) a n).length = n := fun n a => by simp [Mem.read]
  have e : fwBoot.flash = Mem.write [] 0x1900000 fwImg := by simp only [fwBoot]
  have h := congrArg (List.take 4096) r
  rw [List.take_left' (l 4096 0x1900000)] at h
  have ok : fwHeaderOk (Mem.read (Mem.write [] 0x1900000 fwImg) 0x1900000 4096) = true := by
    rw [h, fwImg_header]; exact fwHeader_ok 312 (Nat.le_refl _)
  have hb : fwBodyLen (Mem.read (Mem.write [] 0x1900000 fwImg) 0x1900000 4096) = 1 :=
    (congrArg fwBodyLen (h.trans fwImg_header)).trans rfl
  unfold fwImage
  rw [e, show fwRegion true = 0x1900000 from rfl]
  simp only [ok, hb, if_true]
  exact r

theorem fwFlash_low (a n : Nat) (h : a + n ≤ 0x1900000) : Mem.read fwBoot.flash a n = List.replicate n 0 := by
  apply List.ext_getElem
  · simp [Mem.read]
  · intro i h1 h2
    simp only [Mem.read, List.length_map, List.length_range] at h1
    simp only [Mem.read, List.getElem_map, List.getElem_range, fwBoot, Mem.get_write (show Mem.wf ([] : Mem) = true from rfl),
      List.getElem_replicate]
    rw [if_neg (by omega)]
    rfl

theorem record_blank (m : Mem) (h0 : recordCopy m 0 = List.replicate 64 0) (h1 : recordCopy m 1 = List.replicate 64 0) :
    recordInForce m = none := by
  have v : recordValid (List.replicate 64 0) = false := by decide +kernel
  simp only [recordInForce, h0, h1, v]

theorem fwBoot_noRecord : recordInForce fwBoot.flash = none :=
  record_blank _ (fwFlash_low _ _ (by decide)) (fwFlash_low _ _ (by decide))

theorem fwBoot_noA : fwPasses fwBoot false = false := by
  unfold fwPasses fwImage
  rw [fwFlash_low (fwRegion false) 4096 (by decide)]
  decide +kernel

theorem fwBoot_passes : fwPasses fwBoot true = true := by
  have a : fwHeaderOk fwImg = true := fwHeader_ok 313 (by decide)
  unfold fwPasses
  rw [fwFlash_image]
  simp only [a, fwImg_auth, Bool.and_self]

/-- The boot ROM finds no image A, and accepts image B. -/
theorem test_boot_image :
    [preferredImage fwBoot.flash, !preferredImage fwBoot.flash].find? (fwPasses fwBoot) = some true := by
  have p : preferredImage fwBoot.flash = false := by rw [preferredImage, fwBoot_noRecord]
  simp [p, fwBoot_noA, fwBoot_passes]

/-- A part that runs image A, with image B in its flash and the same image in host memory. -/
def fwState : State := { noJobs with host := Mem.write [] 0x6000 fwImg, boot := fwBoot }

def updatePkt : Pkt := adm 0x70 [(40, 8, 0x6000), (48, 4, 4097)]
def activatePkt : Pkt := adm 0x70 [(32, 1, 1)]

theorem fwState_update (p : Pkt) (h32 : byteAt p 32 = 0) (h48 : fieldAt p 48 4 = 4097) (h40 : fieldAt p 40 8 = 0x6000) :
    fwUpdateSpec.params fwState 64 p = none ∧ fwUpdateSpec.resources fwState 64 p = none := by
  have e : fwState.host = Mem.write [] 0x6000 fwImg := by simp only [fwState]
  have src : fwSource fwState p = fwImg := by
    unfold fwSource readHost
    rw [h48, h40, e, ← fwImg_length, Mem.read_write (show Mem.wf ([] : Mem) = true from rfl)]
  have head : fwHeaderOk fwImg = true := fwHeader_ok 313 (by decide)
  have len : fwBodyLen fwImg = 1 := rfl
  have auth : fwAuthOk fwState.boot fwImg = true := fwImg_auth
  have host : hostOk fwState 0x6000 4097 = true := rfl
  have busy : fwBusy fwState = false := rfl
  constructor
  · simp only [fwUpdateSpec, h32, h48, h40, src, head, len, host]
    decide
  · simp only [fwUpdateSpec, h32, src, auth, busy]
    decide

theorem fwState_activate (p : Pkt) (h32 : byteAt p 32 = 1) : fwUpdateSpec.resources fwState 64 p = none := by
  have pass : fwPasses fwState.boot (!fwState.boot.image) = true := fwBoot_passes
  have busy : fwBusy fwState = false := rfl
  simp only [fwUpdateSpec, h32, pass, busy]
  rfl

/-- FW_UPDATE and ACTIVATE of that image are taken. -/
theorem test_takes_update : takes fwUpdateSpec 64 updatePkt fwState ∧ takes fwUpdateSpec 64 activatePkt fwState ∧
    byteAt updatePkt 32 = 0 ∧ byteAt activatePkt 32 = 1 ∧ Mem.wf fwState.boot.flash = true ∧
    recordInForce fwState.boot.flash = none := by
  obtain ⟨a, b⟩ := fwState_update (rowPacket fwUpdateSpec.op updatePkt) (by decide +kernel) (by decide +kernel) (by decide +kernel)
  have c := fwState_activate (rowPacket fwUpdateSpec.op activatePkt) (by decide +kernel)
  refine ⟨⟨rfl, ?_⟩, ⟨rfl, ?_⟩, by decide +kernel, by decide +kernel, by simp only [fwState, fwBoot]; exact Mem.wf_write _ _ rfl,
    fwBoot_noRecord⟩
  · unfold checkPacket
    rw [a, b]
    rfl
  · unfold checkPacket
    rw [c]
    rfl

/-! ### Partitions and RUNs -/

def waits1 (op : Nat) (s : State) : State :=
  { s with cmds := [{ cmdOf op with started := false, run := some { run0 with inInning := false } }],
           parts := [(0, { part0 with queue := [(1, 7)] })] }

def hot (s : State) : State :=
  { s with parts := [(0, { part0 with queue := [(1, 7)], fill := { start := 50, target := 50, since := 0, dur := 0, hinted := false } })] }

theorem test_starts : (startHead (waits1 0x11 base) { part0 with queue := [(1, 7)] }).any (fun c => c.op == 0x11)
    && (startHead (waits1 0x19 base) { part0 with queue := [(1, 7)] }).any (fun c => c.op == 0x19)
    && (startHead (waits1 0x30 base) { part0 with queue := [(1, 7)] }).any (fun c =>
        hasDemand c.op && !demandMet (waits1 0x30 base) { part0 with queue := [(1, 7)] } c)
    && ((hot (waits1 0x30 base)).parts.head?).any (fun e => (startHead (hot (waits1 0x30 base)) e.2).any fun c =>
        hasDemand c.op && demandMet (hot (waits1 0x30 base)) e.2 c
        && decide (fillNow (hot (waits1 0x30 base)) e.2 ≥ demandOf (fitCap e.2 (hot (waits1 0x30 base))) e.2))
    && (partOfJob base 1 == some 0) && (Tbl.get? base.images 0).isNone = true := by decide +kernel

/-- A state that runs on partition 0. -/
def runs (s : State) (f : Part → Cmd → RunInfo → Bool) : Bool := (runningRun s 0).any fun x => f x.1 x.2.1 x.2.2

/-- Job 1's RUN of image 9 as given, on tiles that have done their part. -/
def inRun (r : RunInfo) : State :=
  { withImage (running1 { cmdOf 0x30 with run := some r }) with tiles := [] }

theorem test_run_ends : runs (inRun { run0 with inInning := false, finished := true }) (fun p c r => r.finished && !c.between
      && (descsOf (inRun { run0 with inInning := false, finished := true }) c.key).all (·.2.done) && c.op == 0x30 && p.first == 0)
    && (cmdAt { running1 { cmdOf 0x31 with between := true, stages := [{ pkt := [], run := some run0 }, { pkt := [], run := some run0 }] }
        with glb := Glb.reset } (1, 7)).any (fun c => c.between && c.done.isNone)
    && !saveDue (running1 { cmdOf 0x31 with between := true }) part0 = true := by decide +kernel

theorem test_innings : (imgInnings (imgOf (inRun run0) 9)).length == 2
    && runs (inRun { run0 with inInning := false }) (fun p c r => !r.finished && !c.between
        && !saveDue (inRun { run0 with inInning := false }) p && (bindingOf (inRun run0) c.job r.image).isSome)
    && runs (inRun { run0 with entry := 1 }) (fun p c r => r.inInning && tilesDone (inRun { run0 with entry := 1 }) p
        && descsDone (inRun { run0 with entry := 1 }) c r && p.huddle.isNone) = true := by decide +kernel

theorem test_innings_start : ((imgInnings (imgOf (inRun run0) 9))[0]?).any (fun e =>
    running (readSlots { part0 with running := some (1, 7) } 1 e.slot false
      (fillSlots { part0 with running := some (1, 7) } 1 bind0 e (inRun { run0 with inInning := false })))) = true := by decide +kernel

/-! ### Micro-ops: a tile that stands at its first micro-op -/

/-- Opcode and the rest of a micro-op word, fields as (bit, value). -/
def uop (op : Nat) (fs : List (Nat × Nat)) : Nat := op * 2 ^ 59 + (fs.map fun f => f.2 * 2 ^ f.1).sum

/-- T(0, 0) of job 1's RUN in COMPUTE at the one micro-op `w` of its block, whose profile 0 has A format INT8. -/
def micro (w : Nat) (f : Tile → Tile) (r : RunInfo := run0) : State :=
  { inRun r with tiles := [(0, f { Tile.reset with
      phase := .compute, ended := false,
      slots := [{ tag := none, mem := putAll [] [(8, 2, 1), (0x200, 1, 11), (0x400, 8, w)] }] })] }

/-- The micro-op issues in `s`, and the rest holds of its context and word. -/
def issues (s : State) (op : Nat) (f : Ctx → Nat → Bool) : Bool :=
  match issueCtx s 0 0 op with
  | some a => f a.1 a.2
  | none => false

/-- The accesses are inside and free, and the reads among them find no uncorrectable word. -/
def readsFree (x : Ctx) (accs rs : List Access) (acc : List Nat) (s : State) : Bool :=
  accs.all (accessOk x) && spansFree x (tileAt s x.t) (readSpans accs) (writeSpans accs) && (checkReads x rs acc s).1.isEmpty

def reads (x : Ctx) (accs : List Access) (acc : List Nat) (s : State) : Bool := readsFree x accs accs acc s

theorem issues_ctx {s : State} {op : Nat} {f : Ctx → Nat → Bool} (h : issues s op f = true) :
    ∃ x w, issueCtx s 0 0 op = some (x, w) ∧ f x w = true := by
  unfold issues at h
  split at h
  · exact ⟨_, _, by assumption, h⟩
  · cases h

theorem reads_pass {x : Ctx} {accs : List Access} {acc : List Nat} {s : State} (h : reads x accs acc s = true) : readsPass x accs acc s := by
  unfold reads readsFree at h
  rw [Bool.and_eq_true, Bool.and_eq_true, List.isEmpty_iff] at h
  exact ⟨h.1.1, h.1.2, h.2⟩

def sLoadw : State := micro (uop 1 [(58, 1), (54, 11)]) id
def sStream (n : Nat) (f : Tile → Tile) : State := micro (uop 2 [(53, 1), (23, n)]) f
def sFabric : State := micro (uop 2 [(53, 2), (23, 1)]) id

/-- Profile 0 with CONV = 1. -/
def sConv (src : Nat) : State :=
  micro (uop 2 [(53, src), (23, 1)]) fun t => { t with slots := t.slots.map fun x => { x with mem := Mem.write x.mem 0x200 (leBytes 2 0x80B) } }

/-- The reads of a STREAM pass. -/
def streamFree (x : Ctx) (o : StreamOps) (s : State) : Bool :=
  (tileAt s x.t).streams.isEmpty && (tileAt s x.t).inprog.isEmpty && !(tileAt s x.t).refineSkipped
  && readsFree x (streamAccess x o) (streamReads x s o)
      (if !o.vacc && (o.dst = 0 || o.dst = 3) then (streamRows x s o).map (o.accRow + ·) else []) s

theorem test_loadw : issues sLoadw 1 (fun x w => (tileAt sLoadw x.t).pending.isNone
    && reads x [{ bank := !bitAt w 58, lo := effAddr x (tileAt sLoadw x.t) (opAdvsel w) (opAddr w),
                  n := ceilDiv (blockLen ((fmtOf (bitsOf w 54 4)).getD .e4m3) (bitAt w 53)) 64, write := false }] [] sLoadw
    && !bitAt w 52) = true := by decide +kernel

theorem test_stream : issues (sStream 0 id) 2 (fun x w => (streamOps x (tileAt (sStream 0 id) x.t) w).n == 0)
    && issues (sStream 1 fun t => { t with refineSkipped := true }) 2 (fun x w =>
        (streamOps x (tileAt (sStream 1 id) x.t) w).n != 0
        && (tileAt (sStream 1 fun t => { t with refineSkipped := true }) x.t).refineSkipped)
    && issues (sStream 1 id) 2 (fun x w =>
        let o := streamOps x (tileAt (sStream 1 id) x.t) w
        o.n != 0 && o.src != 2 && modeAdmits (modeBits o.block.fmt) o.a && !profConv o.prof && streamFree x o (sStream 1 id))
    = true := by decide +kernel

/-- From the fabric; and a convolution, from the register file and from the fabric. -/
theorem test_stream_sources : issues sFabric 2 (fun x w =>
        let o := streamOps x (tileAt sFabric x.t) w
        o.n != 0 && o.src == 2 && !profConv o.prof && streamFree x o sFabric)
    && ([1, 2].all fun src => issues (sConv src) 2 fun x w =>
        let o := streamOps x (tileAt (sConv src) x.t) w
        o.n != 0 && o.src == src && profConv o.prof && modeAdmits (modeBits o.block.fmt) o.a && streamFree x o (sConv src))
    = true := by decide +kernel

/-- A STREAM that has read all its input. -/
def job0 : StreamJob :=
  { dst := 2, vacc := false, accRow := 0, rows := 1, res := [], todo := [], words := 0, part := [], prof := 0, colMask := 0, entered := true,
    promotes := false, block := WBlock.zero, kMask := 0, lastWord := none, left := 0, rd := [], wr := [] }

theorem test_stream_done : ((ctxAt (sStream 1 fun t => { t with streams := [job0] }) 0 0).isSome && job0.words == 0 && job0.left == 0) = true := by
  decide +kernel

def sAccrd : State := micro (uop 3 [(57, 3), (29, 2)]) id
def sAccwr : State := micro (uop 4 [(57, 3), (29, 2)]) id

theorem test_accumulator : issues sAccrd 3 (fun x w => bitsOf w 57 2 == 3 && !bitAt w 51 && !bitAt w 52 && accCount x w == 2
      && accFree (tileAt sAccrd x.t) (accTiles false (bitsOf w 41 10) (accCount x w))
      && reads x [] ((List.range (accCount x w)).map (bitsOf w 41 10 + ·)) sAccrd)
    && issues sAccwr 4 (fun x w => bitsOf w 57 2 == 3 && !bitAt w 51 && Mem.wf (tileAt sAccwr x.t).acc
      && accFree (tileAt sAccwr x.t) (accTiles false (bitsOf w 41 10) (accCount x w)) && reads x [] [] sAccwr) = true := by decide +kernel

def sCopy : State := micro (uop 5 [(53, 0x30), (41, 1), (31, 8)]) id
def sAdd : State := micro (uop 5 [(53, 0x00), (41, 1), (31, 8), (1, 2), (11, 4)]) id
def sScan : State := micro (uop 6 [(47, 1), (27, 2), (17, 4), (7, 6)]) id
def sSend : State := micro (uop 7 [(53, 1), (36, 4)]) id
def sRecv : State := micro (uop 8 [(55, 3), (36, 4)]) id

theorem test_vector : issues sCopy 5 (fun x w => !vectorBusy (tileAt sCopy x.t) && reads x (vopAccess w) [] sCopy && bitsOf w 53 6 == 0x30)
    && issues sAdd 5 (fun x w => !vectorBusy (tileAt sAdd x.t) && reads x (vopAccess w) [] sAdd && bitsOf w 53 6 == 0 && bitsOf w 49 4 == 0
      && !bitAt w 0 && vopCount (bitsOf w 41 8) == 1)
    && issues sScan 6 (fun x w => !vectorBusy (tileAt sScan x.t) && vopCount (bitsOf w 47 8) == 1 && bitsOf w 55 4 == 0 && reads x
        [{ bank := false, lo := bitsOf w 37 10, n := 2, write := false }, { bank := false, lo := bitsOf w 27 10, n := 2, write := false },
         { bank := false, lo := bitsOf w 17 10, n := 2, write := false }, { bank := false, lo := bitsOf w 7 10, n := 2, write := true },
         { bank := false, lo := bitsOf w 37 10, n := 2, write := true }] [] sScan)
    = true := by decide +kernel

theorem test_words : issues sSend 7 (fun x w => !bitAt w 54 && bitAt w 53
      && reads x [{ bank := false, lo := effAddr x (tileAt sSend x.t) (bitsOf w 34 2) (bitsOf w 18 10), n := bitsOf w 36 16, write := false },
          { bank := true, lo := effAddr x (tileAt sSend x.t) (bitsOf w 34 2) (opAddr w), n := bitsOf w 36 16, write := true }] [] sSend)
    && issues sRecv 8 (fun x w => !((tileAt sRecv x.t).inprog.any fun j => j.kind == .recv && j.cid == bitsOf w 55 4)
      && reads x [{ bank := false, lo := effAddr x (tileAt sRecv x.t) (bitsOf w 34 2) (bitsOf w 18 10), n := bitsOf w 36 16, write := true }]
          [] sRecv) = true := by decide +kernel

theorem test_sequencer : issues (micro (uop 9 [(58, 1), (41, 3)]) id) 9 (fun _ w => bitsOf w 58 1 == 1)
    && issues (micro (uop 0x0B [(56, 2), (0, 5)]) id) 0x0B (fun _ w => bitsOf w 56 3 == 2)
    && issues (micro (uop 0 [(58, 1), (32, 2)]) id) 0 (fun _ w => isLoop w && loopLvl w == 0)
    && issues (micro (uop 0 []) id) 0 (fun x w => !isLoop w && opsEnded (tileAt (micro (uop 0 []) id) x.t))
    && issues (micro (uop 0x0C [(57, 1)]) id) 0x0C (fun x w => phaseOf (bitsOf w 57 2) == (tileAt (micro (uop 0x0C [(57, 1)]) id) x.t).phase)
    && issues (micro (uop 0x0C []) id) 0x0C (fun x w => phaseOf (bitsOf w 57 2) != .compute && opsEnded (tileAt (micro (uop 0x0C []) id) x.t))
    && issues (micro (uop 0x0C [(57, 2)]) fun t => { t with phase := .load }) 0x0C (fun _ w => phaseOf (bitsOf w 57 2) == .drain)
    = true := by decide +kernel

theorem test_waits : (ctxAt (micro 0 fun t => { t with wait := .waitph 0 0 0 4 0, loads := 4 }) 0 0).isSome
    && (ctxAt (micro 0 fun t => { t with wait := .waitph 2 0 0 4 0, cycles := 4 }) 0 0).isSome
    && (ctxAt (micro 0 fun t => { t with wait := .waitph 1 3 0 0 0 }) 0 0).any (fun x =>
        (maskTiles (micro 0 fun t => { t with wait := .waitph 1 3 0 0 0 }) x.part 0).all fun i =>
          atBarrier 3 (tileAt (micro 0 fun t => { t with wait := .waitph 1 3 0 0 0 }) i)) = true := by decide +kernel

theorem test_drains : (ctxAt (micro 0 fun t => { t with wait := .final, phase := .drain }) 0 0).any (fun x =>
      (fullUnits (tileAt (micro 0 fun t => { t with wait := .final, phase := .drain }) x.t)).isEmpty)
    && (ctxAt (micro 0 fun t => { t with wait := .drain .compute, phase := .drain }) 0 0).any (fun x =>
      (fullUnits (tileAt (micro 0 fun t => { t with wait := .drain .compute, phase := .drain }) x.t)).isEmpty) = true := by decide +kernel

def gateRun0 : RunInfo := { run0 with dims := [(1, 1), (2, 1)] }
def sGate : State := micro (uop 0x0A [(52, 1), (47, 1), (27, 10), (10, 1)])
  (fun t => { t with rf := putAll [] [(644, 2, 1), (648, 1, 1), (649, 1, 2), (653, 1, 1), (654, 2, 1), (660, 1, 20), (662, 1, 22), (664, 1, 24),
    (676, 4, 65536)] }) gateRun0

/-- The same as a reporting GATE of a Stepped RUN. -/
def sGateHeld : State := micro (uop 0x0A [(52, 1), (47, 1), (27, 10), (10, 1)])
  (fun t => { t with rf := Mem.write (tileAt sGate 0).rf 651 [2] }) { gateRun0 with stepped := true }

/-- A GATE may issue at T(0, 0) of a state. -/
def gates (s : State) (f : Ctx → GateRunP → Bool) : Bool := issues s 0x0A fun x w =>
  let p := gateSetup x s w
  Mem.wf (tileAt s x.t).rf && (tileAt s x.t).inprog.isEmpty && (tileAt s x.t).streams.isEmpty && (tileAt s x.t).gateRun.isEmpty
  && gateBlockOk x.blk (isDim p.img) x.bind.dataUnits w p.g p.n (p.t0 + p.n) && !inPreload x.blk (gatePaddr w)
  && Tbl.getD x.run.dims p.g.capDim 0 == p.c && gateI0 x (tileAt s x.t) == 0 && reads x (gateAccess p) [] s && f x p

theorem test_gate : gates sGate (fun x p =>
      let z := gateStart x sGate p true
      !p.stepped && !p.g.dfeed && decide (gateKmin p.w ≤ gateKmax p.w) && ((tileAt sGate x.t).steer[gateUnit p.w]?).isSome
        && !(gateAccs x sGate p z.1 z.2).1.past)
    && gates sGateHeld (fun x p => p.stepped && p.g.report && Tbl.get? sGateHeld.parts x.part.first == some x.part)
    && Mem.wf sGate.mem && Mem.wf sGate.host = true := by decide +kernel

/-! ### Registers, the host port and interrupts -/

def released (k : Queue) (x : Nat) : Bool :=
  decide (x < k.cqSize ∧ (x + k.cqSize - k.cqHead) % k.cqSize ≤ (k.cqTail + k.cqSize - k.cqHead) % k.cqSize)

/-- Doorbells of SQ1 and of the admin ring: inside their rings, and past the end (64). -/
theorem test_doorbells : regsOpen base
    && ([1, 64].all fun n => (Tbl.get? base.queues n).any fun k => decide (63 < k.size ∧ k.size ≤ 64) && released k 0 && !released k 1)
    && base.qdb.aqEn && ({ State.reset with pending := [] }.glb.state == .boot) && State.reset.att.cfgUp
    && ({ base with glb := { base.glb with state := .den } }.glb.state == .den) = true := by decide +kernel

def evqOn (h t : Nat) (s : State) : State := { s with evq := { Evq.reset with en := true, everEn := true, head := h, tail := t, base := 0x40000 } }

/-- EVQ_HEAD up to the tail and past it. -/
theorem test_evq_head : ([0, 3].all fun y => decide (y < 2 ^ 12 ∧ (y + 2 ^ 12 - 0) % 2 ^ 12 ≤ ((evqOn 0 3 base).evq.tail + 2 ^ 12 - 0) % 2 ^ 12))
    && !decide ((4 + 2 ^ 12 - 0) % 2 ^ 12 ≤ (evqOn 0 3 base).evq.tail) && regsOpen (evqOn 0 3 base) = true := by decide +kernel

def aqOff (n : Nat) : State := { base with qdb := { Qdb.reset with aqSize := BitVec.ofNat 5 n }, queues := [(1, queueOf 1)] }

theorem test_admin_ring : ([6, 12].all fun n => decide (6 ≤ (aqOff n).qdb.aqSize.toNat ∧ (aqOff n).qdb.aqSize.toNat ≤ 12))
    && ([5, 13].all fun n => !decide (6 ≤ (aqOff n).qdb.aqSize.toNat ∧ (aqOff n).qdb.aqSize.toNat ≤ 12))
    && regsOpen (aqOff 6) && !(aqOff 6).qdb.aqEn && !(aqOff 6).qdb.aqActive && turnQueue (aqOff 6) != some 64
    && (let s := { aqOff 6 with cmds := [{ cmdOf 0x01 with queue := 64, done := some .ok }] }
        (cmdAt s (64, 7)).any fun c => c.done.isSome && mayFinish s c) = true := by decide +kernel

/-- Staging QDB_AQ_BASE's low half, its high half with nothing staged, and the lock. -/
theorem test_wide_words : regsOpen (aqOff 6) && !(aqOff 6).qdb.aqActive && !(aqOff 6).evq.en
    && (Tbl.get? (aqOff 6).qdb.loStage (loKey 0x10000)).isNone && base.qdb.aqActive
    && decide (12 ≤ base.evq.size.toNat ∧ base.evq.size.toNat ≤ 20) && !base.evq.en && (base.evq.reserve == []) && (base.evq.bootHeld == [])
    && !base.evq.overflow && decide ({ base with evq := { base.evq with size := 21 } }.evq.size.toNat > 20) = true := by decide +kernel

theorem test_control_registers : regsOpen base && base.att.cfgUp && !base.att.committed
    && { base with att := { base.att with committed := true } }.att.committed && { base with nrg := { base.nrg with snap := true } }.nrg.snap
    && (base.ras.maps[7]?).any (fun m => !m.withdrawn)
    && ({ base.ras with maps := List.replicate 8 { SpareMap.reset with withdrawn := true } }.maps[7]?).any (·.withdrawn) = true := by
  decide +kernel

/-- An object's page in HBM, served and not served. -/
def mappedObj : State := { base with objs := [(9, obj1 1 pageA)] }

theorem test_host_accesses : mappedObj.att.linkUp && decide (pageA = hbmBase + mappedObj.att.hdmBase.toNat * 2 ^ 30 + (pageA - hbmBase)
      ∧ pageA - hbmBase + 8 ≤ 256 * 2 ^ 30)
    && decide (pageA = mappedObj.att.bar2tgt.toNat * 2 ^ 30 + (pageA - 2 ^ 40)) && hostServed mappedObj && hostMapped mappedObj pageA 8
    && (memKindOf pageA).any (fun k => !checkOff mappedObj k) && !hostMapped mappedObj (pageA + 0x200000) 8
    && !hostServed { mappedObj with glb := Glb.reset } = true := by decide +kernel

def withVec (m p : Bool) (s : State) : State :=
  { s with msix := { vecs := [(2, { masked := m, pend := p, ents := [(1, 0)], urgent := true })], sent := [] } }

/-- Vector 2 due, masked and not; vector 3 not due; an overflow with space and without. -/
theorem test_interrupts : ([true, false].all fun m => vecDue (withVec m m base) (vecAt (withVec m m base) 2))
    && !vecDue (withVec true true base) (vecAt (withVec true true base) 3) && (vecAt (withVec true true base) 2).masked
    && (let s := { evqOn 0 3 base with evq := { (evqOn 0 3 base).evq with overflow := true } }
        s.evq.overflow && evqFree s.evq != 0 && (s.evq.reserve == []) && (s.evq.bootHeld == []) && hostOk s (s.evq.base.toNat + 32 * s.evq.tail) 32)
    && (evqFree (evqOn 1 0 base).evq == 0) = true := by decide +kernel

theorem test_mirror_codes : [0x0101, 0x0304, 0x0F01].all (fun c => [0x0101, 0x0102, 0x0103, 0x0205, 0x0303, 0x0304, 0x0F01].contains c)
    = true := by decide

/-! ### Errors and the fabric -/

/-- T(0, 0) in COMPUTE with these fields in its configuration block. -/
def fab (fs : List (Nat × Nat × Nat)) (f : Tile → Tile) : State :=
  micro 0 fun t => f { t with slots := [{ tag := none, mem := putAll [] fs }] }

/-- Partition 0's record changed. -/
def onPart0 (f : Part → Part) (s : State) : State := { s with parts := s.parts.map fun e => (e.1, f e.2) }

def word0 : FWord := { cid := 5, data := 0, last := false }

/-- The connection of CID 5 that ends at T(0, 0)'s Local input, which no slot entry drains. -/
def conn5 : Nat := connName 1540 0 5

/-- It has been without progress for 2^20 cycles. -/
def stalled0 : State := onPart0 (fun p => { p with stalls := [(conn5, 1048576)] }) (fab [] fun t => { t with outbox := [(1, word0)] })

/-- A token with its word in steering unit 0, whose entry 0 is a bank window; the mismatch has END set in the token only. -/
def steers (mismatch : Bool) : State :=
  fab [(0x140, 8, 2 * 2 ^ 62 + 0x100 * 2 ^ 32 + 2 ^ 24)] fun t =>
    { t with steer := [{ ctl := [if mismatch then 0xC0000000 else 0x80000000], data := [(0, false)], armed := 1, stopped := false, ctlCid := [6], dataCid := [5] },
                       SteerU.reset] }

theorem test_faults : runs stalled0 (fun p _ _ => stallLimit stalled0 == some 1048576 && !p.held && (liveConns stalled0 p).contains conn5
      && !(connHops stalled0 conn5).isEmpty && decide (1048576 ≤ Tbl.getD p.stalls conn5 0))
    && (let s := { micro 0 (fun t => { t with wait := .waitph 0 0 0 4 0 }) with clk := { Clk.reset with ticks := 1048576 } }
        (ctxAt s 0 0).any fun x => waitStalled s 1048576 x.t && !x.part.held)
    && (ctxAt (steers true) 0 0).any (fun x => pairCause (steerEntry x.blk 0 0) 0xC0000000 false != 0)
    && isTile 15 0 && (bridgeAt 15 0 .e).isSome
    && (Tbl.getD { Lnk.reset with bridgeFails := [(16 * tileNo 15 0 + portIdx .e, 3)] }.bridgeFails (16 * tileNo 15 0 + portIdx .e) 0 == 3)
    = true := by decide +kernel

def fault0 (rec_ : Bool) (lost : Bool) : FaultInfo :=
  let r : EvRec := { code := 0x0303, cls := .alarm, source := 0, time := 0, job := 1, seq := 4, detail := [] }
  { origin := r, cause := 1, part := some 0, tile := none, record := if rec_ then some r else none, lost, ready := false, at_ := 0, tick := 0, stalled := [] }

def faulted (rec_ lost : Bool) : State := { base with dump := { Dump.reset with fault := some (fault0 rec_ lost), halted := true } }

theorem test_job_fault_stages : (faulted false false).dump.fault.any (·.record.isNone) && (faulted true false).dump.fault.any (fun f => f.record.isSome && !f.lost)
    && (faulted true true).dump.fault.any (fun f => f.record.isSome && f.lost && !f.ready) && ((faulted true true).cmds == []) = true := by
  decide +kernel

def errWord (k : MemKind) (a n : Nat) (sc : Bool) : ErrWord := { kind := k, addr := a, syms := n, injected := false, reported := sc, met := false, retired := false }
def withErr (e : ErrWord) (s : State) : State := { s with mctl := { s.mctl with errs := [e] } }

theorem test_scrub : ([errWord .bank 0x40 1 false, errWord .hbm pageA 2 false, errWord .ddr pageD 2 true].all fun e =>
      (errsIn (withErr e base) e.kind e.addr 1).head? == some e && decide (withErr e base).mctl.errs.Nodup && (base.glb.state != .off))
    && ([(MemKind.hbm, pageA), (.ddr, pageD), (.bank, 0)].all fun (d : MemKind × Nat) =>
      (({ base.mctl with due := [(d.1, d.2, 1)] }.due.find? fun (x : MemKind × Nat × Nat) => x.1 == d.1 && x.2.1 == retireUnit d.1 d.2).isSome))
    && (pickFree 0 0 4096 []).isSome && (pickFree 16383 0 16384 []).isSome && sparesLeft base 5 0 != 0
    && passed (at_ 24000000000 base) base.ras.ceSince (60 * 400000000) = true := by decide +kernel

theorem test_units : (base.glb.state != .off) && (base.fox[15]?).isSome && (base.fox[14]?).isSome && (base.fox[1]?).isSome && (base.tiers[3]?).isSome
    && base.pwr.phases.getLsbD 23 && (base.thm.sensors[44]?).any (fun x => !x.failA && !x.failB)
    && decide (40 < (toSigned 16 (240 : W16).toNat - toSigned 16 (199 : W16).toNat).natAbs) && powered base
    && base.clk.pllGood.getLsbD 2 && base.clk.pllGood.getLsbD 3
    && (let c := { Clk.reset with pllGood := 0xE }; c.pllGood.getLsbD 0 != c.pllGood.getLsbD 1) = true := by decide +kernel

/-- CID 5 goes from input W to output E; a steering unit's window; credits under way. -/
def forwards : State := fab [(0x40, 8, 5 * 2 ^ 7 + 4 * 2 ^ 11)] fun t =>
  { t with queues := [[], [], [], [word0], []], credits := [(21, 1)], creditsDue := [(21, 2)] }

theorem test_fabric : (ctxAt forwards 0 0).any (fun x =>
      (tileAt forwards x.t).streams.all (·.words == 0) && (((tileAt forwards x.t).queues.getD (portIdx .w) []).find? (·.cid == 5)).isSome
      && slotOuts x (portIdx .w) 5 == [1] && decide (1 ≤ outCredit x.blk (tileAt forwards x.t) 1 5)
      && Tbl.getD (tileAt forwards x.t).creditsDue (16 * portIdx .e + 5) 0 != 0)
    && (ctxAt (steers false) 0 0).any (fun x =>
      let e := steerEntry x.blk 0 0
      pairCause e 0x80000000 false == 0 && bitsOf e 62 2 != 1 && ((tileAt (steers false) x.t).inprog.isEmpty)
      && ((tileAt (steers false) x.t).streams.isEmpty) && ((tileAt (steers false) x.t).gateRun.isEmpty)) = true := by decide +kernel

/-! ### Stepped RUNs, huddles, streams -/

/-- A RUN held at gate id 2 on tile (0, 0), and one whose hold was reported at 0, 10 s ago. -/
def gateHold0 : GateHold := { word := 0, gateId := 2, lane := 0, nlane := 1, experts := 2, report := true, tokens := 3, counts := [2, 1] }
def held1 : State := micro 0 (fun t => { t with gateHold := [gateHold0] }) { run0 with stepped := true, report := 0x7000 }

theorem test_stepped : runs held1 (fun p _ r => r.hold.isNone && reportDue held1 p 2 && (laneHolds (reportHolds held1 p 2)).head?.isSome
      && hostOk held1 r.report (32 + 4 * 2)) && running held1
    && (let s := at_ 4000000000 (micro 0 id { run0 with hold := some { holdId := 6, gateId := 2, postedAt := some 0 } })
        runs s fun _ _ r => r.hold.any fun h => h.postedAt.any fun a => passed s a (msUnits 10000)) = true := by decide +kernel

def planGate0 : PlanGate :=
  { gateId := 2, rwords := 1, experts := 2, homeBase := 0x100, stageBase := 0x200, wmul := 1, nlane := 1, homes := [0x3F, 3] }

/-- Peer 3, one huddle of gate id 2 at rally count 1,000; inning 0 of the RUN asks for it. -/
def plan0 : Plan := { rally0 := 1000, period := 10, huddles := [(2, 0)], gates := [planGate0], peers := [(3, 0, 0)] }

def huddle0 (o : Bool) (done : List Nat) : Huddle :=
  { hseq := 0, gateId := 2, combine := false, opened := o, openedAt := 0, late := false, headers := [], complete := done, unacked := [] }

def huddling (u : Option Huddle) (rally : Nat) (msgs : List Msg) : State :=
  let s := onPart0 (fun p => { p with huddle := u }) (inRun run0)
  { s with jobs := s.jobs.map (fun e => (e.1, { e.2 with plan := some plan0 })), mem := Mem.write s.mem (pageA + 260) [4],
           clk := { Clk.reset with rally := BitVec.ofNat 64 rally },
           lnk := { Lnk.reset with peers := [(3, { up := true, lastRx := 0, lastTx := 0 })], msgs } }

/-- A segment of no rows from peer 3, of huddle `h`. -/
def segMsg (h : Nat) : Msg :=
  { src := 3, id := 1, kind := 0, bytes := putAll [] [(0, 4, h), (6, 1, 2), (7, 1, 1)], have_ := [(0, 16)], len := some 16, at_ := 0 }

/-- It enters, opens, closes and loses a peer (down, and silent for 1 ms after opening). -/
theorem test_huddles : (let s := huddling none 999 []
      runs s fun p c r => ((imgInnings (imgOf s r.image))[r.entry]?).any (fun e => huddleDue s c r e) && tilesDone s p && descsDone s c r
        && r.inInning && !r.huddleDone && !rallyReached s (huddleRally plan0 (r.hseqBase + r.huddleIdx)))
    && (let s := huddling (some (huddle0 false [])) 1000 []
        rallyReached s (huddleRally plan0 0) && !earlierDue s 0 (huddleRally plan0 0) && (peerAt s 3).up
        && (hudCtx s 0 2).any fun h => ((rowsFor h false 3 0).map List.length).sum == 0)
    && (let s := huddling (some (huddle0 true [3])) 1000 []
        s.lnk.ports.all (fun x => !portOwes x []) && running s && (planOf s 1).isSome)
    && (let s := at_ 400000 (huddling (some (huddle0 true [])) 1000 [])
        (lossCause s (huddle0 true []) 3).isSome && (hudCtx s 0 2).isSome && s.lnk.later.isEmpty) = true := by decide +kernel

theorem test_segments : (let s := huddling (some (huddle0 true [])) 1000 [segMsg 0]
      (segmentFrom s 3).any fun m => let k := segHead (Mem.read m.bytes 0 16)
        !badHeader (huddle0 true []) k && !bitAt k.flags 1 && bitAt k.flags 0)
    && (let s := huddling (some (huddle0 true [])) 1000 [segMsg 9]
      (segmentFrom s 3).any fun m => badHeader (huddle0 true []) (segHead (Mem.read m.bytes 0 16)) && (takeLater s 0 3 m).isNone)
    && (huddle0 true [3]).complete.contains 3 = true := by decide +kernel

/-- A descriptor of job 1's RUN: one block of object 9 to bank address 0x40 of T(0, 0), class `cls`. -/
def desc0 (cls : Nat) (f : Desc → Desc) : Desc :=
  f { queue := 1, seq := 7, job := 1, part := some 0, index := 0, entry := 0,
      bytes := bytesOf 64 [(0, 2, cls * 8), (12, 4, 64), (28, 4, 1), (32, 8, 1), (40, 4, 1), (44, 4, 1)], handle := 9, objOff := 0, base := 0,
      issued := true, readyAt := some 0, beyond := false, redirect := [], after := none, gated := false, len := 64, host := none, todo := [0], stored := 0, remote := [],
      halted := none, restream := false, haltedPages := [], landed := [], deadline := none, withdrawn := false, altDone := false,
      void := false, counted := [], done := false }

def streaming (d : Desc) : State := { inRun run0 with descs := [(0, d)], nextDesc := 1 }

/-- Not issued, and idle at a gate that counted no row for its expert. -/
theorem test_descriptor_issue : (let d := desc0 0 fun d => { d with issued := false, todo := [] }
      let s := streaming d
      (idleDesc s 1).isNone && nextDesc s 1 == some (0, d) && decide (depthUsed s 1 < depthOf s 1) && (issueFail s d).isNone && running s)
    && (let d := desc0 16 id
      (idleDesc { inRun { run0 with demand := [(0, [(4096, 1), (8192, 1)])] } with descs := [(0, d)] } 1).isSome) = true := by decide +kernel

/-- A block in a Fox engine's reach, a burst for T(0, 0), and a halt whose page has come. -/
theorem test_descriptor_moves : (let d := desc0 0 id
      let s := streaming d
      [0, 1].any (fun k => foxNext s k 0 == some (0, d, 0)) && (remoteOf s d).isNone && dDir d.bytes == 0 && !dForm d.bytes && !dScatter d.bytes
      && (Tbl.get? s.objs 9).any (fun o => decide (d.objOff + 64 ≤ objExtent s o))
      && (pagedObj s d).all (fun g => (pagesTouched d 0 64).all fun y => !inDdr (g.pages.getD y 0))
      && (readSpansChecked (srcSpans s d 0 64) s).ue.isEmpty && inLoad s 0)
    && (Tbl.get? (streaming (desc0 0 fun d => { d with halted := some 0 })).objs 9).any (fun o => !inDdr (o.pages.getD 0 0)) = true := by
  decide +kernel

def awaiting (n : Nat) (d : Desc) : State :=
  at_ n { streaming d with tiles := [(0, { Tile.reset with wait := .waitph 0 0 0 1 0, ended := false })] }

theorem test_deadlines : ([0, 1, 2].all fun cls => let d := desc0 cls id
      let s := awaiting 1 d
      classOf s d == cls && d.readyAt.any (passed s · (dTime d.bytes)) && anyAwaits s 0 d && running s && !part0.held && dTime d.bytes != 0)
    && (let d := desc0 0 fun d => { d with deadline := some 0 }
      let s := awaiting 800000 d
      passed s 0 (msUnits 2) && anyAwaits s 0 d && (cmdAt s (1, 7)).any (·.done.isNone))
    && (let d := desc0 2 fun d => { d with deadline := some 0, withdrawn := true }
      let s := { inRun { run0 with bufs := [{ sym := 0, handle := 9, off := 0 }] } with descs := [(0, d)], nextDesc := 1 }
      classOf s d == 2 && flying s 0 == 0 && (altOf s d).any fun a => (issueFail s a).isNone) = true := by decide +kernel

/-! ### Tier engines, context save, serving -/

def work0 (k : TierKind) : TierJob :=
  { kind := k, queue := 1, seq := 7, handle := 9, idx := 0, member := 0, dst := 1, mask := 1, void := false, supply := none }

def tiering (w : List TierJob) (s : State) : State := { s with tiers := [{ work := w, failed := false }] }

/-- Expert 9 in DDR5, the cold pool 8 in HBM. -/
def coldObjs (s : State) : State :=
  { s with objs := [(8, { obj1 2 (pageA + 0x200000) with cold := true }), (9, { obj1 2 pageD with cold := true })] }

def coldEntry0 : ColdEntry := { pool := 8, expert := 9, desc := 0, pages := [0], lastUse := 0, landed := false, void := false }

theorem test_cold : (let s := coldObjs (tiering [] (streaming (desc0 0 id)))
      (Tbl.get? s.objs 9).any (fun o => isCold o && (fetchRoom s o).isSome) && (coldNext s).any (fun e => e.1 == 0 && e.2.handle == 9)
      && running s && s.dump.fault.isNone)
    && (let s := coldObjs { tiering [work0 .cold] base with cold := [coldEntry0] }
      (engineJob s 0).isSome && (s.cold.find? fun e => e.expert == 9 && !e.landed).isSome
      && (Tbl.get? s.objs 9).any fun o => (objRead o 0 o.len s).ue.isEmpty && s.objs.all fun x => !x.2.gone) = true := by decide +kernel

def request (q : Req) (s : State) : State := { serving1 s with srv := { Srv.reset with images := [(1029, 9)], reqs := [(7, q)] } }

theorem test_tier_work : (let s := tiering [work0 .shard] { withMember base with cmds := [stagingCmd1 1] }
      (engineJob s 0).isSome && (cmdAt s (1, 7)).any fun c => c.staging.any fun g => g.members.all (fun m => m.source == 1 && decide (0 < m.shards.length)))
    && (let s := tiering [work0 .pageWait] (withObj base)
      (engineJob s 0).isSome && (Tbl.get? s.objs 9).any fun o => !o.gone && decide (0 < o.pages.length) && (allocHbm s (2 ^ stackFor o.stackMask 0) 1 0).isSome)
    && (let q := { req0 with blocks := [{ addr := pageD, spilled := true, node := none, lastUse := 0, returning := true }] }
      let s := tiering [work0 .kvReturn] (request q base)
      (engineJob s 0).isSome && (q.path[0]?).isNone && (newBlock 1 (blockBytes (servOr s 1 5)) false s).isSome)
    && (let s := at_ 12000000000 { base with cmds := [stagingCmd1 3] }
      passed s 0 (s.features.stageTimeout * 400000000) && (cmdAt s (1, 7)).any (·.done.isNone)) = true := by decide +kernel

def saving0 : Saving := { queue := 1, seq := 7, job := 1, tier := 1, bytes := 0, pages := [pageA] }

/-- CTX_SAVE of job 1 waits while its RUN stands between innings; and its scan-out. -/
theorem test_context_save : (let r := { cmdOf 0x30 with seq := 8, run := some { run0 with inInning := false } }
      let sv := { cmdOf 0x58 with started := false }
      let s := { base with cmds := [r, sv] }
      let p := { part0 with running := some (1, 8), queue := [(1, 7)] }
      saveOf s p 1 == some sv && maySuspend s p r && atBoundary r && quietJob s 1
      && (savePlace s (byteAt sv.pkt 32) (pagesOf (saveBytes p (savedUnits s p 1).length))).isSome)
    && (let s := { base with cmds := [cmdOf 0x58], parts := [(0, { part0 with saving := some saving0 })] }
      (cmdAt s (1, 7)).any (·.done.isNone) && (Tbl.get? s.jobs 1).any (·.closing.isNone)
      && running (scanOut { part0 with saving := some saving0 } 1 (savedUnits s { part0 with saving := some saving0 } 1) s)) = true := by decide +kernel

def decode1 : Req := req0
def prefill1 : Req := { req0 with state := .prefill, blocks := [] }

/-- Job 2 serves the draft model of model 5 on the next column group with image 10. -/
def drafting (q : Req) : State :=
  let s := withReq q base
  { s with
    jobs := s.jobs ++ [(2, { job1 with part := some 1, bindings := [{ bind0 with image := 10, part := 1 }] })]
    parts := s.parts ++ [(1, { part0 with first := 1, members := [2] })]
    objs := s.objs ++ [(10, { obj1 5 (pageA + 0x200000) with len := 576, job := 2 })]
    images := s.images ++ [(10, { job := 2, len := 576, x3 := false, measurement := [] })]
    mem := s.mem ++ at0 (pageA + 0x200000) (img1 ++ [(0x160, 2, 247), (566, 2, 247)])
    srv := { s.srv with images := [(1029, 9), (2053, 10)] } }

/-- Step 4, of job `job` for request 21 with `n` tokens, runs on partition `part`. -/
def inStep (job part : Nat) (draft : Bool) (n : Nat) (q : Req) : State :=
  let s := drafting q
  { s with parts := s.parts.map (fun e => if e.1 = part then (e.1, { e.2 with running := some (fwQueue, 4) }) else e)
           srv := { s.srv with steps := [(4, mkStep job 5 draft [stepSeq 21 q n])] } }

/-- The first draft's length, three drafts made and none. -/
def draft1 (n : Nat) : Req := { req0 with draft := true, draftFrom := 2, drafts := List.replicate n [3, 0, 0, 0] }

/-- A step can be formed, one stands in its queue's place, and each kind of sequence is in one. -/
theorem test_serving_step : ([decode1, prefill1].all fun q => let s := dropDrafts (withReq q base)
      (canServe s 1 5).any (fun v => (planStep s v (stepSlot (sequences s 1 5))).map (·.req) == [21]) && stepRoom s 1
        && (modelStep (withReq q base) 1 5).isNone && (partOfJob s 1).isSome)
    && ([(decode1, 1), (prefill1, 2), (draft1 3, 4)].all fun x => let s := inStep 1 0 false x.2 x.1
      running s && stepRuns s 4 && (modelStep s 1 5).any (fun e => e.1 == 4 && e.2.seqs == [stepSeq 21 x.1 x.2])
        && seqLive s (stepSeq 21 x.1 x.2) == some x.1 && x.1.held.isNone)
    && decoding decode1 && decide (decode1.rows.length + 1 < decode1.maxNew) && !decoding prefill1 && prefill1.turn.isSome = true := by
  decide +kernel

/-- Three drafts to verify, none yet made, and a draft step that runs. -/
theorem test_draft_step : (let s := inStep 1 0 false 4 (draft1 3)
      decoding (draft1 3) && draftTokens s (draft1 3) == 3 && (draftStepOf s 21).isNone && decide ((draft1 3).rows.length + 4 < (draft1 3).maxNew))
    && (let q := draft1 0
      let s := drafting q
      (draftStepOf s 21).isNone && inTurn q && decoding q && draftTokens s q == 3 && draftJob s q == some 2 && stepRoom s 2
        && (giveDraftBlocks 21 2 (blockBytes (servOr s 2 5)) (ceilDiv (draftTarget q) 16 - q.draftBlocks.length) s).isSome)
    && (let q := draft1 1
      let s := inStep 2 1 true 1 q
      running s && stepRuns s 4 && (draftStepOf s 21).any (fun e => e.1 == 4 && e.2.seqs == [stepSeq 21 q 1])
        && seqLive s (stepSeq 21 q 1) == some q) = true := by decide +kernel

def deferred1 : Req := { req0 with state := .deferred, turn := some { turn0 with admitted := none } }

/-- 200 ms later a step of the model still runs, so that nothing is admitted. -/
def late1 : State := at_ 80000000 { inStep 1 0 false 1 deferred1 with cmds := [cmdOf 0x40] }

theorem test_no_admission : boundaryAdmit 1 5 late1 = late1 := by
  unfold boundaryAdmit
  rw [if_pos (by decide +kernel)]

theorem test_deferred : (let s := { withReq deferred1 base with cmds := [cmdOf 0x40] }
      running s && jobStateOf s 1 != .saved && atStepBoundary s 1 5 && deferredQueue s 1 5 == [21] && (tryAdmit 21 s).isSome)
    && (let s := late1
      passed s 0 (msUnits 200) && deferred1.held.isNone && (cmdAt s (1, 7)).any (·.done.isNone) && s.dump.fault.isNone)
    && (let s := at_ 4000000000 (withReq { req0 with turn := none, state := .idle } base)
      (reqAt s 21).any fun q => !turnOpen q && passed s q.doneAt (msUnits 10000) && (q.outputs[0]?).any fun o => passed s o.time (msUnits 10000))
    = true := by decide +kernel

/-! ### Power, heat, clocks -/

def off0 (tt : Bool) : State :=
  { State.reset with glb := { Glb.reset with state := .off }, pins := { Pins.reset with pwrGood := false, thermtrip := tt } }

def onPwr (f : Pwr → Pwr) (s : State) : State := { s with pwr := f s.pwr }

theorem test_pins : powered base && !base.pwr.floor && ((off0 false).glb.state == .off) && !(off0 false).pins.pwrGood && !(off0 false).pins.thermtrip
    && decide (5200 ≤ (off0 false).pins.vin) && base.pins.pwrGood && !base.pins.thermtrip && hotAt 0 base.thm.trip 960
    && (let s := at_ 400000 (onPwr (fun p => { p with floor := true, clearSince := some 0 }) base)
      s.pwr.clearSince == some 0 && s.pwr.floor && s.pwr.causes == 0 && passed s 0 (msUnits 1))
    && (let s := onPwr (fun p => { p with floor := true, vinLow := true, vinHigh := true }) base
      powered s && s.pwr.floor && s.pwr.vinLow && s.pwr.vinHigh) = true := by decide +kernel

def follow0 (d : Nat) (l : Bool) : Follow := { cap := 500, t0 := 0, p0 := 900, deadline := d, proj := 400, lag0 := l, lag1 := false }

/-- A cap that is due and one for a later rally count; a projection that misses its deadline (400 W at 1,000 W/ms need 400 µs), the
deadline itself, and none. -/
theorem test_caps : ([0, 5].all fun n => ({ base.pwr with waiting := some { cap := 500, deadline := 0, capAt := BitVec.ofNat 64 n } }.waiting).any fun (w : CapWait) =>
      decide ((w.capAt = 0 ∨ w.capAt.toNat ≤ base.clk.rally.toNat) ↔ n = 0))
    && decide ((follow0 100 false).deadline * base.pwr.slew < ((follow0 100 false).p0 - (follow0 100 false).cap) * 1000)
    && passed (at_ 40000 base) (follow0 100 true).t0 (usUnits (follow0 100 true).deadline) && ((follow0 0 false).deadline == 0)
    && powered base = true := by decide +kernel

/-- A cap-follow that 500 W meet and 600 W do not, and one whose deadline was reported. -/
theorem test_follow : (let s := onPwr (fun p => { p with follow := some (follow0 100 true) }) base
      s.pwr.follow == some (follow0 100 true) && decide ((follow0 100 true).cap = 500))
    && { follow0 100 true with lag1 := true }.lag1 && base.pwr.follow.isNone && !base.pwr.floor && decide (100 ≤ base.clk.fclk) = true := by
  decide +kernel

theorem test_heat : powered base && hotAt 44 base.thm.throttle 840 && hotAt 0 base.thm.floor 880 && !base.pwr.throttle && !base.pwr.causes.getLsbD 3
    && (let s := at_ 40000 (onPwr (fun p => { p with throttle := true }) (setReading 3 808 base))
      anyHot s s.thm.throttle && passed s s.pwr.throttleStep (usUnits 100) && s.pwr.throttle && !s.pwr.floor && s.pwr.follow.isNone
      && decide (150 ≤ s.clk.fclk))
    && ((setReading 44 300 base).thm.sensors.zipIdx.all fun x => decide (toSigned 16 x.1.temp.toNat ≤ sensorThreshold x.2 (base.thm.throttle - 3)))
    && { Clk.reset with stretched := true, recovered := 16 }.stretched && decide (Clk.reset.recovered < 16) = true := by decide +kernel

def hint0 (heavy active : Bool) : Hint := { heavy, at_ := 0, due := 0, power := 900, active }
def filled (t : Nat) : Fill := { start := 0, target := t, since := 0, dur := 200000, hinted := true }

theorem test_fill : passed (at_ 4000 base) (Tbl.getD base.nrg.live 0x20 0) (usUnits 10)
    && (let s := onPwr (fun p => { p with episode := some { since := 0, power := 500, fill := 200 } }) base
      s.pwr.episode.isSome && !anyFill s)
    && (let s := onPart0 (fun p => { p with hints := [hint0 true false] }) base
      reached s (hint0 true false).at_ && !demandRunning s part0 && fillAllowed s && part0.handed.isNone
        && decide (fillNow s part0 < min 900 (demandOf s part0)) && fillNow s part0 == 0)
    && (let s := onPart0 (fun p => { p with hints := [hint0 true false], fill := { filled 900 with start := 900 } }) base
      (Tbl.get? s.parts 0).any fun p => decide (min 900 (demandOf s p) ≤ fillNow s p))
    && (let s := onPart0 (fun p => { p with hints := [hint0 false false] }) (running1 (cmdOf 0x30))
      (Tbl.get? s.parts 0).any fun p => demandRunning s p && (p.hints.find? fun h => !h.active && reached s h.at_).isSome)
    && (let s := onPart0 (fun p => { p with hints := [hint0 false true], pace := some { filled 20 with hinted := false } })
          (at_ 400000 (running1 (cmdOf 0x30)))
      (Tbl.get? s.parts 0).any fun p => demandRunning s p && p.pace.isSome
        && (p.hints.find? fun h => !h.heavy && h.active && reached s (h.due + BitVec.ofNat 64 (msUnits 1))).isSome)
    && passed (at_ 4400000 base) (filled 100).since ((filled 100).dur + msUnits 10)
    && reached (at_ 400000 base) ((hint0 false true).due + BitVec.ofNat 64 (msUnits 1)) = true := by decide +kernel

/-! ### Den, boot, links -/

/-- The two images of a blank flash fail. -/
theorem test_boot : (State.reset.glb.state == .boot) && !State.reset.boot.activating && !State.reset.boot.accepted && !State.reset.boot.failed
    && !fwPasses State.reset.boot false && !fwPasses State.reset.boot true
    && ({ Boot.reset with accepted := true, restart := true }.accepted) && (base.glb.state != .boot) && (base.glb.state != .off) && base.clk.rackclk
    = true := by decide +kernel

theorem test_den : (let s := at_ 500000 { base with glb := { base.glb with denEntry := true, sleepPower := 320 } }
      s.glb.denEntry && passed s s.glb.sleepAt (denUnits s))
    && (let s := at_ 500000 { base with glb := { base.glb with state := .den, wake := true } }
      s.glb.wake && passed s s.glb.wakeAt (max (usUnits 400) (rampUnits s 250))) = true := by decide +kernel

/-- The bytes of a flit of type `ty` from part 3 before its CRC. -/
def body0 (ty tenant lseq : Nat) : List Byte :=
  bytesOf 252 [(0, 8, 3 * 2 ^ 6 + tenant * 2 ^ 12 + ty * 2 ^ 20 + 3 * 2 ^ 25), (248, 4, lseq)]

/-- With its CRC, or one off it. -/
def flit0 (ty tenant lseq off : Nat) : List Byte := body0 ty tenant lseq ++ leBytes 4 (crc32 (body0 ty tenant lseq) + off)

theorem flit0_crc {ty tenant lseq : Nat} (h : (body0 ty tenant lseq).length = 252) (off : Nat) :
    (sliceB (flit0 ty tenant lseq off) 0 256).take 252 = body0 ty tenant lseq ∧
    fieldAt (sliceB (flit0 ty tenant lseq off) 0 256) 252 4 = (crc32 (body0 ty tenant lseq) + off) % 2 ^ 32 := by
  have e : sliceB (flit0 ty tenant lseq off) 0 256 = flit0 ty tenant lseq off := by
    rw [sliceB, flit0, List.drop_zero, List.take_of_length_le (by simp [h])]; simp [h]
  rw [e]
  refine ⟨by rw [flit0, ← h, List.take_left], ?_⟩
  rw [fieldAt, flit0, ← h, List.drop_left, List.take_of_length_le (by simp)]
  exact leNat_leBytes 4 _

/-- Port 0 up toward part 3, which may speak. -/
def linked (f : LinkPort → LinkPort) : State :=
  { base with lnk := { Lnk.reset with
      mask := 8
      ports := f { LinkPort.reset 1 with state := .up, good := 5, lanes := 4, reach := [3] } :: Lnk.reset.ports.drop 1
      peers := [(3, { up := true, lastRx := 0, lastTx := 0 })] } }

/-- In order, out of order, and of another tenant, each with its CRC; and one with a CRC that is off. -/
theorem test_flit_crc : (∀ x ∈ [(1, 0, 7), (1, 0, 0), (7, 5, 0)], crc32 ((sliceB (flit0 x.1 x.2.1 x.2.2 0) 0 256).take 252) =
      fieldAt (sliceB (flit0 x.1 x.2.1 x.2.2 0) 0 256) 252 4) ∧
    crc32 ((sliceB (flit0 1 0 0 1) 0 256).take 252) ≠ fieldAt (sliceB (flit0 1 0 0 1) 0 256) 252 4 := by
  have h : ∀ x ∈ [(1, 0, 7), (1, 0, 0), (7, 5, 0)], (body0 x.1 x.2.1 x.2.2).length = 252 := by decide +kernel
  have b : ∀ l, crc32 l < 2 ^ 32 := fun l => BitVec.isLt _
  constructor
  · intro x hx
    rw [(flit0_crc (h x hx) 0).1, (flit0_crc (h x hx) 0).2, Nat.add_zero, Nat.mod_eq_of_lt (b _)]
  · have g : (body0 1 0 0).length = 252 := h (1, 0, 0) (by simp)
    rw [(flit0_crc g 1).1, (flit0_crc g 1).2]
    have := b (body0 1 0 0)
    omega

theorem test_flit_fields : ([(1, 0, 7), (1, 0, 0), (7, 5, 0)].all fun (x : Nat × Nat × Nat) =>
      let f := readFlit (sliceB (flit0 x.1 x.2.1 x.2.2 0) 0 256)
      (f.type, f.src, f.tenant, f.lseq) == (x.1, 3, x.2.1, x.2.2))
    && enabled (linked id) 3 && !enabled base 3 && ((linked id).lnk.tenant == 0) = true := by decide +kernel

def sent (n : Nat) : SentFlit := { lseq := 0, bytes := [], resends := n }

theorem test_ports : ([6, 7].all fun n => let s := at_ 800 (linked fun p => { p with buf := [sent n] })
      (s.lnk.ports[0]?).any fun x => x.state == .up && !x.buf.isEmpty && passed s x.waiting (usUnits 2))
    && downCause { LinkPort.reset 1 with state := .up } 0 3 2 && powered base
    && ((linked id).lnk.ports[0]?).any (fun x => x.state == .up && x.spares != 0 && decide (minLanes 0 ≤ x.good - 1))
    && ([(5, true), (4, false)].all fun g => ((linked fun p => { p with good := g.1, spares := 0 }).lnk.ports[0]?).any fun x =>
        x.state == .up && x.spares == 0 && decide (minLanes 0 ≤ x.good - 1) == g.2)
    && (base.lnk.ports[8]?).any (fun x => x.state == .down && passed (at_ 400000000 base) x.tried (msUnits 1000))
    && decide (minLanes 8 ≤ min 8 18 ∧ minLanes 0 ≤ min 4 5) = true := by decide +kernel

def rdreq0 (h : Nat) : RdReq := { src := 3, port := 0, id := 1, handle := h, off := 0, len := 64, account := 5 }
def asked (h : Nat) : State := withObj { linked id with lnk := { (linked id).lnk with rdreqs := [rdreq0 h] } }

/-- A request for object 9, and one for an object that is gone. -/
theorem test_read_requests : ([9, 8].all fun h => running (asked h) && enabled (asked h) 3 && answerable (asked h) (rdreq0 h)
      && portsTo (asked h) 3 == [0] && ((asked h).lnk.ports[0]?).any fun p =>
        p.state == .up && decide (17 ≤ p.credit1 ∧ p.buf.length + 17 ≤ 512) && p.queue.isEmpty)
    && (match requested (asked 9) (rdreq0 9) with
      | .inr l => (spanBytes l { asked 9 with lnk := { (asked 9).lnk with rdreqs := [] } }).1.isSome && 0 < (rdreq0 9).len && (rdreq0 9).len ≤ 4032
      | .inl _ => false)
    && (match requested (asked 8) (rdreq0 8) with
      | .inl st => st == .objectGone
      | .inr _ => false) = true := by decide +kernel

/-- Offsets of +10, -10 and 30 ticks, and the rally clock free, locked and synchronised. -/
theorem test_peers : enabled (linked id) 3 && passed (at_ 4000 (linked id)) (peerAt (linked id) 3).lastTx (usUnits 10) && (peerAt (linked id) 3).up
    && passed (at_ 20000 (linked id)) (peerAt (linked id) 3).lastRx (usUnits 50) && (keepalivePorts (linked id) 3 == [0])
    && (rallyPort { linked id with clk := { Clk.reset with rallyMaster := 3 } } == some 0) && base.glb.partId.toNat != 3
    && passed (at_ 4000 (linked id)) Clk.reset.rallyReplyAt (usUnits 10)
    && ([(10, 10), (-10, -10), (30, 30)].all fun (x : Int × Int) => rallyOffsetOf 0 (BitVec.ofInt 64 x.1) (BitVec.ofInt 64 x.1) 0 0 0 == x.2)
    && passed (at_ 20000 { base with clk := { Clk.reset with rallySync := true, rallyMaster := 3 } }) Clk.reset.rallyReplyAt (usUnits 50)
    && base.pins.chipSrc && !base.glb.partSet && !base.clk.rtLoaded && ({ base with glb := { base.glb with state := .drain } }.glb.sleep.isNone)
    = true := by decide +kernel

/-- A state of canonical memories that steps. -/
theorem test_memories : memoriesOk base ∧ (match step base with | .next _ => true | _ => false) = true := by
  refine ⟨⟨?_, ?_⟩, ?_⟩ <;> decide +kernel

/-! ### The other clauses of statements with several -/

/-- A pin of an object in motion, an unpin, the eviction of a model that is being staged, and a feed of a request without a turn. -/
theorem test_takes_more :
    ok objPinSpec 1 (sub 0x2A [(32, 4, 9)]) (withObj base) && (liveObj (withObj base) 9).any (·.moving.isEmpty)
    && (let s := { withObj base with objs := [(9, { obj1 4 pageA with moving := [0] })] }
      ok objPinSpec 1 (sub 0x2A [(32, 4, 9), (36, 1, 1)]) s && (liveObj s 9).any fun o => !o.moving.isEmpty)
    && (let s := { withModel .staging base with cmds := [{ stagingCmd1 3 with part := none }] }
      ok modelEvictSpec 1 (sub 0x22 [(32, 2, 5)]) s && (stagingCmd s 1 5 false).any fun g => g.op == 0x20 && g.part.isNone)
    && (let q := { req0 with turn := none, state := .idle }
      ok reqFeedSpec 1 (sub 0x41 [(32, 4, 21), (40, 8, 0x6000), (48, 4, 2)]) (withReq q base) && !turnOpen q) = true := by decide +kernel

/-- A decided SET_FEATURE of HBM_SPLIT, and an interim entry of a command that has reached no outcome. -/
theorem test_more_entries :
    cqFree (queueOf 1) != 0 && (let c := { cmdOf 2 with done := some .ok, pkt := pk 2 0 1 7 0 [(32, 2, 1), (40, 8, 0x143C14)] }
      let s := { base with cmds := [c] }
      (cmdAt s (1, 7)).any fun c => c.done == some .ok && mayFinish s c && c.op == 0x02 && fieldAt c.pkt 32 2 == 1)
    && (let s := { base with cmds := [cmdOf 0x30], interims := [{ queue := 1, seq := 7, type := 1, result := [1], req := 0 }] }
      (s.interims.find? fun i => i.queue == 1 && (cmdAt s (i.queue, i.seq)).any (·.done.isNone)).isSome) = true := by decide +kernel

/-- The head's job has left the partition; and a serving step at the head that starts, and one that waits for its demand. -/
def headStep (fill : Nat) : State :=
  let s := inStep 1 0 false 1 decode1
  { s with parts := s.parts.map fun e => if e.1 = 0 then (e.1, { e.2 with
      queue := [(fwQueue, 4)], running := none, fill := { start := fill, target := fill, since := 0, dur := 0, hinted := false } }) else e }

theorem test_more_starts :
    hasDemand 0x30 && (let s := { waits1 0x19 base with jobs := [(1, { job1 with part := none })] }
      let p := { part0 with queue := [(1, 7)] }
      (startHead s p).any fun c => outside s p c && c.queue != fwQueue)
    && ([50, 0].all fun n => (Tbl.get? (headStep n).parts 0).any fun p => (startHead (headStep n) p).any fun c =>
        c.queue == fwQueue && hasDemand c.op && !outside (headStep n) p c && !stepEmpty (headStep n) c && !stepWaits (headStep n) c
        && demandMet (headStep n) p c == (n == 50)) = true := by decide +kernel

/-- Checking switched off, a bank block that is due, and a tier engine with work that fails. -/
theorem test_more_errors : checkOff { base with mctl := { base.mctl with ctl := 0xFF00FF } } .hbm
    && ((tiering [work0 .pageWait] base).tiers[0]?).isSome && (base.cmds.all (·.staging.isNone)) = true := by decide +kernel

/-- A burst for T(0, 0) at the head of Fox engine 0. -/
theorem test_burst : running base && (let b : Burst := { desc := 0, writes := [(0, 0x40, [1, 2])], out := [], counts := [] }
      let s := { streaming (desc0 0 id) with fox := [{ bursts := [b], failed := false, last := 0 }] }
      (s.fox[0]?).any (fun e => e.bursts == [b]) && inLoad s 0) = true := by decide +kernel

/-- A decided JOB_OPEN; and a JOB_CLOSE with FORCE, and of a SAVED job, beside a command of the job. -/
def closing1 (st : JobState) (susp : List (Nat × Nat)) : State :=
  { base with cmds := [cmdOf 0x30], jobs := [(1, { job1 with state := st })], parts := [(0, { part0 with suspended := susp })] }

theorem test_more_jobs : (let s := { base with cmds := [{ cmdOf 0x08 with queue := 64, done := some .ok, result := [2, 0] }] }
      (cmdAt s (64, 7)).any fun c => c.done == some .ok && mayFinish s c && c.op == 0x08)
    && ok jobCloseSpec 64 (pk 9 1 1 3 0 []) (closing1 .opened [])
    && ok jobCloseSpec 64 (pk 9 0 1 3 0 []) (closing1 .saved [(1, 7)]) && jobStateOf (closing1 .saved [(1, 7)]) 1 == .saved
    && (cmdAt (closing1 .opened []) (1, 7)).any (fun c => c.job == 1 && c.queue != 64 && c.done.isNone && c.op == 0x30) = true := by decide +kernel

/-- The tables of `base`, a state that steps (test_memories), are sound. -/
theorem test_tables : tablesOk base := by
  refine ⟨⟨?_, ?_⟩, ?_, ⟨?_, ?_⟩, ?_, ?_, ?_, ?_⟩ <;> simp [base, part0, job1, queueOf, ringOk, State.reset, Boot.reset, Dump.reset, Mem.wf,
    Mem.wfFrom]

/-- A RUN in the ring; a header with PUNITS 8; a second unit that the host rejects. -/
def ringed2 (units : Nat) (bad : List (Nat × Nat)) : State :=
  let s := onHost [(0x100000, 1, 0x31), (0x100002, 2, 1), (0x100004, 4, 9), (0x100008, 1, units)]
    { base with queues := [(1, { queueOf 1 with tail := 2 }), (64, queueOf 0)] }
  { s with att := { s.att with reject := bad } }

theorem test_more_rings :
    meets (ringed 0x30) (fun _ _ p => (hostRows 1 p 0).any fun e => e.2.op == byteAt p 0)
    && ([(8, [], true), (1, [(0x100040, 64)], false)].all fun (x : Nat × List (Nat × Nat) × Bool) =>
      (turnQueue (ringed2 x.1 x.2.1)).any fun q => (Tbl.get? (ringed2 x.1 x.2.1).queues q).any fun k =>
        (nextPacket (ringed2 x.1 x.2.1) k).any fun y => decide (k.head < k.size) && y.2.2 == x.2.2
          && decide (7 < byteAt y.2.1 8) == x.2.2 && hostOk (ringed2 x.1 x.2.1) (k.cqBase + 32 * k.cqTail) 32) = true := by decide +kernel

/-- An OBJ_PLACE in HBM where no stack trained finds no room, and its reply goes to the host. -/
def placePk : Pkt := sub 0x28 [(16, 8, 0x400000), (24, 4, 4), (32, 1, 4), (34, 1, 1), (40, 8, 0x200000)]
def noHbm : State := { base with mctl := { base.mctl with hbmTrained := 0 } }

theorem test_more_refused : (hostRows 1 placePk 0).any (fun e => e.2.op == 0x28
      && mayRead e.2 1 noHbm (rowPacket e.2.op placePk)
      && (checkPacket e.2 noHbm 1 (rowPacket e.2.op placePk)).any fun r => r.st == .refusedBusy && decide (4 < r.reply.length)
        && hostOk noHbm 0x200000 32 && hostOk noHbm 0x400000 4) = true := by decide +kernel

/-- A refinement LOADW over a void unit; a STREAM that enters a row, and one whose row SKIPZ drops; the fabric's endpoint is empty; and a
STREAM whose one row commits. -/
def sSkip : State := micro (uop 1 [(54, 12), (52, 1)]) fun t => { t with voids := [0, 1, 2, 3] }
def sZero : State :=
  micro (uop 2 [(53, 1), (23, 1)]) fun t => { t with slots := t.slots.map fun x => { x with mem := Mem.write x.mem 0x200 (leBytes 2 0x40B) } }

theorem test_more_array :
    issues sSkip 1 (fun x w => (tileAt sSkip x.t).pending.isNone && bitAt w 52 && !bitAt w 58
      && hitsVoid x (tileAt sSkip x.t) (effAddr x (tileAt sSkip x.t) (opAdvsel w) (opAddr w)).toNat (blockLen .refine (bitAt w 53))
      && reads x [{ bank := true, lo := effAddr x (tileAt sSkip x.t) (opAdvsel w) (opAddr w),
                    n := ceilDiv (blockLen ((fmtOf (bitsOf w 54 4)).getD .e4m3) (bitAt w 53)) 64, write := false }] [] sSkip)
    && issues (sStream 1 id) 2 (fun x w => streamRows x (sStream 1 id) (streamOps x (tileAt (sStream 1 id) x.t) w) == [0])
    && issues sZero 2 (fun x w =>
        let o := streamOps x (tileAt sZero x.t) w
        o.n != 0 && o.src != 2 && modeAdmits (modeBits o.block.fmt) o.a && !profConv o.prof && streamFree x o sZero
        && (streamRows x sZero o).isEmpty)
    && (tileAt sFabric 0).endpoint.isEmpty && Mem.wf (tileAt sFabric 0).acc
    && (let j := { job0 with dst := 0, res := [{ i := 0, sums := List.replicate 64 1 }] }
      (ctxAt (sStream 1 fun t => { t with streams := [j] }) 0 0).isSome && j.dst != 2 && !j.vacc) = true := by decide +kernel

/-- RECV with no word, with fewer words than it asks for, and with all. -/
theorem test_more_recv : ([0, 1, 4].all fun n => let s := micro (uop 8 [(55, 3), (36, 4)]) fun t => { t with endpoint := [(3, List.replicate n word0)] }
      issues s 8 fun x w => (endWords (tileAt s x.t) (bitsOf w 55 4)).length == n && bitsOf w 36 16 == 4 && (tileAt s x.t).streams.isEmpty
        && (tileAt s x.t).inprog.isEmpty
        && reads x [{ bank := false, lo := effAddr x (tileAt s x.t) (bitsOf w 34 2) (bitsOf w 18 10), n := 4, write := true }] [] s)
    = true := by decide +kernel

/-- A level-1 loop's END, a PHASE from LOAD to COMPUTE and from DRAIN to LOAD, a WAITPH HOLD with no GATE held, and drains to LOAD and
DRAIN. -/
theorem test_more_sequencer :
    issues (micro (uop 0 [(58, 1), (57, 1), (32, 2)]) id) 0 (fun _ w => isLoop w && loopLvl w != 0)
    && issues (micro (uop 0x0C [(57, 1)]) fun t => { t with phase := .load }) 0x0C (fun x w => phaseOf (bitsOf w 57 2) == .compute
        && (tileAt (micro (uop 0x0C [(57, 1)]) fun t => { t with phase := .load }) x.t).streams.isEmpty)
    && issues (micro (uop 0x0C []) fun t => { t with phase := .drain }) 0x0C (fun _ w => phaseOf (bitsOf w 57 2) == .load)
    && (let s := micro 0 fun t => { t with wait := .waitph 3 0 0 0 0 }
      (ctxAt s 0 0).any fun x => !anyHeldGate s x.part)
    && ([Phase.load, .drain].all fun d => let s := micro 0 fun t => { t with wait := .drain d, phase := .drain }
      (ctxAt s 0 0).any fun x => (fullUnits (tileAt s x.t)).isEmpty && (tileAt s x.t).outbox.isEmpty) = true := by decide +kernel

/-- One command of a job at a job fault; the dump of one without an earlier dump. -/
theorem test_more_faults : (let s := { faulted true false with cmds := [cmdOf 0x30] }
      (Tbl.get? s.queues (cmdOf 0x30).queue).any fun k => (cmdOf 0x30).job != 0 && hostOk s (k.cqBase + 32 * k.cqTail) 32
        && decide (s.evq.tail < 2 ^ s.evq.size.toNat) && decide (s.evq.base.toNat + 32 * 2 ^ s.evq.size.toNat ≤ k.cqBase + 32 * k.cqTail))
    && Mem.wf (faulted true true).dump.bytes && (faulted true true).cmds.isEmpty = true := by decide +kernel

/-- A draft step that does not come to the end of its sequence. -/
theorem test_draft_part : (let q := { draft1 0 with seqRows := [[1, 0, 0, 0], [2, 0, 0, 0]] }
      let s := inStep 2 1 true 1 q
      running s && stepRuns s 4 && (draftStepOf s 21).any (fun e => e.1 == 4 && e.2.seqs == [stepSeq 21 q 1])
        && seqLive s (stepSeq 21 q 1) == some q && decide (q.draftLen + 1 < draftTarget q)) = true := by decide +kernel

/-- A hot reset in DEN, SERVICE and a requested DRAIN; a wake with no partition. -/
theorem test_hot_resets : ([(DevState.den, false), (.service, false), (.drain, true), (.active, false)].all fun x =>
      let s := { base with glb := { base.glb with state := x.1, drainReq := x.2 } }
      s.glb.state != .off && s.glb.state != .boot && s.glb.drainReq == x.2)
    && noPart.parts.isEmpty && noPart.pwr.loose.isEmpty && !noPart.glb.denEntry = true := by decide +kernel

/-! ### IMAGE_LOAD: its digests are the slowest check of this file -/

/-- A loadable image, as fields; its digests are SHA3-256 computed outside the model. -/
def img2 : List (Nat × Nat × Nat) :=
  [(0, 4, 0x344e5956), (4, 2, 4), (6, 2, 128), (8, 8, 0x2c8), (20, 2, 6), (22, 1, 1), (24, 1, 1), (25, 1, 1), (26, 2, 256),
   (32, 8, 0x80), (128, 2, 1), (136, 8, 0x140), (160, 2, 2), (164, 4, 0x30), (168, 8, 0x140), (176, 8, 0xc0), (192, 2, 3),
   (200, 8, 0x140), (224, 2, 4), (232, 8, 0x140), (256, 2, 5), (264, 8, 0x140), (288, 2, 240), (292, 4, 0x1), (296, 8, 0x200),
   (304, 8, 0xc8), (512, 4, 0x6), (520, 32, 0x4dc42f05824e96d2b95b438b784fa039b1c1222eb839b6558ecd213a1925b73f),
   (552, 32, 0x4a43f8804b0ad882fa493be44dff80f562d661a05647c15166d71ebff8c6ffa7),
   (584, 32, 0xd3445f750875a8e3073e136eeefce191363e13791a97eed9e6e8692989231305),
   (616, 32, 0x4a43f8804b0ad882fa493be44dff80f562d661a05647c15166d71ebff8c6ffa7),
   (648, 32, 0x4a43f8804b0ad882fa493be44dff80f562d661a05647c15166d71ebff8c6ffa7),
   (680, 32, 0x4a43f8804b0ad882fa493be44dff80f562d661a05647c15166d71ebff8c6ffa7)]

theorem test_takes_imageLoad :
    ok imageLoadSpec 1 (sub 0x18 [(32, 8, 0), (40, 8, 712)]) (onHost img2 base)
    && (allocHbm base 0xFF (pagesOf 712) 0).isSome = true := by decide +kernel
end Sys2Proof.Tests
end

section
/-! SUPPORT. The alarm mirror: what its words read, what posting leaves of it, and O40. -/
namespace Sys2Proof.Machine

/-! ### What the alarm mirror reads (R366) -/

/-- Word `w` of a mirror entry: the count, zeros, then the last record of the code. -/
def mirrorWord (m : Option (Nat × EvRec)) (w : Nat) : Nat :=
  match m with
  | none => 0
  | some (n, r) => if w = 0 then n % 2 ^ 32 else if w < 8 then 0 else fieldAt (recBytes r false) (4 * (w - 8)) 4

/-- A mirror entry after a further record of its code. -/
def mirrorNext (m : Option (Nat × EvRec)) (r : EvRec) : Nat × EvRec := (((m.map (·.1)).getD 0 + 1) % 2 ^ 32, r)

/-- The words of entry `j` stand at 0x0100 + 0x40 × j. -/
theorem mgRead_mirror (s : State) {j w : Nat} (hj : j < 8) (hw : w < 16) :
    mgRead s (0x100 + 0x40 * j + 4 * w) = mirrorWord (Tbl.get? s.evq.mirror j) w := by
  generalize hoff : 0x100 + 0x40 * j + 4 * w = off
  have hentry : (off - 0x100) / 0x40 = j := by omega
  have hword : (off - 0x100) % 0x40 = 4 * w := by omega
  unfold mgRead
  split
  case h_16 =>
    have hin : (decide (0x100 ≤ off) && decide (off < 0x300)) = true := by simp; omega
    simp only [hin, if_true, hentry, hword, mirrorWord]
    cases Tbl.get? s.evq.mirror j with
    | none => rfl
    | some e =>
      obtain ⟨n, r⟩ := e
      have h0 : 4 * w = 0 ↔ w = 0 := by omega
      have h8 : 4 * w < 32 ↔ w < 8 := by omega
      simp only [h0, h8, show 4 * w - 32 = 4 * (w - 8) by omega]
  all_goals omega

/-- A further record counted: the first word goes up by one, the next seven are 0, and the rest spell the record. -/
theorem mgRead_mirrorNext {s t : State} {j : Nat} {r : EvRec} (hj : j < 8)
    (h : Tbl.get? t.evq.mirror j = some (mirrorNext (Tbl.get? s.evq.mirror j) r)) :
    mgRead t (0x100 + 0x40 * j + 4 * 0) = (mgRead s (0x100 + 0x40 * j + 4 * 0) + 1) % 2 ^ 32 ∧
      (∀ w, 1 ≤ w → w < 8 → mgRead t (0x100 + 0x40 * j + 4 * w) = 0) ∧
      ∀ w, w < 8 → mgRead t (0x100 + 0x40 * j + 4 * (8 + w)) = fieldAt (recBytes r false) (4 * w) 4 := by
  refine ⟨?count, fun w h1 h8 => ?zeros, fun w h8 => ?record⟩
  case count =>
    rw [mgRead_mirror t hj (by omega), mgRead_mirror s hj (by omega), h]
    cases Tbl.get? s.evq.mirror j <;> simp [mirrorWord, mirrorNext]
  case zeros =>
    rw [mgRead_mirror t hj (by omega), h]
    simp only [mirrorWord, mirrorNext, if_neg (show w ≠ 0 by omega), if_pos h8]
  case record =>
    rw [mgRead_mirror t hj (by omega), h]
    simp only [mirrorWord, mirrorNext, if_neg (show 8 + w ≠ 0 by omega), if_neg (show ¬ 8 + w < 8 by omega), Nat.add_sub_cancel_left]

/-! ### What posting leaves of the mirror -/

@[simp] theorem ringWrite_evq (a : Nat) (b : List Byte) (f : Qdb → Qdb) (s : State) : (ringWrite a b f s).evq = s.evq := by
  unfold ringWrite
  split <;> rfl

@[simp] theorem writeRec_mirror (r : EvRec) (s : State) : (writeRec r s).evq.mirror = s.evq.mirror := by
  show (ringWrite _ _ evqReject s).evq.mirror = _
  rw [ringWrite_evq]

@[simp] theorem dropRec_mirror (c : EvClass) (s : State) : (dropRec c s).evq.mirror = s.evq.mirror := by
  cases c <;> rfl

@[simp] theorem keepRec_evq (r : EvRec) (a : Nat) (m : Byte) (p : Bool) (s : State) : (keepRec r a m p s).evq = s.evq := by
  unfold keepRec
  dsimp only
  split <;> rfl

@[simp] theorem reserveRec_mirror (r : EvRec) (s : State) : (reserveRec r s).evq.mirror = s.evq.mirror := by
  unfold reserveRec
  dsimp only
  split
  · split
    · exact dropRec_mirror _ _
    · split
      · rfl
      · split <;> exact dropRec_mirror _ _
  · split
    · rfl
    · exact dropRec_mirror _ _
  · exact dropRec_mirror _ _

@[simp] theorem postHeld_mirror (r : EvRec) (s : State) : (postHeld r s).evq.mirror = s.evq.mirror := writeRec_mirror r _

@[simp] theorem drainHeld_mirror (n : Nat) (s : State) : (drainHeld n s).evq.mirror = s.evq.mirror := by
  induction n generalizing s with
  | zero => rfl
  | succ n ih =>
    unfold drainHeld
    dsimp only
    split
    · rfl
    · split
      · rfl
      · rw [ih, postHeld_mirror]
      · rw [ih, postHeld_mirror]
      · split <;> rw [ih, postHeld_mirror]

/-! ### What posting puts into the mirror (R335, R336) -/

theorem mirrorRec_mirror {r : EvRec} {i : Nat} (h : mirrorIdx r.code = some i) (s : State) :
    (mirrorRec r s).evq.mirror = Tbl.set s.evq.mirror i (mirrorNext (Tbl.get? s.evq.mirror i) r) := by
  unfold mirrorRec
  rw [h]
  rfl

/-- The EVQ_OVERFLOW record that posting the held records begins with. -/
def overflowRec (s : State) : EvRec :=
  (raiseRec 0x0F02 0x00 0 (leBytes 4 s.evq.nAlarm ++ leBytes 4 s.evq.nError ++ leBytes 4 s.evq.nNotice ++ leBytes 4 s.evq.nTrace) s).1

/-- Posting what is held mirrors EVQ_OVERFLOW, where it is due and an entry is free, and nothing else. -/
theorem flushEvq_mirror (s : State) : (flushEvq s).evq.mirror =
    if s.evq.overflow = true ∧ evqFree s.evq ≠ 0 then
      Tbl.set s.evq.mirror 7 (mirrorNext (Tbl.get? s.evq.mirror 7) (overflowRec s))
    else s.evq.mirror := by
  unfold flushEvq
  by_cases hfree : evqFree s.evq = 0
  · simp [hfree]
  · cases hover : s.evq.overflow
    · simp [hfree]
    · simp only [hfree, if_false, if_true, drainHeld_mirror, keepRec_evq, writeRec_mirror, ne_eq, not_false_eq_true, and_self]
      rw [mirrorRec_mirror (i := 7) rfl]
      rfl

/-- An event posted leaves every mirror entry but EVQ_OVERFLOW's as raising its record left it. -/
theorem postEventAt_mirror (code src job : Nat) (d : List Byte) (addr : Nat) (mem : Byte) (s : State) {i : Nat} (hi : i ≠ 7) :
    let x := raiseRec code src job d s
    (postEventAt code src job d addr mem s).1 = x.1 ∧
      Tbl.get? (postEventAt code src job d addr mem s).2.evq.mirror i =
        Tbl.get? (if x.1.cls == .alarm then mirrorRec x.1 x.2 else x.2).evq.mirror i := by
  unfold postEventAt
  generalize raiseRec code src job d s = x
  obtain ⟨r, s1⟩ := x
  dsimp only
  generalize (if r.cls == .alarm then mirrorRec r s1 else s1) = s2
  have hflush : Tbl.get? (flushEvq s2).evq.mirror i = Tbl.get? s2.evq.mirror i := by
    rw [flushEvq_mirror]
    split
    · exact Tbl.get?_set_ne _ _ hi.symm
    · rfl
  split
  · exact ⟨rfl, rfl⟩
  · split
    · exact ⟨rfl, by rw [keepRec_evq, reserveRec_mirror, hflush]⟩
    · split
      · exact ⟨rfl, by rw [keepRec_evq, writeRec_mirror, hflush]⟩
      · exact ⟨rfl, by rw [keepRec_evq, dropRec_mirror, hflush]⟩

/-- The ALARM codes of entries 0 to 6 of the mirror (R238, R366). -/
theorem alarmCode_of_getElem? {i code : Nat} (h : [0x0101, 0x0102, 0x0103, 0x0205, 0x0303, 0x0304, 0x0F01][i]? = some code) :
    i < 7 ∧ mirrorIdx code = some i ∧ eventClass code = .alarm := by
  have hi : i < 7 := (List.getElem?_eq_some_iff.mp h).1
  refine ⟨hi, ?_⟩
  have hcases : i = 0 ∨ i = 1 ∨ i = 2 ∨ i = 3 ∨ i = 4 ∨ i = 5 ∨ i = 6 := by omega
  obtain rfl | rfl | rfl | rfl | rfl | rfl | rfl := hcases <;> (cases h; decide)

end Sys2Proof.Machine

namespace Sys2Proof
open Machine

/-- Settles O40: raising an ALARM puts its record into the mirror with the count, what is posted after it touches EVQ_OVERFLOW's entry
alone, and that entry gets the record that goes before the held ones. The mirror's copy has P = 0, a choice of the model. -/
theorem alarmMirrorHoldsTheLastRecord : Obligations.AlarmMirrorHoldsTheLastRecord := by
  intro i src job addr d mem s
  refine ⟨fun code hcode => ?alarm, fun hover hfree => ?overflow⟩
  case alarm =>
    obtain ⟨hi, hidx, hcls⟩ := alarmCode_of_getElem? hcode
    obtain ⟨hrec, hmirror⟩ := postEventAt_mirror code src job d addr mem s (show i ≠ 7 by omega)
    refine ⟨mgRead_mirrorNext (by omega) ?_, by rw [hrec]; rfl, by rw [hrec]; rfl⟩
    have halarm : ((raiseRec code src job d s).1.cls == .alarm) = true := by
      show (eventClass code == .alarm) = true
      rw [hcls]
      rfl
    rw [hmirror, hrec, if_pos halarm, mirrorRec_mirror (r := (raiseRec code src job d s).1) hidx, Tbl.get?_set_self]
    rfl
  case overflow =>
    refine ⟨overflowRec s, rfl, rfl, mgRead_mirrorNext (j := 7) (by decide) ?_⟩
    rw [flushEvq_mirror, if_pos ⟨hover, hfree⟩, Tbl.get?_set_self]

end Sys2Proof
end

section
/-! SUPPORT. What leaves QDB_AQ_ENABLE's EN and ACTIVE and the names of the accepted commands: posting, memory, fill, links, objects, tiers. -/
namespace Sys2Proof.Machine

/-! ### The admin ring and the names of the accepted commands -/

/-- EN and ACTIVE of the AQ, and the names of the accepted commands in order: what QDB_AQ_ENABLE reads goes by these (R350). -/
def adminView (s : State) : Bool × Bool × List (Nat × Nat) := (s.qdb.aqEn, s.qdb.aqActive, s.cmds.map Cmd.key)

/-- `t` has the admin ring enabled and active as `s` has it, and the same commands accepted. -/
def SameAdmin (s t : State) : Prop := adminView t = adminView s

theorem SameAdmin.trans {s t u : State} (h : SameAdmin s t) (k : SameAdmin t u) : SameAdmin s u := Eq.trans k h

theorem SameAdmin.foldl {α : Type} {f : State → α → State} (h : ∀ a x, SameAdmin a (f a x)) (l : List α) (s : State) :
    SameAdmin s (l.foldl f s) :=
  List.foldlRecOn l f rfl fun a ha x _ => ha.trans (h a x)

/-- A command changed under its name. -/
theorem sameAdmin_onCmd (k : Nat × Nat) {g : Cmd → Cmd} (hg : ∀ c, (g c).key = c.key) (s : State) : SameAdmin s (onCmd k g s) := by
  have hkeys : (onCmd k g s).cmds.map Cmd.key = s.cmds.map Cmd.key := by
    rw [onCmd_cmds, List.map_map]
    refine List.map_congr_left fun c _ => ?_
    dsimp only [Function.comp_apply]
    split
    · exact hg c
    · rfl
  show (_, _, _) = (_, _, _)
  rw [hkeys]
  rfl

theorem sameAdmin_decide (k : Nat × Nat) (st : Status) (r : List Byte) (s : State) : SameAdmin s (decide_ k st r s) :=
  sameAdmin_onCmd k (fun c => by split <;> rfl) s

theorem sameAdmin_writeHost (a : Nat) (b : List Byte) (s : State) : SameAdmin s (writeHost a b s) := rfl

theorem sameAdmin_settle (s : State) : SameAdmin s (settle s) := by
  rw [settle_glb]
  rfl

/-! ### Posting -/

/-- A ring write, where the mark of a rejected one leaves EN and ACTIVE. -/
theorem sameAdmin_ringWrite (a : Nat) (b : List Byte) {f : Qdb → Qdb} (he : ∀ d, (f d).aqEn = d.aqEn)
    (ha : ∀ d, (f d).aqActive = d.aqActive) (s : State) : SameAdmin s (ringWrite a b f s) := by
  unfold ringWrite
  split
  · rfl
  · show (_, _, _) = (_, _, _)
    rw [ringReject, he, ha]

theorem sameAdmin_writeRec (r : EvRec) (s : State) : SameAdmin s (writeRec r s) :=
  (sameAdmin_ringWrite (s.evq.base.toNat + 32 * s.evq.tail) (recBytes r s.evq.phase) (f := evqReject) (fun _ => rfl)
    (fun _ => rfl) s).trans (by rfl)

theorem sameAdmin_mirrorRec (r : EvRec) (s : State) : SameAdmin s (mirrorRec r s) := by
  unfold mirrorRec
  split <;> rfl

theorem sameAdmin_dropRec (c : EvClass) (s : State) : SameAdmin s (dropRec c s) := by
  cases c <;> rfl

theorem sameAdmin_reserveRec (r : EvRec) (s : State) : SameAdmin s (reserveRec r s) := by
  unfold reserveRec
  dsimp only
  split
  · split
    · exact sameAdmin_dropRec _ _
    · split
      · rfl
      · split <;> exact sameAdmin_dropRec _ _
  · split
    · rfl
    · exact sameAdmin_dropRec _ _
  · exact sameAdmin_dropRec _ _

theorem sameAdmin_keepRec (r : EvRec) (a : Nat) (m : Byte) (p : Bool) (s : State) : SameAdmin s (keepRec r a m p s) := by
  unfold keepRec
  dsimp only
  split <;> rfl

theorem sameAdmin_postHeld (r : EvRec) (s : State) : SameAdmin s (postHeld r s) :=
  SameAdmin.trans (by rfl) (sameAdmin_writeRec r _)

theorem sameAdmin_drainHeld (n : Nat) (s : State) : SameAdmin s (drainHeld n s) := by
  induction n generalizing s with
  | zero => rfl
  | succ n ih =>
    unfold drainHeld
    dsimp only
    split
    · rfl
    · split
      · rfl
      · exact SameAdmin.trans (SameAdmin.trans (by rfl) (sameAdmin_postHeld _ _)) (ih _)
      · exact SameAdmin.trans (SameAdmin.trans (by rfl) (sameAdmin_postHeld _ _)) (ih _)
      · split <;> exact SameAdmin.trans (SameAdmin.trans (by rfl) (sameAdmin_postHeld _ _)) (ih _)

theorem sameAdmin_flushEvq (s : State) : SameAdmin s (flushEvq s) := by
  unfold flushEvq
  split
  · rfl
  · dsimp only
    split
    · exact (((SameAdmin.trans (by rfl) (sameAdmin_mirrorRec _ _)).trans (sameAdmin_writeRec _ _)).trans
        (sameAdmin_keepRec _ _ _ _ _)).trans (sameAdmin_drainHeld _ _)
    · exact sameAdmin_drainHeld _ _

theorem sameAdmin_postEventAt (code source job : Nat) (d : List Byte) (a : Nat) (m : Byte) (s : State) :
    SameAdmin s (postEventAt code source job d a m s).2 := by
  have hraise : SameAdmin s (raiseRec code source job d s).2 := rfl
  unfold postEventAt
  generalize raiseRec code source job d s = x at *
  obtain ⟨r, s1⟩ := x
  have hmirror : SameAdmin s (if r.cls == .alarm then mirrorRec r s1 else s1) := by
    split
    · exact hraise.trans (sameAdmin_mirrorRec _ _)
    · exact hraise
  dsimp only
  generalize (if r.cls == .alarm then mirrorRec r s1 else s1) = s2 at *
  have hflush := hmirror.trans (sameAdmin_flushEvq s2)
  split
  · exact hmirror.trans (by rfl)
  · split
    · exact (hflush.trans (sameAdmin_reserveRec _ _)).trans (sameAdmin_keepRec _ _ _ _ _)
    · split
      · exact (hflush.trans (sameAdmin_writeRec _ _)).trans (sameAdmin_keepRec _ _ _ _ _)
      · exact (hflush.trans (sameAdmin_dropRec _ _)).trans (sameAdmin_keepRec _ _ _ _ _)

theorem sameAdmin_postEvent (code source job : Nat) (d : List Byte) (s : State) : SameAdmin s (postEvent code source job d s) :=
  sameAdmin_postEventAt _ _ _ _ _ _ _

theorem sameAdmin_postEntry (q seq : Nat) (st : Status) (job type flags loc : Nat) (r : List Byte) (u : Bool) (s : State) :
    SameAdmin s (postEntry q seq st job type flags loc r u s) := by
  have hreject : ∀ d, (cqReject q d).aqEn = d.aqEn ∧ (cqReject q d).aqActive = d.aqActive := by
    intro d
    unfold cqReject
    split <;> exact ⟨rfl, rfl⟩
  unfold postEntry
  split
  · rfl
  · exact (sameAdmin_ringWrite _ _ (fun d => (hreject d).1) (fun d => (hreject d).2) s).trans (by rfl)

theorem sameAdmin_standFault (r : EvRec) (cause : Nat) (part : Option Nat) (tile : Option (Nat × Nat)) (s : State) :
    SameAdmin s (standFault r cause part tile s) := by
  unfold standFault
  split <;> rfl

theorem sameAdmin_raiseFault (code source job : Nat) (d : List Byte) (cause : Nat) (part : Option Nat) (tile : Option (Nat × Nat))
    (a : Nat) (m : Byte) (s : State) : SameAdmin s (raiseFault code source job d cause part tile a m s) :=
  (sameAdmin_postEventAt code source job d a m s).trans (sameAdmin_standFault _ _ _ _ _)

/-! ### Memory and checked reads -/

theorem sameAdmin_eccOnWrite (a n : Nat) (s : State) : SameAdmin s (eccOnWrite a n s) := by
  unfold eccOnWrite
  split
  · rfl
  · split <;> rfl

theorem sameAdmin_clearMem (a n : Nat) (s : State) : SameAdmin s (clearMem a n s) :=
  SameAdmin.trans (by rfl) (sameAdmin_eccOnWrite a n _)

theorem sameAdmin_writeMem (a : Nat) (b : List Byte) (s : State) : SameAdmin s (writeMem a b s) :=
  SameAdmin.trans (by rfl) (sameAdmin_eccOnWrite a b.length _)

theorem sameAdmin_clearUnits (p : Part) (u n : Nat) (s : State) : SameAdmin s (clearUnits p u n s) :=
  .foldl (fun _ _ => sameAdmin_clearMem _ _ _) _ s

theorem sameAdmin_markDue (k : MemKind) (a reason : Nat) (s : State) : SameAdmin s (markDue k a reason s) := by
  unfold markDue
  dsimp only
  split <;> rfl

theorem sameAdmin_noteHit (e : ErrWord) (s : State) : SameAdmin s (noteHit e s) := by
  unfold noteHit
  split
  · rfl
  · dsimp only
    split
    · exact SameAdmin.trans (by rfl) (sameAdmin_markDue _ _ _ _)
    · rfl

theorem sameAdmin_eccRead (k : MemKind) (a n : Nat) (s : State) : SameAdmin s (eccRead k a n s).st := by
  have hcount : ∀ good : List ErrWord, SameAdmin s (good.foldl (fun x e => noteHit e (countCe k x)) s) :=
    fun good => .foldl (fun _ _ => SameAdmin.trans (by rfl) (sameAdmin_noteHit _ _)) good s
  unfold eccRead
  dsimp only
  split
  · rfl
  · split
    · rfl
    · refine SameAdmin.trans ?_ (.foldl (fun _ _ => sameAdmin_markDue _ _ _ _) _ _)
      refine SameAdmin.trans ?_ rfl
      split
      · exact (hcount _).trans (by rfl)
      · exact hcount _

theorem sameAdmin_eccReadAt (a n : Nat) (s : State) : SameAdmin s (eccReadAt a n s).st := by
  unfold eccReadAt
  split
  · exact sameAdmin_eccRead _ _ _ _
  · rfl

theorem sameAdmin_ueFault (es : List ErrWord) (cause : Nat) (part : Option Nat) (tile : Option (Nat × Nat)) (job : Nat)
    (s : State) : SameAdmin s (ueFault es cause part tile job s) := by
  refine .foldl (fun a e => ?_) es s
  dsimp only
  split
  · split
    · rfl
    · exact (sameAdmin_standFault _ _ _ _ _).trans (sameAdmin_keepRec _ _ _ _ _)
  · exact sameAdmin_raiseFault _ _ _ _ _ _ _ _ _ _

theorem sameAdmin_objWrite (o : Obj) (x : Nat) (b : List Byte) (s : State) : SameAdmin s (objWrite o x b s) :=
  List.foldlRecOn (motive := fun r : List Byte × State => SameAdmin s r.2) _ _ rfl
    fun _ h _ _ => h.trans (sameAdmin_writeMem _ _ _)

/-! ### Load fill and what runs on a partition -/

theorem sameAdmin_openEpisode (s : State) : SameAdmin s (openEpisode s) := by
  unfold openEpisode
  split <;> rfl

theorem sameAdmin_takeFill (f w : Nat) (s : State) : SameAdmin s (takeFill f w s) := by
  unfold takeFill
  split
  · exact SameAdmin.trans (by rfl) (sameAdmin_openEpisode _)
  · rfl

theorem sameAdmin_endDemand (f w : Nat) (s : State) : SameAdmin s (endDemand f w s) := by
  unfold endDemand
  split
  · rfl
  · dsimp only
    split
    · rfl
    · exact SameAdmin.trans (by rfl) (sameAdmin_takeFill _ _ _)

theorem sameAdmin_freePart (f : Nat) (s : State) : SameAdmin s (freePart f s) := by
  unfold freePart
  split
  · rfl
  · dsimp only
    split
    · exact SameAdmin.trans (by rfl) (sameAdmin_endDemand _ _ _)
    · rfl

theorem sameAdmin_unhand (f : Nat) (s : State) : SameAdmin s (unhand f s) := by
  unfold unhand
  split
  · split
    · exact SameAdmin.trans (by rfl) (sameAdmin_takeFill _ _ _)
    · rfl
  · rfl

theorem sameAdmin_unqueue (k : Nat × Nat) (s : State) : SameAdmin s (unqueue k s) :=
  SameAdmin.trans (by rfl) (.foldl (fun _ _ => sameAdmin_unhand _ _) _ _)

theorem sameAdmin_clearTags (p : Part) (s : State) : SameAdmin s (clearTags p s) := by
  refine .foldl (fun a t => ?_) _ s
  split <;> rfl

/-! ### Links and huddles -/

theorem sameAdmin_sendFlit (i type vc dst : Nat) (b : List Byte) (sob eob : Bool) (s : State) :
    SameAdmin s (sendFlit i type vc dst b sob eob s) := by
  unfold sendFlit
  dsimp only
  split
  · rfl
  · split <;> (split <;> rfl)

theorem sameAdmin_sendBurst (i kind dst id off : Nat) (data : List Byte) (last : Bool) (s : State) :
    SameAdmin s (sendBurst i kind dst id off data last s) :=
  .foldl (fun _ _ => sameAdmin_sendFlit _ _ _ _ _ _ _ _) _ s

theorem sameAdmin_sendMessages (ms : List (Nat × Nat × Nat × List Byte)) (s : State) : SameAdmin s (sendMessages ms s) := by
  refine .foldl (fun a k => .foldl (fun b m => ?_) _ a) _ s
  split
  · rfl
  · split
    · rfl
    · exact sameAdmin_sendBurst _ _ _ _ _ _ _ _

theorem sameAdmin_sendMessage (dst kind : Nat) (data : List Byte) (s : State) : SameAdmin s (sendMessage dst kind data s).2 :=
  SameAdmin.trans (by rfl) (sameAdmin_sendMessages _ _)

theorem sameAdmin_loseLater (s : State) : SameAdmin s (loseLater s) :=
  SameAdmin.trans (by rfl) (.foldl (fun _ _ => sameAdmin_postEvent _ _ _ _ _) _ _)

theorem sameAdmin_sendLater (s : State) : SameAdmin s (sendLater s) :=
  (SameAdmin.trans (by rfl) (.foldl (fun _ _ => sameAdmin_sendMessage _ _ _ _) _ _)).trans (sameAdmin_loseLater _)

theorem sameAdmin_scheduleHeaders (job part base from_ : Nat) (zero : Bool) (s : State) :
    SameAdmin s (scheduleHeaders job part base from_ zero s) := by
  unfold scheduleHeaders
  split
  · rfl
  · exact SameAdmin.trans (by rfl) (sameAdmin_sendLater _)

theorem sameAdmin_abortCurrent (f : Nat) (c : Cmd) (s : State) : SameAdmin s (abortCurrent f c s) := by
  unfold abortCurrent
  dsimp only
  split
  · rfl
  · split
    · split
      · exact (SameAdmin.foldl (fun _ _ => sameAdmin_sendMessage _ _ _ _) _ s).trans
          (SameAdmin.trans (by rfl) (sameAdmin_scheduleHeaders _ _ _ _ _ _))
      · exact SameAdmin.trans (by rfl) (sameAdmin_scheduleHeaders _ _ _ _ _ _)
    · exact sameAdmin_scheduleHeaders _ _ _ _ _ _

theorem sameAdmin_abortHuddles (f : Nat) (c : Cmd) (s : State) : SameAdmin s (abortHuddles f c s) := by
  refine (sameAdmin_abortCurrent f c s).trans (.foldl (fun a g => ?_) _ _)
  split
  · exact sameAdmin_scheduleHeaders _ _ _ _ _ _
  · rfl

/-! ### Objects, slots and membership -/

theorem sameAdmin_clearBankObj (o : Obj) (s : State) : SameAdmin s (clearBankObj o s) := by
  unfold clearBankObj
  split
  · split
    · rfl
    · exact sameAdmin_clearUnits _ _ _ _
  · rfl

theorem sameAdmin_dropObj (h : Nat) (s : State) : SameAdmin s (dropObj h s) := by
  unfold dropObj
  split
  · rfl
  · exact (sameAdmin_clearBankObj _ s).trans (by rfl)

theorem sameAdmin_releaseObj (h : Nat) (s : State) : SameAdmin s (releaseObj h s) := by
  unfold releaseObj
  split
  · rfl
  · exact sameAdmin_dropObj h s

theorem sameAdmin_sweepObjs (s : State) : SameAdmin s (sweepObjs s) := .foldl (fun _ _ => sameAdmin_dropObj _ _) _ s

theorem sameAdmin_freeSlot (j m : Nat) (b : Bool) (s : State) : SameAdmin s (freeSlot j m b s) :=
  SameAdmin.trans (by rfl) (.foldl (fun _ _ => sameAdmin_releaseObj _ _) _ _)

theorem sameAdmin_unbindSlot (j m : Nat) (b : Bool) (s : State) : SameAdmin s (unbindSlot j m b s) := by
  unfold unbindSlot
  dsimp only
  split
  · exact SameAdmin.trans (by rfl) (sameAdmin_freeSlot j m b _)
  · rfl

theorem sameAdmin_releaseBanks (j : Nat) (s : State) : SameAdmin s (releaseBanks j s) := by
  unfold releaseBanks
  split
  · refine SameAdmin.trans (SameAdmin.foldl (fun a x => ?_) _ s) (SameAdmin.trans (by rfl) (.foldl (fun _ _ => sameAdmin_dropObj _ _) _ _))
    split
    · exact sameAdmin_clearUnits _ _ _ _
    · rfl
  · rfl

theorem sameAdmin_leavePart (j : Nat) (s : State) : SameAdmin s (leavePart j s) := by
  unfold leavePart
  split
  · rfl
  · refine (sameAdmin_releaseBanks j s).trans ?_
    dsimp only
    split
    · exact (SameAdmin.trans (by rfl) (sameAdmin_openEpisode _)).trans (sameAdmin_clearTags _ _)
    · rfl

/-! ### Tier engines and waiting pins -/

theorem sameAdmin_discardTier (k : Nat × Nat) (s : State) : SameAdmin s (discardTier k s) := by
  have hpages : ∀ l : List TierJob, SameAdmin s
      (l.foldl (fun a j => onObj j.handle (fun o => { o with moving := o.moving.erase j.idx }) a) s) :=
    fun l => .foldl (fun _ _ => by rfl) l s
  exact (hpages _).trans (by rfl)

theorem sameAdmin_startTier (i : Nat) (j : TierJob) (s : State) : SameAdmin s (startTier i j s) := by
  unfold startTier
  split
  · exact (sameAdmin_discardTier _ s).trans (sameAdmin_decide _ _ _ _)
  · unfold giveEngine
    dsimp only
    split <;> rfl

theorem sameAdmin_dispatchTiers (n : Nat) (s : State) : SameAdmin s (dispatchTiers n s) := by
  induction n generalizing s with
  | zero => rfl
  | succ n ih =>
    unfold dispatchTiers
    dsimp only
    split
    · split
      · exact (sameAdmin_startTier _ _ s).trans (ih _)
      · rfl
    · split
      · exact (sameAdmin_startTier _ _ s).trans (ih _)
      · rfl

theorem sameAdmin_replyTo (k : Nat × Nat) (b : List Byte) (s : State) : SameAdmin s (replyTo k b s) := by
  unfold replyTo
  split
  · rfl
  · dsimp only
    split
    · exact sameAdmin_onCmd k (fun _ => by rfl) s
    · exact (sameAdmin_onCmd k (fun _ => by rfl) s).trans (sameAdmin_writeHost _ _ _)

theorem sameAdmin_answer (k : Nat × Nat) (reply result : List Byte) (s : State) : SameAdmin s (answer k reply result s) := by
  unfold answer
  split
  · rfl
  · dsimp only
    split
    · exact sameAdmin_decide _ _ _ s
    · exact (sameAdmin_replyTo k reply s).trans (sameAdmin_decide _ _ _ _)

theorem sameAdmin_settlePins (s : State) : SameAdmin s (settlePins s) := by
  refine .foldl (fun a c => ?_) _ s
  dsimp only
  split
  · exact sameAdmin_decide _ _ _ a
  · split
    · rfl
    · exact SameAdmin.trans (by rfl) (sameAdmin_answer _ _ _ _)

theorem sameAdmin_dispatch (s : State) : SameAdmin s (dispatch s) :=
  (sameAdmin_settlePins s).trans (sameAdmin_dispatchTiers _ _)

end Sys2Proof.Machine
end

section
/-! SUPPORT. The same of the serving firmware's operations, and of what ends a job or a command. -/
namespace Sys2Proof.Machine

/-! ### Accounts, KV blocks and the warren -/

theorem sameAdmin_onSrv (f : Srv → Srv) (s : State) : SameAdmin s (onSrv f s) := rfl

theorem sameAdmin_onReq (r : Nat) (f : Req → Req) (s : State) : SameAdmin s (onReq r f s) := rfl

theorem sameAdmin_refNodes (ns : List Nat) (up : Bool) (s : State) : SameAdmin s (refNodes ns up s) := rfl

theorem sameAdmin_dropMatch (q : Req) (s : State) : SameAdmin s (dropMatch q s) := rfl

theorem sameAdmin_charge (a e : Nat) (s : State) : SameAdmin s (charge a e s) := rfl

theorem sameAdmin_refund (a e : Nat) (s : State) : SameAdmin s (refund a e s) := rfl

theorem sameAdmin_budgetEvent (a job : Nat) (s : State) : SameAdmin s (budgetEvent a job s) := by
  have hposted : ∀ x d, SameAdmin s (postEvent 0x0601 0x03 job d (setAccount a x s)) :=
    fun _ _ => SameAdmin.trans (by rfl) (sameAdmin_postEvent _ _ _ _ _)
  unfold budgetEvent
  dsimp only
  split
  · exact hposted _ _
  · split
    · exact hposted _ _
    · rfl

theorem sameAdmin_newBlock {job bytes : Nat} {ddr : Bool} {s : State} {x : Nat × State} (h : newBlock job bytes ddr s = some x) :
    SameAdmin s x.2 := by
  unfold newBlock at h
  dsimp only at h
  split at h
  · cases h
    rfl
  · split at h
    · split at h
      · cases h
      · cases h
        rfl
    · cases h

theorem sameAdmin_sweepKv (s : State) : SameAdmin s (sweepKv s) :=
  SameAdmin.trans (by rfl) (.foldl (fun _ _ => SameAdmin.trans (by rfl) (sameAdmin_dropObj _ _)) _ _)

theorem sameAdmin_writeBlock (a : Nat) (b : List Byte) (s : State) : SameAdmin s (writeBlock a b s) := by
  unfold writeBlock writeBlockAt
  split
  · split
    · exact sameAdmin_objWrite _ _ _ s
    · exact sameAdmin_writeMem _ _ s
  · exact sameAdmin_writeMem _ _ s

theorem sameAdmin_copyBlock (src n dst job : Nat) (conv : List Byte → List Byte) (s : State) :
    SameAdmin s (copyBlock src n dst job conv s) := by
  unfold copyBlock
  dsimp only
  refine SameAdmin.trans ?_ (sameAdmin_writeBlock _ _ _)
  split
  · rfl
  · exact .foldl (fun _ _ => (sameAdmin_eccReadAt _ _ _).trans (sameAdmin_ueFault _ _ _ _ _ _)) _ s

theorem sameAdmin_spillOne {x : Nat × Nat ⊕ Nat} {s t : State} (h : spillOne x s = some t) : SameAdmin s t := by
  have hmoved : ∀ {job n : Nat} {b : Nat × State} (_ : newBlock job n true s = some b) (src m : Nat)
      (conv : List Byte → List Byte) (u : State), SameAdmin (copyBlock src m b.1 job conv b.2) u → SameAdmin s (sweepKv u) :=
    fun hb src m conv u hu =>
      (((sameAdmin_newBlock hb).trans (sameAdmin_copyBlock src m _ _ conv _)).trans hu).trans (sameAdmin_sweepKv u)
  unfold spillOne at h
  split at h
  · split at h
    · cases h
    · dsimp only at h
      split at h
      · next hb =>
        cases h
        exact hmoved hb _ _ _ _ (sameAdmin_onReq _ _ _)
      · cases h
  · split at h
    · cases h
    · dsimp only at h
      split at h
      · next hb =>
        cases h
        exact hmoved hb _ _ _ _ (sameAdmin_onSrv _ _)
      · cases h

theorem sameAdmin_spillNext {s t : State} (h : spillNext s = some t) : SameAdmin s t := by
  obtain ⟨x, _, hx⟩ := List.exists_of_findSome?_eq_some h
  exact sameAdmin_spillOne hx

theorem sameAdmin_roomFor {job bytes n : Nat} {s : State} {x : Nat × State} (h : roomFor job bytes n s = some x) :
    SameAdmin s x.2 := by
  induction n generalizing s with
  | zero => exact sameAdmin_newBlock h
  | succ n ih =>
    unfold roomFor at h
    split at h
    · next hb =>
      cases h
      exact sameAdmin_newBlock hb
    · obtain ⟨u, hu, hx⟩ := Option.bind_eq_some_iff.mp h
      exact (sameAdmin_spillNext hu).trans (ih hx)

theorem sameAdmin_giveBlocks {r job bytes n : Nat} {s t : State} (h : giveBlocks r job bytes n s = some t) : SameAdmin s t := by
  induction n generalizing s with
  | zero =>
    cases h
    rfl
  | succ n ih =>
    obtain ⟨x, hx, ht⟩ := Option.bind_eq_some_iff.mp h
    exact ((sameAdmin_roomFor hx).trans (by rfl)).trans (ih ht)

theorem sameAdmin_dropNode (n : Nat) (s : State) : SameAdmin s (dropNode n s) := by
  unfold dropNode
  split <;> rfl

theorem sameAdmin_sweepStale (n : Nat) (s : State) : SameAdmin s (sweepStale n s) := by
  induction n generalizing s with
  | zero => rfl
  | succ n ih =>
    unfold sweepStale
    split
    · rfl
    · exact (sameAdmin_dropNode _ s).trans (ih _)

theorem sameAdmin_dropNodesOf (job : Nat) (s : State) : SameAdmin s (dropNodesOf job s) :=
  SameAdmin.trans (by rfl) (sameAdmin_sweepKv _)

/-! ### Turns and requests -/

theorem sameAdmin_queueReturns (r : Nat) (s : State) : SameAdmin s (queueReturns r s) := by
  unfold queueReturns
  split <;> rfl

theorem sameAdmin_tryAdmit {r : Nat} {s t : State} (h : tryAdmit r s = some t) : SameAdmin s t := by
  unfold tryAdmit at h
  split at h
  · cases h
  · split at h
    · cases h
    · dsimp only at h
      split at h
      · cases h
      · obtain ⟨u, hu, rfl⟩ := Option.map_eq_some_iff.mp h
        exact (((SameAdmin.trans (by rfl) (sameAdmin_giveBlocks hu)).trans (by rfl)).trans (sameAdmin_decide _ _ _ _)).trans
          (sameAdmin_queueReturns _ _)

theorem sameAdmin_removeReq (r : Nat) (s : State) : SameAdmin s (removeReq r s) := by
  unfold removeReq
  split
  · rfl
  · next q _ =>
    dsimp only
    have hrefs := (sameAdmin_dropMatch q (onSrv (fun v => { v with reqs := Tbl.erase v.reqs r }) s)).trans
      (sameAdmin_refNodes q.path false _)
    generalize refNodes q.path false _ = t at hrefs ⊢
    exact (((SameAdmin.trans hrefs (sameAdmin_sweepStale t.srv.nodes.length t)).trans (sameAdmin_sweepKv _)).trans
      (by rfl)).trans (sameAdmin_unbindSlot _ _ _ _)

theorem sameAdmin_undoTurn (r : Nat) (s : State) : SameAdmin s (undoTurn r s) := by
  unfold undoTurn
  split
  · rfl
  · split
    · exact sameAdmin_removeReq r s
    · rfl

theorem sameAdmin_arrive (r : Nat) (s : State) : SameAdmin s (arrive r s) := by
  unfold arrive
  split
  · rfl
  · next q _ =>
    split
    · rfl
    · dsimp only
      split
      · exact ((((sameAdmin_onReq _ _ s).trans (sameAdmin_refNodes _ _ _)).trans (sameAdmin_budgetEvent _ _ _)).trans
          (sameAdmin_decide _ _ _ _)).trans (sameAdmin_undoTurn _ _)
      · generalize hs2 : charge q.account _ (onReq r _ (refNodes _ true _)) = s2
        have h2 : SameAdmin s s2 := by
          rw [← hs2]
          exact (((sameAdmin_onReq _ _ s).trans (sameAdmin_refNodes _ _ _)).trans (sameAdmin_onReq _ _ _)).trans
            (sameAdmin_charge _ _ _)
        refine h2.trans ?_
        split
        · next h => exact sameAdmin_tryAdmit h
        · split
          · exact (sameAdmin_onReq r (fun q => { q with state := .deferred }) s2).trans (by rfl)
          · exact ((sameAdmin_refund _ _ _).trans (sameAdmin_decide _ _ _ _)).trans (sameAdmin_undoTurn _ _)

theorem sameAdmin_endTurn (r : Nat) (st : Status) (ended : Nat) (s : State) : SameAdmin s (endTurn r st ended s) := by
  unfold endTurn
  split
  · rfl
  · next q _ =>
    split
    · rfl
    · dsimp only
      generalize hs1 : (if ended = 2 then s else onSrv _ s) = s1
      have h1 : SameAdmin s s1 := by
        rw [← hs1]
        split <;> rfl
      generalize hs2 : sweepKv (onReq r _ (dropMatch q (refund q.account _ s1))) = s2
      have h2 : SameAdmin s s2 := by
        rw [← hs2]
        exact (h1.trans (((sameAdmin_refund _ _ _).trans (sameAdmin_dropMatch _ _)).trans (sameAdmin_onReq _ _ _))).trans
          (sameAdmin_sweepKv _)
      generalize (if ended = 2 then ReqState.ended else _) = next
      refine h2.trans ?_
      split
      · rfl
      · split
        · exact (sameAdmin_onReq _ _ _).trans (sameAdmin_arrive _ _)
        · exact ((sameAdmin_onReq _ _ _).trans (sameAdmin_onCmd _ (fun _ => by rfl) _)).trans (sameAdmin_decide _ _ _ _)

theorem sameAdmin_cancelTurn (r : Nat) (s : State) : SameAdmin s (cancelTurn r s) := by
  unfold cancelTurn
  split
  · rfl
  · split
    · rfl
    · refine SameAdmin.trans ?_ (sameAdmin_endTurn _ _ _ _)
      dsimp only
      split <;> split
      · exact (SameAdmin.trans (by rfl) (sameAdmin_decide _ _ _ _)).trans (sameAdmin_decide _ _ _ _)
      · exact sameAdmin_decide _ _ _ _
      · exact SameAdmin.trans (by rfl) (sameAdmin_decide _ _ _ _)
      · rfl

theorem sameAdmin_removeReqsOf (job : Nat) (s : State) : SameAdmin s (removeReqsOf job s) :=
  .foldl (fun _ _ => (sameAdmin_cancelTurn _ _).trans (sameAdmin_removeReq _ _)) _ s

theorem sameAdmin_endSteps (j : Nat) (s : State) : SameAdmin s (endSteps j s) := by
  refine SameAdmin.trans (.foldl (fun a p => ?_) _ s) (by rfl)
  split
  · exact sameAdmin_freePart _ _
  · rfl

/-! ### The end of a job and of a command -/

theorem sameAdmin_failQueued (f : Nat) (c : Cmd) (st : Status) (s : State) : SameAdmin s (failQueued f c st s) :=
  ((sameAdmin_unqueue _ s).trans (sameAdmin_abortHuddles _ _ _)).trans (sameAdmin_decide _ _ _ _)

theorem sameAdmin_quitPart (j : Nat) (s : State) : SameAdmin s (quitPart j s) := by
  unfold quitPart
  split
  · rfl
  · refine SameAdmin.trans ?_ (sameAdmin_leavePart _ _)
    split
    · refine .foldl (fun a x => ?_) _ s
      split
      · exact sameAdmin_failQueued _ _ _ _
      · rfl
    · rfl

theorem sameAdmin_closeJob (j : Nat) (s : State) : SameAdmin s (closeJob j s) := by
  unfold closeJob
  dsimp only
  have hquit := (((sameAdmin_endSteps j s).trans (sameAdmin_removeReqsOf j _)).trans (sameAdmin_dropNodesOf j _)).trans
    (sameAdmin_quitPart j _)
  generalize quitPart j _ = s2 at hquit ⊢
  have hdrop := hquit.trans (SameAdmin.foldl (fun _ e => sameAdmin_dropObj e.1 _) (s2.objs.filter fun e => e.2.job == j) s2)
  generalize List.foldl _ s2 _ = s3 at hdrop ⊢
  exact hdrop.trans (by rfl)

theorem sameAdmin_settleClose (j : Nat) (s : State) : SameAdmin s (settleClose j s) := by
  unfold settleClose
  split
  · rfl
  · split
    · rfl
    · exact .foldl (fun _ _ => sameAdmin_decide _ _ _ _) _ s

theorem sameAdmin_undoStage (c : Cmd) (s : State) : SameAdmin s (undoStage c s) := by
  unfold undoStage
  split
  · dsimp only
    split
    · exact sameAdmin_freeSlot _ _ _ s
    · rfl
  · rfl

theorem sameAdmin_completed (c : Cmd) (st : Status) (s : State) : SameAdmin s (completed c st s) := by
  unfold completed
  split
  · rfl
  · split
    · exact SameAdmin.trans (by rfl) (sameAdmin_settleClose _ _)
    · split
      · exact sameAdmin_closeJob _ s
      · split
        · rfl
        · split
          · exact (sameAdmin_undoStage c s).trans (sameAdmin_settleClose _ _)
          · split
            · exact SameAdmin.trans (by rfl) (sameAdmin_settleClose _ _)
            · exact sameAdmin_settleClose _ s

theorem sameAdmin_unbindCmd (c : Cmd) (s : State) : SameAdmin s (unbindCmd c s) :=
  .foldl (fun _ _ => sameAdmin_unbindSlot _ _ _ _) _ s

end Sys2Proof.Machine
end

section
/-! SUPPORT. The admin ring's registers, the completion of its commands, and O33. -/
namespace Sys2Proof.Machine

/-! ### QDB_AQ_ENABLE and the words it locks (R206, R347, R350) -/

/-- Both ring sizes of the admin ring are within 6-12. -/
def aqSizesLegal (q : Qdb) : Prop := 6 ≤ q.aqSize.toNat ∧ q.aqSize.toNat ≤ 12 ∧ 6 ≤ q.acqSize.toNat ∧ q.acqSize.toNat ≤ 12

theorem aqSizesLegal_iff (q : Qdb) :
    (q.aqSize < 6 || q.aqSize > 12 || q.acqSize < 6 || q.acqSize > 12) = false ↔ aqSizesLegal q := by
  simp [aqSizesLegal, BitVec.lt_def]
  omega

/-- The admin ring as enabling it makes it: empty, phase 1. -/
def freshAq (s : State) : Queue :=
  { base := s.qdb.aqBase.toNat, size := 2 ^ s.qdb.aqSize.toNat, tail := 0, head := 0, cqBase := s.qdb.acqBase.toNat,
    cqSize := 2 ^ s.qdb.acqSize.toNat, cqTail := 0, cqPhase := true, cqHead := 0,
    reserved := (s.cmds.filter fun c => c.queue == 64).length, vector := 1, depth := 64, job := 0 }

theorem writeAqEnable_on {v : W32} {s : State} (hopen : regsOpen s = true) (hv : v.getLsbD 0 = true) (hen : s.qdb.aqEn = false)
    (hsize : aqSizesLegal s.qdb) : writeAqEnable v s = setDoorbell 128 0 (setDoorbell 129 0
      { s with qdb := { s.qdb with aqEn := true, aqActive := true }, queues := Tbl.set s.queues 64 (freshAq s) }) := by
  have hlegal := (aqSizesLegal_iff s.qdb).mpr hsize
  simp only [writeAqEnable, hopen, hv, hen, hlegal, freshAq, Bool.not_true, Bool.false_eq_true, if_false, if_true]

theorem writeAqEnable_illegal {v : W32} {s : State} (hopen : regsOpen s = true) (hv : v.getLsbD 0 = true)
    (hen : s.qdb.aqEn = false) (hsize : ¬ aqSizesLegal s.qdb) :
    writeAqEnable v s = { s with glb := { s.glb with errCfg := true } } := by
  have hillegal := eq_true_of_ne_false (mt (aqSizesLegal_iff s.qdb).mp hsize)
  simp only [writeAqEnable, hopen, hv, hen, hillegal, Bool.not_true, Bool.false_eq_true, if_false, if_true]

theorem writeAqEnable_off {v : W32} {s : State} (hopen : regsOpen s = true) (hv : v.getLsbD 0 = false) :
    writeAqEnable v s = { s with qdb := { s.qdb with aqEn := false,
                                                     aqActive := s.qdb.aqActive && s.cmds.any (fun c => c.queue == 64) } } := by
  simp only [writeAqEnable, hopen, hv, Bool.not_true, Bool.false_eq_true, if_false]

/-- The _HI words and sizes of the admin ring, and its _LO words. -/
theorem aqWord_cases {off : Nat} (h : off ∈ [0x10004, 0x10008, 0x10014, 0x10018]) :
    off = 0x10004 ∨ off = 0x10008 ∨ off = 0x10014 ∨ off = 0x10018 := by
  simpa only [List.mem_cons, List.not_mem_nil, or_false] using h

theorem aqLoWord_cases {off : Nat} (h : off ∈ [0x10000, 0x10010]) : off = 0x10000 ∨ off = 0x10010 := by
  simpa only [List.mem_cons, List.not_mem_nil, or_false] using h

/-- The _HI words and sizes of the admin ring have no row of their own. -/
theorem writeWord_aq {s : State} (hopen : regsOpen s = true) (v : W32) {off : Nat}
    (hoff : off ∈ [0x10004, 0x10008, 0x10014, 0x10018]) : writeWord off v s = writeQdb (off - 0x10000) v s := by
  obtain rfl | rfl | rfl | rfl := aqWord_cases hoff <;> (unfold writeWord; rw [hopen]; rfl)

/-- While ACTIVE is set these words are locked (R206). -/
theorem writeQdb_locked {s : State} (hact : s.qdb.aqActive = true) (v : W32) {off : Nat}
    (hoff : off ∈ [0x10004, 0x10008, 0x10014, 0x10018]) : writeQdb (off - 0x10000) v s = locked s := by
  obtain rfl | rfl | rfl | rfl := aqWord_cases hoff <;> exact if_pos hact

/-- A _LO word of the admin ring is staged. -/
theorem writeLo_aq {s : State} (hopen : regsOpen s = true) (hact : s.qdb.aqActive = false) (v : W32) {off : Nat}
    (hoff : off ∈ [0x10000, 0x10010]) : writeLo off v s = stageLo off v s := by
  obtain rfl | rfl := aqLoWord_cases hoff <;> (unfold writeLo; rw [hopen, hact]; rfl)

/-- A _HI word whose _LO word is staged: both halves count. -/
theorem stagedHi_staged {key : Nat} {lo : W32} {s : State} (h : Tbl.get? s.qdb.loStage key = some lo) (old : Nat) (hi : W32) :
    (stagedHi key old hi s).1 = hi.toNat * 2 ^ 32 + lo.toNat := by
  simp [stagedHi, h]

/-- LO_WORD_STAGE on a base of the admin ring keeps its low half for the _HI word, which finds the ring disabled as before. -/
theorem loWordStage_aq {s : State} (hopen : regsOpen s = true) (hact : s.qdb.aqActive = false) (v : W32) {off : Nat}
    (hoff : off ∈ [0x10000, 0x10010]) : ∃ t, exec (.loWordStage off v) s = .next t ∧ regsOpen t = true ∧ t.qdb.aqActive = false ∧
      Tbl.get? t.qdb.loStage off = some v := by
  refine ⟨_, congrArg commit (writeLo_aq hopen hact v hoff), hopen, hact, ?_⟩
  exact Tbl.get?_set_self _ _ _

/-! ### Reading the admin ring (R207, R350) -/

theorem mayRead_aq {s : State} (hen : s.qdb.aqEn = false) (sp : OpSpec) (p : Pkt) : mayRead sp 64 s p = false := by
  unfold mayRead
  cases Tbl.get? s.queues 64 <;> simp [hen]

/-- With EN = 0 the AQ has no turn. -/
theorem turnQueue_aq {s : State} (hen : s.qdb.aqEn = false) : turnQueue s ≠ some 64 := by
  intro h
  have hready : queueReady s 64 = true := List.find?_some h
  unfold queueReady at hready
  split at hready
  · cases hready
  · split at hready <;> simp [mayRead_aq hen] at hready

/-! ### The end of an accepted command (R208, R350) -/

/-- The final entry ends the command it names, and no other. -/
theorem adminView_finish {k : Nat × Nat} {s : State} {c : Cmd} {st : Status} (h : cmdAt s k = some c) (hd : c.done = some st) :
    adminView (finish k s) = (s.qdb.aqEn, s.qdb.aqActive, (s.cmds.map Cmd.key).filter fun x => !(x.1 == k.1 && x.2 == k.2)) := by
  unfold finish
  simp only [h, hd]
  generalize ht : postEntry k.1 k.2 st c.job 0 (finalFlags c) _ c.result (isFailure st) (onQueue k.1 _ s) = t
  have hposted : SameAdmin s t := by
    rw [← ht]
    exact SameAdmin.trans (by rfl) (sameAdmin_postEntry _ _ _ _ _ _ _ _ _ _)
  obtain ⟨hen, hact, hkeys⟩ : t.qdb.aqEn = s.qdb.aqEn ∧ t.qdb.aqActive = s.qdb.aqActive ∧ t.cmds.map Cmd.key = s.cmds.map Cmd.key := by
    simpa [SameAdmin, adminView] using hposted
  show (t.qdb.aqEn, t.qdb.aqActive, (t.cmds.filter fun x => !(x.queue == k.1 && x.seq == k.2)).map Cmd.key) = _
  rw [hen, hact, ← hkeys, List.filter_map]
  rfl

/-- The RESULT and SLOT of a final entry leave the command's name and status. -/
theorem withSlot_withEnergy (c : Cmd) : (withSlot (withEnergy c)).key = c.key ∧ (withSlot (withEnergy c)).done = c.done := by
  have henergy : (withEnergy c).key = c.key ∧ (withEnergy c).done = c.done := by
    unfold withEnergy
    split <;> exact ⟨rfl, rfl⟩
  unfold withSlot
  split
  · exact henergy
  · split <;> exact henergy

/-- ACTIVE clears with EN = 0 once no command of the AQ is accepted (R350). -/
def clearActive (s : State) : State :=
  if !s.qdb.aqEn && !(s.cmds.any fun x => x.queue == 64) then { s with qdb := { s.qdb with aqActive := false } } else s

theorem clearActive_aqActive {s : State} (hen : s.qdb.aqEn = false) :
    (clearActive s).qdb.aqActive = (s.qdb.aqActive && s.cmds.any fun x => x.queue == 64) := by
  unfold clearActive
  cases hany : s.cmds.any fun x => x.queue == 64 <;> simp [hen]

/-- A completion of the AQ: the final entry, what it brings, ACTIVE, and what goes on then. -/
theorem finishCmd_aq {seq : Nat} {s : State} {c : Cmd} {st : Status} (h : cmdAt s (64, seq) = some c) (hd : c.done = some st) :
    finishCmd (64, seq) s = settle (dispatch (sweepObjs (clearActive (completed c st (unbindCmd c (finish (64, seq)
      (onCmd (64, seq) (fun c => withSlot (withEnergy c)) s))))))) := by
  simp only [finishCmd, h, hd, clearActive, decide_true, Bool.true_and]

/-- With EN = 0, the completion of an AQ command leaves ACTIVE set while another command of the AQ is accepted. -/
theorem finishCmd_aqActive {seq : Nat} {s : State} {c : Cmd} {st : Status} (h : cmdAt s (64, seq) = some c)
    (hd : c.done = some st) (hen : s.qdb.aqEn = false) : (finishCmd (64, seq) s).qdb.aqActive =
      (s.qdb.aqActive && s.cmds.any fun x => x.queue == 64 && x.seq != seq) := by
  have hname := sameAdmin_onCmd (64, seq) (g := fun c => withSlot (withEnergy c)) (fun c => (withSlot_withEnergy c).1) s
  have hcmd : cmdAt (onCmd (64, seq) (fun c => withSlot (withEnergy c)) s) (64, seq) = some (withSlot (withEnergy c)) := by
    rw [cmdAt_onCmd _ _ _ (fun c => congrArg Prod.fst (withSlot_withEnergy c).1)
      (fun c => congrArg Prod.snd (withSlot_withEnergy c).1), if_pos rfl, h]
    rfl
  rw [finishCmd_aq h hd]
  generalize onCmd (64, seq) _ s = s0 at hname hcmd ⊢
  have hend := adminView_finish hcmd ((withSlot_withEnergy c).2.trans hd)
  have hrest := (sameAdmin_unbindCmd c (finish (64, seq) s0)).trans (sameAdmin_completed c st _)
  generalize completed c st _ = s2 at hrest ⊢
  have hafter := ((sameAdmin_sweepObjs (clearActive s2)).trans (sameAdmin_dispatch _)).trans (sameAdmin_settle _)
  have hview := (Eq.trans hrest hend)
  simp only [SameAdmin, adminView, Prod.mk.injEq] at hname hview hafter
  obtain ⟨hen0, hact0, hkeys0⟩ := hname
  obtain ⟨hen2, hact2, hkeys2⟩ := hview
  have hany : (s2.cmds.any fun x => x.queue == 64) = s.cmds.any fun x => x.queue == 64 && x.seq != seq := by
    calc (s2.cmds.any fun x => x.queue == 64)
        = (s2.cmds.map Cmd.key).any fun x => x.1 == 64 := by rw [List.any_map]; rfl
      _ = (s.cmds.map Cmd.key).any fun x => x.1 == 64 && x.2 != seq := by
        rw [hkeys2, hkeys0, List.any_filter]
        congr 1
        funext x
        cases h64 : x.1 == 64 <;> simp [bne]
      _ = s.cmds.any fun x => x.queue == 64 && x.seq != seq := by rw [List.any_map]; rfl
  rw [hafter.2.1, clearActive_aqActive (hen2.trans (hen0.trans hen)), hact2, hact0, hany]

end Sys2Proof.Machine

namespace Sys2Proof
open Machine

/-- Settles O33: the enable word's own branches, the turn that the AQ has not while EN = 0, the completion that leaves EN, ACTIVE and the
names of all other commands, and the lock on the base and size words. -/
theorem adminRingEnable : Obligations.AdminRingEnable := by
  intro v s hopen
  refine ⟨fun hv hen => ⟨fun hsize => ?on, fun hsize => ?illegal⟩, fun hv => ?off, fun hen => turnQueue_aq hen,
    fun c seq hen hcmd hdone hmay => ?complete, fun hact => ⟨?aqSize, ?acqSize, fun e he hi => ?bases⟩, fun hact off hoff => ?locks⟩
  case on =>
    refine ⟨_, freshAq s, congrArg commit (writeAqEnable_on hopen hv hen hsize), rfl, rfl, ?_, rfl, rfl, rfl, rfl, rfl, rfl, rfl,
      rfl, ?_, ?_⟩
    · simp [setDoorbell]
    · simp [doorbell, setDoorbell]
    · simp [doorbell, setDoorbell, Tbl.getD_set_ne]
  case illegal => exact ⟨_, congrArg commit (writeAqEnable_illegal hopen hv hen hsize), rfl, rfl, rfl⟩
  case off => exact ⟨_, congrArg commit (writeAqEnable_off hopen hv), rfl, rfl, rfl, rfl⟩
  case complete =>
    obtain ⟨st, hst⟩ := Option.isSome_iff_exists.mp hdone
    have hexec : exec (.commandComplete 64 seq) s = commit (finishCmd (64, seq) s) := by
      show execCommandComplete 64 seq s = _
      simp only [execCommandComplete, hcmd, hdone, hmay, Bool.and_self, if_true]
    exact ⟨_, hexec, finishCmd_aqActive hcmd hst hen⟩
  case aqSize =>
    refine ⟨_, congrArg commit (writeWord_aq hopen v (off := 0x10008) (by decide)), ?_⟩
    show (writeQdb 0x08 v s).qdb.aqSize = _
    simp [writeQdb, hact]
  case acqSize =>
    refine ⟨_, congrArg commit (writeWord_aq hopen v (off := 0x10018) (by decide)), ?_⟩
    show (writeQdb 0x18 v s).qdb.acqSize = _
    simp [writeQdb, hact]
  case bases =>
    simp only [List.mem_cons, List.not_mem_nil, or_false] at he
    obtain rfl | rfl := he
    · obtain ⟨t, hstage, hopen', hact', hlo⟩ := loWordStage_aq hopen hact v (off := 0x10000) (by decide)
      refine ⟨t, _, hstage, congrArg commit (writeWord_aq hopen' hi (off := 0x10004) (by decide)), ?_⟩
      show (writeQdb 0x04 hi t).qdb.aqBase = _
      simp [writeQdb, hact', stagedHi_staged hlo]
    · obtain ⟨t, hstage, hopen', hact', hlo⟩ := loWordStage_aq hopen hact v (off := 0x10010) (by decide)
      refine ⟨t, _, hstage, congrArg commit (writeWord_aq hopen' hi (off := 0x10014) (by decide)), ?_⟩
      show (writeQdb 0x14 hi t).qdb.acqBase = _
      simp [writeQdb, hact', stagedHi_staged hlo]
  case locks =>
    have hword := (writeWord_aq hopen v hoff).trans (writeQdb_locked hact v hoff)
    have hexec : exec (.registerWrite off v 0xF) s = commit (writeWord off v s) := by
      obtain rfl | rfl | rfl | rfl := aqWord_cases hoff <;> rfl
    rw [hexec, hword]
    exact ⟨_, rfl, rfl⟩

end Sys2Proof
end

section
/-! SUPPORT. What a checked read leaves and answers, what a host access makes of the state in each case of R374, and O38. -/
namespace Sys2Proof.Machine

/-! ### What checked accesses leave unchanged (R321, R322, R326, R360) -/

/-- `t` differs from `s` in the words in error, their counts and the counter of free values only. -/
def OnlyEcc (s t : State) : Prop := ∃ m r f, t = { s with mctl := m, ras := r, fresh := f }

theorem OnlyEcc.refl (s : State) : OnlyEcc s s := ⟨_, _, _, rfl⟩

theorem OnlyEcc.trans {s t u : State} (h : OnlyEcc s t) (k : OnlyEcc t u) : OnlyEcc s u := by
  obtain ⟨_, _, _, rfl⟩ := h
  obtain ⟨_, _, _, rfl⟩ := k
  exact ⟨_, _, _, rfl⟩

theorem OnlyEcc.foldl {α : Type} {f : State → α → State} (h : ∀ a x, OnlyEcc a (f a x)) (l : List α) (s : State) :
    OnlyEcc s (l.foldl f s) :=
  List.foldlRecOn l f (.refl s) fun a ha x _ => ha.trans (h a x)

theorem OnlyEcc.evq {s t : State} (h : OnlyEcc s t) : t.evq = s.evq := by
  obtain ⟨_, _, _, rfl⟩ := h
  rfl

theorem OnlyEcc.mem {s t : State} (h : OnlyEcc s t) : t.mem = s.mem := by
  obtain ⟨_, _, _, rfl⟩ := h
  rfl

theorem onlyEcc_countCe (k : MemKind) (s : State) : OnlyEcc s (countCe k s) := ⟨_, _, _, rfl⟩

theorem onlyEcc_markDue (k : MemKind) (a reason : Nat) (s : State) : OnlyEcc s (markDue k a reason s) := by
  unfold markDue
  dsimp only
  split <;> exact ⟨_, _, _, rfl⟩

theorem onlyEcc_noteHit (e : ErrWord) (s : State) : OnlyEcc s (noteHit e s) := by
  unfold noteHit
  split
  · exact .refl s
  · dsimp only
    split
    · exact .trans ⟨_, _, _, rfl⟩ (onlyEcc_markDue _ _ _ _)
    · exact ⟨_, _, _, rfl⟩

theorem onlyEcc_eccOnWrite (a n : Nat) (s : State) : OnlyEcc s (eccOnWrite a n s) := by
  unfold eccOnWrite
  split
  · exact .refl s
  · split <;> exact ⟨_, _, _, rfl⟩

theorem onlyEcc_eccRead (k : MemKind) (a n : Nat) (s : State) : OnlyEcc s (eccRead k a n s).st := by
  have hcount : ∀ good : List ErrWord, OnlyEcc s (good.foldl (fun x e => noteHit e (countCe k x)) s) :=
    fun good => .foldl (fun x e => (onlyEcc_countCe k x).trans (onlyEcc_noteHit e _)) good s
  unfold eccRead
  dsimp only
  split
  · exact .refl s
  · split
    · exact ⟨_, _, _, rfl⟩
    · refine .trans (.trans ?_ ⟨_, _, _, rfl⟩) (.foldl (fun _ _ => onlyEcc_markDue _ _ _ _) _ _)
      split
      · exact (hcount _).trans ⟨_, _, _, rfl⟩
      · exact hcount _

theorem onlyEcc_eccReadAt (a n : Nat) (s : State) : OnlyEcc s (eccReadAt a n s).st := by
  unfold eccReadAt
  split
  · exact onlyEcc_eccRead _ _ _ _
  · exact .refl s

/-! ### What a checked read answers (R322) -/

/-- With checking on, a read answers the bytes that stand in memory and the uncorrectable words of its span. -/
theorem eccRead_checked {k : MemKind} {s : State} (hcheck : checkOff s k = false) (a n : Nat) :
    (eccRead k a n s).bytes = readMem s a n ∧ (eccRead k a n s).ue = (errsIn s k a n).filter fun e => 2 ≤ e.syms := by
  unfold eccRead
  by_cases hes : errsIn s k a n = []
  · simp [hes]
  · simp [hes, hcheck]

/-- A span without uncorrectable words is answered without error, any other is poisoned. -/
theorem eccRead_poison {k : MemKind} {s : State} (hcheck : checkOff s k = false) (a n : Nat) :
    (if (eccRead k a n s).ue = [] then RespErr.none else .poison) =
      if (errsIn s k a n).any (fun e => decide (2 ≤ e.syms)) then .poison else .none := by
  rw [(eccRead_checked hcheck a n).2]
  have hclean : (errsIn s k a n).filter (fun e => decide (2 ≤ e.syms)) = [] ↔
      ¬ (errsIn s k a n).any (fun e => decide (2 ≤ e.syms)) = true := by simp
  simp only [hclean, ite_not]

/-! ### A host access, case by case (R374) -/

theorem hostAccess_load_served {a n : Nat} {k : MemKind} {s : State} (bar2 : Bool)
    (hserved : (hostServed s && hostMapped s a n) = true) (hk : memKindOf a = some k) (hcheck : checkOff s k = false) :
    hostAccess bar2 a n none s = respond (readMem s a n)
      (if (errsIn s k a n).any (fun e => decide (2 ≤ e.syms)) then .poison else .none) (eccRead k a n s).st := by
  simp only [hostAccess, hserved, if_true, eccReadAt, hk, eccRead_poison hcheck, (eccRead_checked hcheck a n).1]

theorem hostAccess_load_unserved {a n : Nat} {s : State} (bar2 : Bool)
    (hserved : (hostServed s && hostMapped s a n) = false) :
    hostAccess bar2 a n none s = respond (List.replicate n 0xFF) (if bar2 then .unsupported else .poison) s := by
  simp only [hostAccess, hserved, Bool.false_eq_true, if_false]

theorem hostAccess_store_served {a : Nat} {b : List Byte} {s : State} (bar2 : Bool) (n : Nat)
    (hserved : (hostServed s && hostMapped s a b.length) = true) : hostAccess bar2 a n (some b) s = storeMem a b s := by
  simp only [hostAccess, hserved, if_true]

theorem hostAccess_store_unserved {a : Nat} {b : List Byte} {s : State} (bar2 : Bool) (n : Nat)
    (hserved : (hostServed s && hostMapped s a b.length) = false) : hostAccess bar2 a n (some b) s = s := by
  simp only [hostAccess, hserved, Bool.false_eq_true, if_false]

theorem storeMem_mem (a : Nat) (b : List Byte) (s : State) : (storeMem a b s).mem = Mem.write s.mem a b :=
  (onlyEcc_eccOnWrite a b.length { s with mem := Mem.write s.mem a b }).mem

theorem storeMem_evq (a : Nat) (b : List Byte) (s : State) : (storeMem a b s).evq = s.evq :=
  (onlyEcc_eccOnWrite a b.length { s with mem := Mem.write s.mem a b }).evq

/-- R374 posts no event, whatever the access meets. -/
theorem hostAccess_evq (bar2 : Bool) (a n : Nat) (st : Option (List Byte)) (s : State) :
    (hostAccess bar2 a n st s).evq = s.evq := by
  unfold hostAccess
  split
  · split
    · exact storeMem_evq a _ s
    · rfl
  · split
    · exact (onlyEcc_eccReadAt a n s).evq
    · rfl

/-! ### The two instructions -/

/-- `t` shows the host what `u` does: the answer, the event queue, and chip memory in canonical form. -/
structure Shows (u t : State) : Prop where
  evq : t.evq = u.evq
  resp : t.att.resp = u.att.resp
  respErr : t.att.respErr = u.att.respErr
  mem : t.mem = Mem.canon u.mem

theorem Shows.chipByte {u t : State} (h : Shows u t) (x : Nat) : chipByte t x = chipByte u x := by
  simp only [Machine.chipByte, h.mem, Mem.get_canon]

theorem Shows.readMem {u t : State} (h : Shows u t) (a n : Nat) : readMem t a n = readMem u a n := by
  simp only [Machine.readMem, h.mem, Mem.read_canon]

theorem Shows.mem_of_eq {u t : State} {m : Mem} (h : Shows u t) (hu : u.mem = m) (hm : Mem.wf m = true) : t.mem = m := by
  rw [h.mem, hu, Mem.canon_of_wf hm]

theorem shows_commit (s : State) : ∃ t, commit s = .next t ∧ Shows s t := ⟨_, rfl, rfl, rfl, rfl, rfl⟩

theorem holdLines_eq (a n : Nat) (s : State) : ∃ l, holdLines a n s = { s with att := { s.att with snoop := l } } := ⟨_, rfl⟩

/-- The lines the host holds are no part of what it is shown. -/
theorem Shows.of_holdLines {a n : Nat} {u t : State} (h : Shows (holdLines a n u) t) : Shows u t := by
  obtain ⟨l, hl⟩ := holdLines_eq a n u
  rw [hl] at h
  exact ⟨h.evq, h.resp, h.respErr, h.mem⟩

theorem execCxlMemAccess_eq (x n : Nat) (st : Option (List Byte)) (s : State) :
    execCxlMemAccess x n st s = commit (
      let a := hbmBase + s.att.hdmBase.toNat * 2 ^ 30 + x
      let len := (st.map List.length).getD n
      if !s.att.linkUp || x + len > 256 * 2 ^ 30 then s
      else if hostServed s && hostMapped s a len then holdLines a len (hostAccess false a n st s)
      else hostAccess false a n st s) := by
  cases st <;> rfl

theorem execBar2Access_eq (x n : Nat) (st : Option (List Byte)) (s : State) :
    execBar2Access x n st s = commit (
      if !s.att.linkUp || x + (st.map List.length).getD n > 64 * 2 ^ 30 then s
      else hostAccess true (s.att.bar2tgt.toNat * 2 ^ 30 + x) n st s) := by
  cases st <;> rfl

/-- CXL_MEM_ACCESS inside the 256 GiB range makes the access at the decoder's address; beside it only the host's lines change. -/
theorem exec_cxlMemAccess_shows {x n : Nat} {st : Option (List Byte)} {s : State} (hlink : s.att.linkUp = true)
    (hrange : x + (st.map List.length).getD n ≤ 256 * 2 ^ 30) :
    ∃ t, exec (.cxlMemAccess x n st) s = .next t ∧
      Shows (hostAccess false (hbmBase + s.att.hdmBase.toNat * 2 ^ 30 + x) n st s) t := by
  show ∃ t, execCxlMemAccess x n st s = .next t ∧ _
  rw [execCxlMemAccess_eq]
  dsimp only
  rw [if_neg (by simp only [hlink, Bool.not_true, Bool.false_or, decide_eq_true_eq]; omega)]
  split
  · obtain ⟨t, hnext, hshows⟩ := shows_commit (holdLines _ _ _)
    exact ⟨t, hnext, hshows.of_holdLines⟩
  · exact shows_commit _

/-- BAR2_ACCESS inside the 64 GiB window makes the access at the target in force. -/
theorem exec_bar2Access_shows {x n : Nat} {st : Option (List Byte)} {s : State} (hlink : s.att.linkUp = true)
    (hrange : x + (st.map List.length).getD n ≤ 64 * 2 ^ 30) :
    ∃ t, exec (.bar2Access x n st) s = .next t ∧ Shows (hostAccess true (s.att.bar2tgt.toNat * 2 ^ 30 + x) n st s) t := by
  show ∃ t, execBar2Access x n st s = .next t ∧ _
  rw [execBar2Access_eq, if_neg (by simp only [hlink, Bool.not_true, Bool.false_or, decide_eq_true_eq]; omega)]
  exact shows_commit _

end Sys2Proof.Machine

namespace Sys2Proof
open Machine

/-- Settles O38: both instructions show the host what `hostAccess` makes of the state, and each case of R374 is one equation of it; a
checked read changes no byte of chip memory and no word of the event queue. -/
theorem hostAccessesAnswer : Obligations.HostAccessesAnswer := by
  intro x n st c a s hmem hlink
  dsimp only
  intro hc
  have haccess : ∃ bar2 t, exec c s = .next t ∧ (c = .bar2Access x n st ↔ bar2 = true) ∧ Shows (hostAccess bar2 a n st s) t := by
    obtain ⟨rfl, hrange, rfl⟩ | ⟨rfl, hrange, rfl⟩ := hc
    · obtain ⟨t, hexec, hshows⟩ := exec_cxlMemAccess_shows hlink hrange
      exact ⟨false, t, hexec, by simp, hshows⟩
    · obtain ⟨t, hexec, hshows⟩ := exec_bar2Access_shows hlink hrange
      exact ⟨true, t, hexec, by simp, hshows⟩
  obtain ⟨bar2, t, hexec, hbar2, hshows⟩ := haccess
  refine ⟨t, hexec, hshows.evq.trans (hostAccess_evq bar2 a n st s), ?loadServed, ?loadUnserved, ?storeServed, ?storeUnserved⟩
  case loadServed =>
    rintro rfl hserved k hk hcheck
    rw [hostAccess_load_served bar2 hserved hk hcheck] at hshows
    exact ⟨hshows.resp, hshows.mem_of_eq (onlyEcc_eccRead k a n s).mem hmem.1, hshows.respErr⟩
  case loadUnserved =>
    rintro rfl hserved
    rw [hostAccess_load_unserved bar2 hserved] at hshows
    simp only [hbar2]
    exact ⟨hshows.resp, hshows.mem_of_eq rfl hmem.1, hshows.respErr⟩
  case storeServed =>
    rintro b rfl hserved
    rw [hostAccess_store_served bar2 n hserved] at hshows
    refine ⟨?_, fun y hy => ?_⟩
    · rw [hshows.readMem, readMem, storeMem_mem, Mem.read_write hmem.1]
    · rw [hshows.chipByte, chipByte, storeMem_mem, Mem.get_write hmem.1, if_neg (by omega)]
      rfl
  case storeUnserved =>
    rintro b rfl hserved
    rw [hostAccess_store_unserved bar2 n hserved] at hshows
    exact hshows.mem_of_eq rfl hmem.1

end Sys2Proof
end
